-- ==== Sys2Proof/Word.lean ====
section
/-! DEFINITION. The word types of the Morivo (spec R1, R103) and the readings of a bit pattern as a number. -/

namespace Sys2Proof

/-- A 64-bit general-register value (R103). -/
abbrev Word := BitVec 64
/-- A 32-bit instruction word or vector lane (R62, R191). -/
abbrev Half := BitVec 32
/-- One byte of memory. -/
abbrev Byte := BitVec 8

/-- A general register number, g0 to g15 (R49). -/
abbrev GReg := Fin 16
/-- A vector register number, v0 to v7. -/
abbrev VReg := Fin 8
/-- A mask register number, k0 to k3. -/
abbrev KReg := Fin 4
/-- An accumulator tile, acc0 to acc3. -/
abbrev Tile := Fin 4

end Sys2Proof
end

