-- ==== Sys2Proof/Machine/Bits.lean ====
section
/-! DEFINITION. Bit-field, extension and byte-order helpers used by the decoder and by every meaning (R1, R3, R7). -/

namespace Sys2Proof.Bits

/-- The field [hi:lo] of a number (R1). -/
def fld (w hi lo : Nat) : Nat := w / 2 ^ lo % 2 ^ (hi + 1 - lo)

/-- The field [hi:lo] of a 64-bit word. -/
def wfld (w : Word) (hi lo : Nat) : Nat := fld w.toNat hi lo

/-- Bit n of a 64-bit word. -/
def wbit (w : Word) (n : Nat) : Bool := w.getLsbD n

/-- The number n read as two's complement of the given width. -/
def toSigned (n width : Nat) : Int :=
  let m := n % 2 ^ width
  if 2 * m < 2 ^ width then (m : Int) else (m : Int) - (2 ^ width : Nat)

/-- `sext(x, n)` of R7: the low n bits, sign-extended to 64. -/
def sext (x n : Nat) : Word := BitVec.ofInt 64 (toSigned x n)

/-- `zext(x, n)` of R7: the low n bits, zero-extended to 64. -/
def zext (x n : Nat) : Word := BitVec.ofNat 64 (x % 2 ^ n)

/-- A Boolean as bit value 0 or 1. -/
def b2n (b : Bool) : Nat := if b then 1 else 0

/-- The n bytes of a number, lowest first (R3). -/
def bytesOf : Nat → Nat → List Byte
  | 0, _ => []
  | n + 1, v => BitVec.ofNat 8 v :: bytesOf n (v / 256)

/-- The number that a list of bytes spells, lowest first (R3). -/
def ofBytes : List Byte → Nat
  | [] => 0
  | b :: bs => b.toNat + 256 * ofBytes bs

/-- A natural number split into k chunks of w bits, lowest first. -/
def chunks : Nat → Nat → Nat → List Nat
  | 0, _, _ => []
  | k + 1, w, v => v % 2 ^ w :: chunks k w (v / 2 ^ w)

/-- Whether a value is aligned to a size. -/
def aligned (a n : Nat) : Bool := a % n == 0

/-- The number of set bits among the low `n` bits. -/
def popcount : Nat → Nat → Nat
  | 0, _ => 0
  | n + 1, v => v % 2 + popcount n (v / 2)

/-- Position of the highest set bit (0 for 0). -/
def log2 (n : Nat) : Nat := Nat.log2 n

/-- Ceiling division. -/
def ceilDiv (a b : Nat) : Nat := (a + b - 1) / b

end Sys2Proof.Bits
end

