-- ==== Sys2Proof/Syntax.lean ====
section
/-! DEFINITION. The abstract instructions and events: one constructor of Instr per row of spec/opcode_table.json.
Rows 1 to 178 are instruction words (R67 to R76); the other 106 are steps of the device's other agents
(spec/95_what_each_step_holds.md), whose arguments say which message, unit or command the step concerns. -/

namespace Sys2Proof

/-- Type slot of major 32 (R122). -/
inductive ITy where | s64 | s32 | z64 | z32
  deriving DecidableEq, Repr
/-- Access size of format M (R69). -/
inductive Size where | b8 | b16 | b32 | b64
  deriving DecidableEq, Repr
/-- Travel class (R145). -/
inductive Cls where | ord | spray
  deriving DecidableEq, Repr
/-- Extension of a load or of `bfx` (R69, R127). -/
inductive Ext where | sx | zx
  deriving DecidableEq, Repr
/-- A lag: a count 0 to 15 or a general register (R44, R69). -/
inductive Lag where | count (n : Fin 16) | reg (r : GReg)
  deriving DecidableEq, Repr
/-- Mode of an aged load (R155). -/
inductive AMode where | park | trap
  deriving DecidableEq, Repr
/-- Operation of `amo` (R161). -/
inductive AmoOp where | add | and | or | xor | min | max | minz | maxz | swap | fadd
  deriving DecidableEq, Repr
/-- Memory scope (R38). -/
inductive Scope where | core | cluster | die | package | fabric
  deriving DecidableEq, Repr
/-- Rounding mode (R89). -/
inductive Rnd where | rne | rz | rd | ru | rs
  deriving DecidableEq, Repr
/-- Types of `fcvt` (R178). -/
inductive CTy where | f32 | f16 | bf16 | l6 | a36 | s32 | s64 | z32 | z64
  deriving DecidableEq, Repr
/-- Destination type of `srnd` (R180). -/
inductive SrndD where | f32 | f16 | bf16
  deriving DecidableEq, Repr
/-- Source type of `srnd` (R180). -/
inductive SrndS where | f32 | a36
  deriving DecidableEq, Repr
/-- Mode of `fsgn` (R177). -/
inductive SgnMode where | j | jn | jx
  deriving DecidableEq, Repr
/-- Element size of GATHER and SCATTER (R225). -/
inductive ESize where | e8 | e64 | e512
  deriving DecidableEq, Repr
/-- Merge of REDUCE (R228). -/
inductive RedOp where | add | min | max | and | or | xor
  deriving DecidableEq, Repr
/-- Element type of REDUCE (R228). -/
inductive RedTy where | f32 | s32 | z32 | s64 | z64 | a36
  deriving DecidableEq, Repr
/-- The engine port of `pop` and `ctrwait` (R70, R222). -/
inductive Port where | copy | net
  deriving DecidableEq, Repr
/-- A near-mesh link (R264): ln, le, ls, lw. -/
inductive Link where | n | e | s | w
  deriving DecidableEq, Repr
/-- A latch that `mclr L` empties (R257). -/
inductive Latch where | opa | opb | lane (l : Link)
  deriving DecidableEq, Repr

/-- Options of a copy-engine command: NR, Q, OB (R225). -/
structure CpOpt where
  nr : Bool
  q : Bool
  ob : Bool
  deriving DecidableEq, Repr

/-- Barrier options BE and BH of a copy-engine command (R225). -/
structure Bar where
  be : Bool
  bh : Fin 8
  deriving DecidableEq, Repr

/-- Options of a network command: NR, Q, H and T (R365). -/
structure NwOpt where
  nr : Bool
  q : Bool
  h : Bool
  t : Fin 16
  deriving DecidableEq, Repr

/-- What can be lost (R329, R349), beside a number: the core of that number; the copy engine or the network engine of the cluster or edge
group of that number; of the switch of that number, the link at an up-port. -/
inductive LostUnit where
  | core | copy | net
  | link (port : Nat)
  deriving DecidableEq, Repr

/-- What the package switch learns as an Ebtar link trains: the level of each node that it reaches (R350), and, with DESIGN CHOICE (log
entry 70), the booths granted to host adapters. -/
structure Learnt where
  levels : List (Nat × Nat)
  grants : List (Nat × Nat)
  deriving DecidableEq, Repr

/-- The algorithms of an SPDM exchange (R386). -/
inductive SpdmAlg where | ecdsaP384 | sha384 | secp384r1 | aes256Gcm
  deriving DecidableEq, Repr

/-- A NEGOTIATE_ALGORITHMS request: the package, and the algorithms that the requester offers (R386). -/
structure AlgRequest where
  pkg : Nat
  offer : List SpdmAlg
  deriving DecidableEq, Repr

/-- The instructions and events of the device. -/
inductive Instr where
  -- major 0 (R135)
  | nop | ecall | brk | tret | ifence
  -- majors 1 to 4 (R138)
  | csrr (d : GReg) (c : BitVec 12)
  | csrw (c : BitVec 12) (a : GReg)
  | csrs (c : BitVec 12) (a : GReg)
  | csrc (c : BitVec 12) (a : GReg)
  -- majors 5 to 15 (R130 to R132)
  | jmp (t : BitVec 21)
  | call (t : BitVec 21)
  | jr (a : GReg)
  | callr (a : GReg)
  | beq (a b : GReg) (t : BitVec 17)
  | bne (a b : GReg) (t : BitVec 17)
  | blt (a b : GReg) (t : BitVec 17)
  | bge (a b : GReg) (t : BitVec 17)
  | blo (a b : GReg) (t : BitVec 17)
  | bhs (a b : GReg) (t : BitVec 17)
  | bkz (k : KReg) (t : BitVec 17)
  | bknz (k : KReg) (t : BitVec 17)
  -- majors 16 to 21 (R147, R150, R155)
  | ld (d a : GReg) (s : Size) (c : Cls) (e : Ext) (o : BitVec 12)
  | st (d a : GReg) (s : Size) (c : Cls) (o : BitVec 12)
  | ldf (d a : GReg) (c : Cls) (o : BitVec 12)
  | ldff (d a : GReg) (c : Cls) (o : BitVec 12)
  | fetst (d a : GReg) (c : Cls) (o : BitVec 12)
  | stf (d a : GReg) (c : Cls) (o : BitVec 12)
  | stfill (d a : GReg) (c : Cls) (o : BitVec 12)
  | stemp (a : GReg) (c : Cls) (o : BitVec 12)
  | lda (d a : GReg) (m : AMode) (g : Lag) (o : BitVec 8)
  | fetcha (d a : GReg) (m : AMode) (g : Lag) (o : BitVec 8)
  -- major 22 (R158, R159)
  | pub (d a b : GReg)
  | itset (a : GReg)
  | itinc
  -- major 23 (R161)
  | amo (o : AmoOp) (d a b : GReg) (wide : Bool) (c : Cls)
  | cas (d a b : GReg) (wide : Bool) (c : Cls)
  -- major 24 (R165)
  | fence (s : Scope)
  | mig (a : GReg)
  | migc (a : GReg)
  -- major 25 (R168)
  | tlook (d a : GReg)
  | tset (a b : GReg)
  | tinv (a : GReg)
  | tage (d a : GReg)
  -- major 26, port 1 (R225)
  | pushCopy (a b : GReg) (o : CpOpt) (r : Bar)
  | pushGather (a b : GReg) (o : CpOpt) (r : Bar) (z : ESize)
  | pushScatter (a b : GReg) (o : CpOpt) (r : Bar) (z : ESize)
  | pushFill (a b : GReg) (o : CpOpt) (r : Bar)
  | pushFetcha (a b : GReg) (o : CpOpt) (r : Bar)
  | pushPublish (a b : GReg) (o : CpOpt) (r : Bar)
  | pushReduce (a b : GReg) (o : CpOpt) (x : RedOp) (t : RedTy)
  | pushAbar (a b : GReg) (o : CpOpt) (h : Fin 8)
  | pushArm (a b : GReg)
  -- major 26, port 2 (R365)
  | pushEpopen (a b : GReg) (o : NwOpt)
  | pushWsend (a b : GReg) (o : NwOpt)
  | pushWwrite (a b : GReg) (o : NwOpt)
  | pushWread (a b : GReg) (o : NwOpt)
  | pushCtrset (a b : GReg) (o : NwOpt)
  | pushCtrwait (a b : GReg) (o : NwOpt)
  -- major 27 (R222)
  | pop (d : GReg) (p : Port)
  | ctrwait (a : GReg) (p : Port)
  | crcfg (a : GReg)
  | crcfgSet (a : GReg)
  | crcfgAdd (a : GReg)
  -- major 28 (R299)
  | spawn (a b : GReg)
  | post (a b : GReg)
  | done
  | yield
  | send (a b : GReg)
  | chset (d a b : GReg)
  | chclr (d a b : GReg)
  | resid (a : GReg)
  | launch (d a : GReg)
  -- major 29 (R250, R273)
  | mcfg (a b : GReg)
  | mzero (t : Tile) (all : Bool)
  | mma (t : Tile) (a b : GReg) (s : Bool) (k : BitVec 8)
  | mst (t : Tile) (a b : GReg)
  | mcnt (d : GReg) (t : Tile) (s : Fin 4)
  | mclrTile (t : Tile)
  | mclrLatch (l : Latch)
  | mcmp (a b : GReg) (k : BitVec 8)
  | mlink (d : GReg) (r : Link)
  | mrot (t : Tile) (a b : GReg) (s : Bool) (k : BitVec 8)
  | mnorm (d a b : GReg)
  | malias (a : GReg)
  | msmp (t : Tile) (a b : GReg) (s : Bool) (k : BitVec 8)
  | mvar (d : GReg) (s : Fin 4)
  | mstop (a b : GReg)
  -- major 30 (R264)
  | lrd (d : GReg) (i : Link)
  | lrf (d : GReg) (i o : Link)
  | lwr (o : Link) (a : GReg)
  -- major 31 (R187, R197)
  | vld (v : VReg) (a b : GReg) (m : Bool) (k : KReg)
  | vst (v : VReg) (a b : GReg) (m : Bool) (k : KReg)
  | vfence
  | sbind (s : Fin 4) (a b : GReg)
  | sfree (s : Fin 4)
  | ssync
  -- major 32 (R124)
  | add (t : ITy) (d a b : GReg)
  | sub (t : ITy) (d a b : GReg)
  | mul (t : ITy) (d a b : GReg)
  | mulh (t : ITy) (d a b : GReg)
  | mulhz (t : ITy) (d a b : GReg)
  | div (t : ITy) (d a b : GReg)
  | divz (t : ITy) (d a b : GReg)
  | rem (t : ITy) (d a b : GReg)
  | remz (t : ITy) (d a b : GReg)
  | and (t : ITy) (d a b : GReg)
  | or (t : ITy) (d a b : GReg)
  | xor (t : ITy) (d a b : GReg)
  | andn (t : ITy) (d a b : GReg)
  | shl (t : ITy) (d a b : GReg)
  | shr (t : ITy) (d a b : GReg)
  | sar (t : ITy) (d a b : GReg)
  | slt (t : ITy) (d a b : GReg)
  | sltz (t : ITy) (d a b : GReg)
  | min (t : ITy) (d a b : GReg)
  | max (t : ITy) (d a b : GReg)
  | minz (t : ITy) (d a b : GReg)
  | maxz (t : ITy) (d a b : GReg)
  | clz (t : ITy) (d a : GReg)
  | ctz (t : ITy) (d a : GReg)
  | popc (t : ITy) (d a : GReg)
  | sel (t : ITy) (d a b c : GReg)
  -- major 33 (R127)
  | bfx (d a : GReg) (e : Ext) (p n : Fin 64)
  | bfi (d a : GReg) (p n : Fin 64)
  -- majors 34 to 42 (R128, R129)
  | addi (d a : GReg) (i : BitVec 17)
  | andi (d a : GReg) (i : BitVec 17)
  | ori (d a : GReg) (i : BitVec 17)
  | xori (d a : GReg) (i : BitVec 17)
  | shli (d a : GReg) (i : Fin 64)
  | shri (d a : GReg) (i : Fin 64)
  | sari (d a : GReg) (i : Fin 64)
  | slti (d a : GReg) (i : BitVec 17)
  | lui (d : GReg) (i : BitVec 21)
  -- majors 43 to 46 (R174 to R182)
  | fadd (d a b : GReg) (r : Rnd) (s : Bool) (n : Fin 32)
  | fsub (d a b : GReg) (r : Rnd) (s : Bool) (n : Fin 32)
  | fmul (d a b : GReg) (r : Rnd) (s : Bool) (n : Fin 32)
  | fmin (d a b : GReg)
  | fmax (d a b : GReg)
  | feq (d a b : GReg)
  | flt (d a b : GReg)
  | fle (d a b : GReg)
  | fcls (d a : GReg)
  | fsgn (d a b : GReg) (m : SgnMode)
  | ffma (d a b c : GReg) (r : Rnd) (s : Bool) (n : Fin 32)
  | fcvt (d a : GReg) (s : Bool) (t u : CTy) (r : Rnd)
  | srnd (d a b : GReg) (t : SrndD) (u : SrndS) (s : Bool) (n : Fin 32)
  | cadd (d a b : GReg)
  | frcp (d a : GReg)
  | frsq (d a : GReg)
  | fsqrt (d a : GReg)
  | fdiv (d a b : GReg)
  | fex2 (d a : GReg)
  | flg2 (d a : GReg)
  | fsin (d a : GReg)
  | fcos (d a : GReg)
  | ftanh (d a : GReg)
  -- major 47 (R193, R196): a names the scalar register, b the mode word's register
  | vadd (d x y : VReg) (b a : GReg)
  | vsub (d x y : VReg) (b a : GReg)
  | vmul (d x y : VReg) (b a : GReg)
  | vfma (d x y : VReg) (b a : GReg)
  | vmin (d x y : VReg) (b : GReg)
  | vmax (d x y : VReg) (b : GReg)
  | vcmp (d : KReg) (x y : VReg) (b : GReg)
  | vsel (d x y : VReg) (b : GReg)
  | vred (d x : VReg) (b : GReg)
  | vscan (d x : VReg) (b : GReg)
  | vcvt (d x : VReg) (b a : GReg)
  | vperm (d x y : VReg) (b : GReg)
  | vbcast (d : VReg) (b a : GReg)
  | kand (d x y : KReg)
  | kor (d x y : KReg)
  | kxor (d x y : KReg)
  | knot (d x : KReg)
  | kset (d : KReg) (a : GReg)
  -- major 48 (R198)
  | vget (d : GReg) (v : VReg) (n : Fin 16)
  | vput (v : VReg) (a : GReg) (n : Fin 16)
  | vbusy (d : GReg)
  | kpop (d : GReg) (k : KReg)
  -- fabric and home steps; n is a place in the list of messages in flight
  | remoteReply (n : Nat)
  | acknowledgement (n : Nat)
  | orderedCredit (n : Nat)
  | creditTimer (n : Nat)
  | fenceProbe (n : Nat)
  | fenceEcho (n : Nat)
  | postedRefusal (n : Nat)
  | homeLoad (n : Nat)
  | homeStore (n : Nat)
  | homeAtomic (n : Nat)
  | homeSyncAccess (n : Nat)
  | feRetryLimit (n : Nat)
  | feWaitLimit (n : Nat)
  | homeAgedLoad (n : Nat)
  | homeFetcha (n : Nat)
  | homePublish (n : Nat)
  | lagTimeout (n : Nat)
  | stopNotice (n : Nat)
  | migrationArrival (n : Nat)
  | slotFill (key : Nat)
  | walkComplete (n : Nat)
  | sfuEnqueue (cid : Nat)
  | sfuResult (cid : Nat)
  | matrixRunStart (cid : Nat)
  | matrixRunEnd (cid : Nat)
  | matrixRunLimit (cid : Nat)
  | operandUnitArrival (n : Nat)
  | linkWordArrival (n : Nat)
  | copyCmdStart (eng : Nat)
  | chunkCounted (eng i chunk : Nat)
  | copyCmdComplete (eng i : Nat)
  | copyFetchaTimeout (eng i : Nat)
  | crierPulse (n : Nat)
  | heldCmdEnter (eng : Nat)
  | nwCmdStart (eng : Nat)
  | nwPacketArrival (n : Nat)
  | nwAckArrival (n : Nat)
  | nwAckTimer (eng i : Nat)
  | nwRtoExpiry (eng i pkt : Nat)
  | nwReadResponse (n : Nat)
  | nwRefusal (n : Nat)
  | nwPortLoss (die port : Nat)
  | channelMessageArrival (n : Nat)
  | sendStall (uid : Nat)
  -- dispatcher steps
  | launchComplete (h : Nat)
  | deadlineExpiry (h : Nat)
  | preemptRequest (cid booth : Nat)
  | preemptSwap (key : Nat)
  | spillComplete (key : Nat)
  | handoverSave (h key : Nat)
  | handoverScrub (h key : Nat)
  | handoverLoad (h key : Nat)
  | storeHandover (h group : Nat)
  | pageClear (h : Nat)
  | receiptWrite (n : Nat)
  | gangTick (h : Nat)
  | gangDeadline (h : Nat)
  | uncorrectableError (booth : Nat) (block : Option Nat)
  | unitLoss (n : Nat) (u : LostUnit)
  | hangDetect (booth : Nat)
  | boothReset (booth : Nat)
  | replay (booth : Nat)
  | replayFenceMark (pkg seq : Nat)
  | resize (pkg booth : Nat)
  -- switches and links
  | switchForward (que chan k : Nat)
  | combinedReplySplit (n : Nat)
  | abortTail (n : Nat)
  | laneFailure (pkg port lane : Nat)
  | linkRetrainDone (pkg port : Nat)
  | drainReport (sw entry : Nat)
  | linkTrained (pkg port : Nat) (x : Learnt)
  -- the host
  | tailWrite (pkg booth : Nat) (entries : List (Nat × List Word)) (tail : Word)
  | hostLaunch (pkg window : Nat)
  | hostFence (pkg window : Nat)
  | handover (pkg window : Nat)
  | teardown (pkg window : Nat)
  | watch (pkg window : Nat)
  | owner (pkg window : Nat)
  | limits (pkg window : Nat)
  | trapvec (pkg window : Nat)
  | region (pkg window : Nat)
  | map (pkg window : Nat)
  | logring (pkg window : Nat)
  | gang (pkg window : Nat)
  | hostAccess (adapter booth pkg : Nat) (va : BitVec 48) (s : Size) (store : Option Word)
  | interruptDelivery (n : Nat)
  -- platform
  | powerUp (pkg : Nat) (bootid : Word)
  | powerDown (pkg : Nat)
  | bootRequestRetry (pkg : Nat)
  | imageReceived (pkg : Nat) (header : List Byte) (body : List Byte)
  | svnRaise (pkg : Nat) (svn : Half)
  | getVersion (pkg : Nat)
  | getCapabilities (pkg : Nat)
  | negotiateAlgorithms (x : AlgRequest)
  | getDigests (pkg : Nat)
  | getCertificate (pkg slot : Nat)
  | challenge (pkg slot : Nat) (nonce : Nat)
  | getMeasurements (pkg : Nat) (nonce : Nat)
  | keyExchange (pkg : Nat) (peer : Nat)
  | finish (pkg : Nat) (verify : Nat)
  | endSession (pkg : Nat)
  | vendorDefinedRequest (pkg home booth lo hi : Nat)
  | keyLoad (pkg slot tenant : Nat) (key : Nat)
  | keyErase (pkg slot : Nat)
  | thermalTrip (pkg : Nat)
  | flitArrivesInError (pkg port : Nat)
  deriving DecidableEq, Repr

end Sys2Proof
end

