-- ==== Sys2Proof/WellFormed.lean ====
section
/-! DEFINITION. What the description of an instruction still forbids after the types of Syntax.lean: the value limits
that make a word trap ILLEGAL at decode (R74 step 3). -/

namespace Sys2Proof

/-- Whether a conversion type is an integer type (R178). -/
def CTy.isInt : CTy → Bool
  | .s32 | .s64 | .z32 | .z64 => true
  | .f32 | .f16 | .bf16 | .l6 | .a36 => false

/-- The stochastic bit count stands only under `.rs` (R174). -/
def rsCount (r : Rnd) (n : Fin 32) : Bool := r == .rs || n == 0

/-- Whether an element type of REDUCE is floating (R228). -/
def RedTy.isFloat : RedTy → Bool
  | .f32 | .a36 => true
  | .s32 | .z32 | .s64 | .z64 => false

/-- Whether a merge of REDUCE is bitwise (R228). -/
def RedOp.isBitwise : RedOp → Bool
  | .and | .or | .xor => true
  | .add | .min | .max => false

/-- The limits of R127, R162, R165, R174, R179, R180, R197, R228, R250, R252, R256, R299 and R365 that the types leave.
An event has no word and no such limit. -/
def Instr.wf : Instr → Bool
  | .bfx _ _ _ p n | .bfi _ _ p n => p.val + n.val + 1 ≤ 64
  | .fadd _ _ _ r _ n | .fsub _ _ _ r _ n | .fmul _ _ _ r _ n | .ffma _ _ _ _ r _ n => rsCount r n
  | .fcvt _ _ _ t u r => t != u && !(t.isInt && u.isInt) && (t != .l6 || r == .rne)
  | .srnd _ _ _ t u _ _ => !(t == .f32 && u == .f32)
  | .amo o _ _ _ wide _ => o != .fadd || !wide
  | .cas d _ _ _ _ => d != 0
  | .vld _ _ _ m k | .vst _ _ _ m k => m || k == 0
  | .pushReduce _ _ _ x t => !(x.isBitwise && t.isFloat)
  | .pushEpopen _ _ o | .pushWsend _ _ o | .pushWwrite _ _ o | .pushWread _ _ o
  | .pushCtrset _ _ o | .pushCtrwait _ _ o => o.h || o.t == 0
  | .mzero t all => !all || t == 0
  | .mcnt _ t s => s == 0 || t == 0
  | .mcmp _ _ k => k == 31 || k == 63 || k == 127 || k == 255
  | .send _ b => 1 ≤ b.val && b.val ≤ 12
  | _ => true

end Sys2Proof
end

