-- ==== Sys2Proof/Decode.lean ====
section
/-! DEFINITION. Decoding of one 32-bit word (R67 to R76 and the encodings of each instruction chapter), the encoder
written from the same tables, and the reading of an opcode-table word. Bit 31 (L) frames bundles and is no part of a
word's meaning (R62). -/

namespace Sys2Proof
open Bits

/-- Why a word is no instruction: each ends in ILLEGAL (R74 steps 1 and 3). -/
inductive Reject where
  /-- Step 1: A-class majors 49 to 63. -/
  | unassignedMajor
  /-- Step 3: a function code that the major does not assign. -/
  | unassignedFunction
  /-- Step 3: a nonzero reserved or unused field (R75). -/
  | reservedField
  /-- Step 3: a reserved code or a value outside an instruction's limits. -/
  | reservedValue
  deriving DecidableEq, Repr

/-- The field codes of ITy (R122). -/
def ITy.code : ITy → Nat
  | .s64 => 0
  | .s32 => 1
  | .z64 => 2
  | .z32 => 3

/-- ITy from its field code; a reserved code has none (R122). -/
def ITy.ofCode : Nat → Option ITy
  | 0 => some .s64
  | 1 => some .s32
  | 2 => some .z64
  | 3 => some .z32
  | _ => none

/-- The field codes of Size (R69). -/
def Size.code : Size → Nat
  | .b8 => 0
  | .b16 => 1
  | .b32 => 2
  | .b64 => 3

/-- Size from its field code; a reserved code has none (R69). -/
def Size.ofCode : Nat → Option Size
  | 0 => some .b8
  | 1 => some .b16
  | 2 => some .b32
  | 3 => some .b64
  | _ => none

/-- The field codes of Cls (R69). -/
def Cls.code : Cls → Nat
  | .ord => 0
  | .spray => 1

/-- Cls from its field code; a reserved code has none (R69). -/
def Cls.ofCode : Nat → Option Cls
  | 0 => some .ord
  | 1 => some .spray
  | _ => none

/-- The field codes of AMode (R69). -/
def AMode.code : AMode → Nat
  | .park => 0
  | .trap => 1

/-- AMode from its field code; a reserved code has none (R69). -/
def AMode.ofCode : Nat → Option AMode
  | 0 => some .park
  | 1 => some .trap
  | _ => none

/-- The field codes of AmoOp (R161). -/
def AmoOp.code : AmoOp → Nat
  | .add => 0
  | .and => 1
  | .or => 2
  | .xor => 3
  | .min => 4
  | .max => 5
  | .minz => 6
  | .maxz => 7
  | .swap => 8
  | .fadd => 9

/-- AmoOp from its field code; a reserved code has none (R161). -/
def AmoOp.ofCode : Nat → Option AmoOp
  | 0 => some .add
  | 1 => some .and
  | 2 => some .or
  | 3 => some .xor
  | 4 => some .min
  | 5 => some .max
  | 6 => some .minz
  | 7 => some .maxz
  | 8 => some .swap
  | 9 => some .fadd
  | _ => none

/-- The field codes of Scope (R38). -/
def Scope.code : Scope → Nat
  | .core => 0
  | .cluster => 1
  | .die => 2
  | .package => 3
  | .fabric => 4

/-- Scope from its field code; a reserved code has none (R38). -/
def Scope.ofCode : Nat → Option Scope
  | 0 => some .core
  | 1 => some .cluster
  | 2 => some .die
  | 3 => some .package
  | 4 => some .fabric
  | _ => none

/-- The field codes of Rnd (R89). -/
def Rnd.code : Rnd → Nat
  | .rne => 0
  | .rz => 1
  | .rd => 2
  | .ru => 3
  | .rs => 4

/-- Rnd from its field code; a reserved code has none (R89). -/
def Rnd.ofCode : Nat → Option Rnd
  | 0 => some .rne
  | 1 => some .rz
  | 2 => some .rd
  | 3 => some .ru
  | 4 => some .rs
  | _ => none

/-- The field codes of CTy (R178). -/
def CTy.code : CTy → Nat
  | .f32 => 0
  | .f16 => 1
  | .bf16 => 2
  | .l6 => 3
  | .a36 => 4
  | .s32 => 8
  | .s64 => 9
  | .z32 => 10
  | .z64 => 11

/-- CTy from its field code; a reserved code has none (R178). -/
def CTy.ofCode : Nat → Option CTy
  | 0 => some .f32
  | 1 => some .f16
  | 2 => some .bf16
  | 3 => some .l6
  | 4 => some .a36
  | 8 => some .s32
  | 9 => some .s64
  | 10 => some .z32
  | 11 => some .z64
  | _ => none

/-- The field codes of SrndD (R180). -/
def SrndD.code : SrndD → Nat
  | .f32 => 0
  | .f16 => 1
  | .bf16 => 2

/-- SrndD from its field code; a reserved code has none (R180). -/
def SrndD.ofCode : Nat → Option SrndD
  | 0 => some .f32
  | 1 => some .f16
  | 2 => some .bf16
  | _ => none

/-- The field codes of SrndS (R180). -/
def SrndS.code : SrndS → Nat
  | .f32 => 0
  | .a36 => 1

/-- SrndS from its field code; a reserved code has none (R180). -/
def SrndS.ofCode : Nat → Option SrndS
  | 0 => some .f32
  | 1 => some .a36
  | _ => none

/-- The field codes of SgnMode (R177). -/
def SgnMode.code : SgnMode → Nat
  | .j => 0
  | .jn => 1
  | .jx => 2

/-- SgnMode from its field code; a reserved code has none (R177). -/
def SgnMode.ofCode : Nat → Option SgnMode
  | 0 => some .j
  | 1 => some .jn
  | 2 => some .jx
  | _ => none

/-- The field codes of ESize (R225). -/
def ESize.code : ESize → Nat
  | .e8 => 0
  | .e64 => 1
  | .e512 => 2

/-- ESize from its field code; a reserved code has none (R225). -/
def ESize.ofCode : Nat → Option ESize
  | 0 => some .e8
  | 1 => some .e64
  | 2 => some .e512
  | _ => none

/-- The field codes of RedOp (R228). -/
def RedOp.code : RedOp → Nat
  | .add => 0
  | .min => 1
  | .max => 2
  | .and => 3
  | .or => 4
  | .xor => 5

/-- RedOp from its field code; a reserved code has none (R228). -/
def RedOp.ofCode : Nat → Option RedOp
  | 0 => some .add
  | 1 => some .min
  | 2 => some .max
  | 3 => some .and
  | 4 => some .or
  | 5 => some .xor
  | _ => none

/-- The field codes of RedTy (R228). -/
def RedTy.code : RedTy → Nat
  | .f32 => 0
  | .s32 => 1
  | .z32 => 2
  | .s64 => 3
  | .z64 => 4
  | .a36 => 5

/-- RedTy from its field code; a reserved code has none (R228). -/
def RedTy.ofCode : Nat → Option RedTy
  | 0 => some .f32
  | 1 => some .s32
  | 2 => some .z32
  | 3 => some .s64
  | 4 => some .z64
  | 5 => some .a36
  | _ => none

/-- The field codes of Port (R70). -/
def Port.code : Port → Nat
  | .copy => 1
  | .net => 2

/-- Port from its field code; a reserved code has none (R70). -/
def Port.ofCode : Nat → Option Port
  | 1 => some .copy
  | 2 => some .net
  | _ => none

/-- The field codes of Link (R259). -/
def Link.code : Link → Nat
  | .n => 0
  | .e => 1
  | .s => 2
  | .w => 3

/-- Link from its field code; a reserved code has none (R259). -/
def Link.ofCode : Nat → Option Link
  | 0 => some .n
  | 1 => some .e
  | 2 => some .s
  | 3 => some .w
  | _ => none

/-- The latch codes of `mclr L` (R257). -/
def Latch.code : Latch → Nat
  | .opa => 0
  | .opb => 1
  | .lane l => 4 + l.code

/-- A latch from its code (R257). -/
def Latch.ofCode : Nat → Option Latch
  | 0 => some .opa
  | 1 => some .opb
  | 4 => some (.lane .n)
  | 5 => some (.lane .e)
  | 6 => some (.lane .s)
  | 7 => some (.lane .w)
  | _ => none

/-- A lag's source bit and its value field (R69). -/
def Lag.bits : Lag → Nat × Nat
  | .count n => (0, n.val)
  | .reg r => (1, r.val)

/-! ### Reading fields -/

/-- The extension an instruction belongs to (R13, R72, R70). -/
inductive Extension where | m | n
  deriving DecidableEq, Repr

/-- The major opcode, [30:25] (R67). -/
def majorOf (w : Nat) : Nat := fld w 30 25

/-- Whether a word is A-class: bit 30 (R62). -/
def isAClass (w : Nat) : Bool := fld w 30 30 == 1

/-- The extension that a word's major, or the port it names, belongs to (R72, R74 step 2). -/
def extOf (w : Nat) : Option Extension :=
  if majorOf w == 29 || majorOf w == 30 then some .m
  else if majorOf w == 26 && fld w 24 21 == 2 then some .n
  else if majorOf w == 27 && fld w 12 9 == 2 then some .n
  else none

/-- A general register named by the four bits at `lo`. -/
def regAt (w lo : Nat) : GReg := Fin.ofNat 16 (fld w (lo + 3) lo)
/-- A vector register named by the three bits at `lo` (R71). -/
def vregAt (w lo : Nat) : VReg := Fin.ofNat 8 (fld w (lo + 2) lo)
/-- A mask register or tile named by the two bits at `lo` (R71). -/
def kregAt (w lo : Nat) : Fin 4 := Fin.ofNat 4 (fld w (lo + 1) lo)
/-- A single bit. -/
def bitAt (w n : Nat) : Bool := fld w n n == 1

/-- Accepts an instruction whose listed fields must be zero (R75). -/
def zeros (w : Nat) (fs : List (Nat × Nat)) (r : Except Reject Instr) : Except Reject Instr :=
  if fs.all (fun f => fld w f.1 f.2 == 0) then r else .error .reservedField

/-- Accepts a coded operand whose code is not reserved. -/
def coded {α : Type} (o : Option α) (k : α → Except Reject Instr) : Except Reject Instr :=
  match o with
  | some a => k a
  | none => .error .reservedValue

/-- Field d [24:21], a [20:17] and b [16:13] of format R (R67). -/
def fD (w : Nat) : GReg := regAt w 21
def fA (w : Nat) : GReg := regAt w 17
def fB (w : Nat) : GReg := regAt w 13

/-! ### The majors -/

/-- Major 0 (R135). -/
def decSystem (w : Nat) : Except Reject Instr :=
  match fld w 12 0 with
  | 0 => zeros w [(24, 13)] (.ok .nop)
  | 1 => zeros w [(24, 13)] (.ok .ecall)
  | 2 => zeros w [(24, 13)] (.ok .brk)
  | 3 => zeros w [(24, 13)] (.ok .tret)
  | 4 => zeros w [(24, 13)] (.ok .ifence)
  | _ => .error .unassignedFunction

/-- Major 7 (R132). -/
def decJumpReg (w : Nat) : Except Reject Instr :=
  match fld w 12 0 with
  | 0 => zeros w [(24, 21), (16, 13)] (.ok (.jr (fA w)))
  | 1 => zeros w [(24, 21), (16, 13)] (.ok (.callr (fA w)))
  | _ => .error .unassignedFunction

/-- Majors 18 and 19 (R150): 64-bit only. -/
def decSync (w : Nat) (store : Bool) : Except Reject Instr :=
  let o := BitVec.ofNat 12 (fld w 11 0)
  if fld w 16 15 != 3 then .error .reservedValue
  else coded (Cls.ofCode (fld w 14 14)) fun c =>
    match store, fld w 13 12 with
    | false, 0 => .ok (.ldf (fD w) (fA w) c o)
    | false, 1 => .ok (.ldff (fD w) (fA w) c o)
    | false, 2 => .ok (.fetst (fD w) (fA w) c o)
    | true, 0 => .ok (.stf (fD w) (fA w) c o)
    | true, 1 => .ok (.stfill (fD w) (fA w) c o)
    | true, 2 => zeros w [(24, 21)] (.ok (.stemp (fA w) c o))
    | _, _ => .error .unassignedFunction

/-- Majors 20 and 21 (R155): 64-bit only, class bit 0. -/
def decAged (w : Nat) (fetch : Bool) : Except Reject Instr :=
  if fld w 16 15 != 3 then .error .reservedValue
  else if fld w 14 14 != 0 then .error .reservedField
  else coded (AMode.ofCode (fld w 12 12)) fun m =>
    let g := if bitAt w 13 then Lag.reg (regAt w 8) else Lag.count (regAt w 8)
    let o := BitVec.ofNat 8 (fld w 7 0)
    if fetch then .ok (.fetcha (fD w) (fA w) m g o) else .ok (.lda (fD w) (fA w) m g o)

/-- Major 22 (R158, R159). -/
def decPub (w : Nat) : Except Reject Instr :=
  match fld w 12 0 with
  | 0 => .ok (.pub (fD w) (fA w) (fB w))
  | 1 => zeros w [(24, 21), (16, 13)] (.ok (.itset (fA w)))
  | 2 => zeros w [(24, 13)] (.ok .itinc)
  | _ => .error .unassignedFunction

/-- Major 23 (R161). -/
def decAtomic (w : Nat) : Except Reject Instr :=
  zeros w [(5, 0)] <|
  coded (Cls.ofCode (fld w 6 6)) fun c =>
    if bitAt w 12 then
      if fld w 11 8 != 0 then .error .reservedValue else .ok (.cas (fD w) (fA w) (fB w) (bitAt w 7) c)
    else coded (AmoOp.ofCode (fld w 11 8)) fun o => .ok (.amo o (fD w) (fA w) (fB w) (bitAt w 7) c)

/-- Major 24 (R165). -/
def decFence (w : Nat) : Except Reject Instr :=
  match fld w 12 11 with
  | 0 => zeros w [(24, 13), (7, 0)] (coded (Scope.ofCode (fld w 10 8)) fun s => .ok (.fence s))
  | 1 => zeros w [(24, 21), (16, 13), (10, 0)] (.ok (.mig (fA w)))
  | 2 => zeros w [(24, 21), (16, 13), (10, 0)] (.ok (.migc (fA w)))
  | _ => .error .unassignedFunction

/-- Major 25 (R168). -/
def decTag (w : Nat) : Except Reject Instr :=
  match fld w 12 0 with
  | 0 => zeros w [(16, 13)] (.ok (.tlook (fD w) (fA w)))
  | 1 => zeros w [(24, 21)] (.ok (.tset (fA w) (fB w)))
  | 2 => zeros w [(24, 21), (16, 13)] (.ok (.tinv (fA w)))
  | 3 => zeros w [(16, 13)] (.ok (.tage (fD w) (fA w)))
  | _ => .error .unassignedFunction

/-- Port 1 of major 26 (R225). -/
def decPushCopy (w : Nat) : Except Reject Instr :=
  let o : CpOpt := ⟨bitAt w 8, bitAt w 7, bitAt w 6⟩
  let r : Bar := ⟨bitAt w 5, vregAt w 2⟩
  match fld w 12 9 with
  | 0 => zeros w [(1, 0)] (.ok (.pushCopy (fA w) (fB w) o r))
  | 1 => coded (ESize.ofCode (fld w 1 0)) fun z => .ok (.pushGather (fA w) (fB w) o r z)
  | 2 => coded (ESize.ofCode (fld w 1 0)) fun z => .ok (.pushScatter (fA w) (fB w) o r z)
  | 3 => zeros w [(1, 0)] (.ok (.pushFill (fA w) (fB w) o r))
  | 4 => zeros w [(1, 0)] (.ok (.pushFetcha (fA w) (fB w) o r))
  | 5 => zeros w [(1, 0)] (.ok (.pushPublish (fA w) (fB w) o r))
  | 6 => coded (RedOp.ofCode (fld w 5 3)) fun x => coded (RedTy.ofCode (fld w 2 0)) fun t =>
      .ok (.pushReduce (fA w) (fB w) o x t)
  | 7 => zeros w [(5, 5), (1, 0)] (.ok (.pushAbar (fA w) (fB w) o (vregAt w 2)))
  | 8 => zeros w [(8, 0)] (.ok (.pushArm (fA w) (fB w)))
  | _ => .error .unassignedFunction

/-- Port 2 of major 26 (R365). -/
def decPushNet (w : Nat) : Except Reject Instr :=
  let o : NwOpt := ⟨bitAt w 8, bitAt w 7, bitAt w 6, regAt w 0⟩
  zeros w [(5, 4)] <|
  match fld w 12 9 with
  | 0 => .ok (.pushEpopen (fA w) (fB w) o)
  | 1 => .ok (.pushWsend (fA w) (fB w) o)
  | 2 => .ok (.pushWwrite (fA w) (fB w) o)
  | 3 => .ok (.pushWread (fA w) (fB w) o)
  | 4 => .ok (.pushCtrset (fA w) (fB w) o)
  | 5 => .ok (.pushCtrwait (fA w) (fB w) o)
  | _ => .error .unassignedFunction

/-- Major 26 (R220, R365). -/
def decPush (w : Nat) : Except Reject Instr :=
  match fld w 24 21 with
  | 1 => decPushCopy w
  | 2 => decPushNet w
  | _ => .error .reservedValue

/-- Major 27 (R222). -/
def decPop (w : Nat) : Except Reject Instr :=
  zeros w [(5, 0)] <|
  match fld w 8 6 with
  | 0 => zeros w [(20, 13)] (coded (Port.ofCode (fld w 12 9)) fun p => .ok (.pop (fD w) p))
  | 1 => zeros w [(24, 21), (16, 13)] (coded (Port.ofCode (fld w 12 9)) fun p => .ok (.ctrwait (fA w) p))
  | 2 => zeros w [(24, 21), (16, 13), (12, 9)] (.ok (.crcfg (fA w)))
  | 3 => zeros w [(24, 21), (16, 13), (12, 9)] (.ok (.crcfgSet (fA w)))
  | 4 => zeros w [(24, 21), (16, 13), (12, 9)] (.ok (.crcfgAdd (fA w)))
  | _ => .error .unassignedFunction

/-- Major 28 (R299). -/
def decDispatch (w : Nat) : Except Reject Instr :=
  zeros w [(8, 0)] <|
  match fld w 12 9 with
  | 0 => zeros w [(24, 21)] (.ok (.spawn (fA w) (fB w)))
  | 1 => zeros w [(24, 21)] (.ok (.post (fA w) (fB w)))
  | 2 => zeros w [(24, 13)] (.ok .done)
  | 3 => zeros w [(24, 13)] (.ok .yield)
  | 4 => zeros w [(24, 21)] (.ok (.send (fA w) (fB w)))
  | 5 => .ok (.chset (fD w) (fA w) (fB w))
  | 6 => .ok (.chclr (fD w) (fA w) (fB w))
  | 7 => zeros w [(24, 21), (16, 13)] (.ok (.resid (fA w)))
  | 8 => zeros w [(16, 13)] (.ok (.launch (fD w) (fA w)))
  | _ => .error .unassignedFunction

/-- Major 29 (R250, R273). -/
def decMatrix (w : Nat) : Except Reject Instr :=
  let t : Tile := kregAt w 21
  let k := BitVec.ofNat 8 (fld w 7 0)
  match fld w 12 9 with
  | 0 => zeros w [(24, 21), (8, 0)] (.ok (.mcfg (fA w) (fB w)))
  | 1 => zeros w [(24, 23), (20, 13), (8, 1)] (.ok (.mzero t (bitAt w 0)))
  | 2 => zeros w [(24, 23)] (.ok (.mma t (fA w) (fB w) (bitAt w 8) k))
  | 3 => zeros w [(24, 23), (8, 0)] (.ok (.mst t (fA w) (fB w)))
  | 4 => zeros w [(20, 19), (16, 13), (8, 2)] (.ok (.mcnt (fD w) (kregAt w 17) (kregAt w 0)))
  | 5 =>
      if bitAt w 8 then
        zeros w [(20, 13), (7, 0)] (coded (Latch.ofCode (fld w 24 21)) fun l => .ok (.mclrLatch l))
      else zeros w [(24, 23), (20, 13), (7, 0)] (.ok (.mclrTile t))
  | 6 => zeros w [(24, 21), (8, 8)] (.ok (.mcmp (fA w) (fB w) k))
  | 7 => zeros w [(20, 13), (8, 2)] (coded (Link.ofCode (fld w 1 0)) fun r => .ok (.mlink (fD w) r))
  | 8 => zeros w [(24, 23)] (.ok (.mrot t (fA w) (fB w) (bitAt w 8) k))
  | 9 => zeros w [(8, 0)] (.ok (.mnorm (fD w) (fA w) (fB w)))
  | 10 => zeros w [(24, 21), (16, 13), (8, 0)] (.ok (.malias (fA w)))
  | 11 => zeros w [(24, 23)] (.ok (.msmp t (fA w) (fB w) (bitAt w 8) k))
  | 12 => zeros w [(20, 13), (8, 2)] (.ok (.mvar (fD w) (kregAt w 0)))
  | 13 => zeros w [(24, 21), (8, 0)] (.ok (.mstop (fA w) (fB w)))
  | _ => .error .unassignedFunction

/-- Major 30 (R264): a link number uses two bits of its field (R71). -/
def decLink (w : Nat) : Except Reject Instr :=
  zeros w [(10, 0)] <|
  match fld w 12 11 with
  | 0 => zeros w [(20, 19), (16, 13)] (coded (Link.ofCode (fld w 18 17)) fun i => .ok (.lrd (fD w) i))
  | 1 => zeros w [(20, 19), (16, 15)] (coded (Link.ofCode (fld w 18 17)) fun i =>
      coded (Link.ofCode (fld w 14 13)) fun o => .ok (.lrf (fD w) i o))
  | 2 => zeros w [(24, 23), (16, 13)] (coded (Link.ofCode (fld w 22 21)) fun o => .ok (.lwr o (fA w)))
  | _ => .error .unassignedFunction

/-- Major 31 (R187, R197): port 0 only. -/
def decVecMem (w : Nat) : Except Reject Instr :=
  if fld w 24 21 != 0 then .error .reservedValue
  else match fld w 12 10 with
  | 0 => zeros w [(3, 0)] (.ok (.vld (vregAt w 7) (fA w) (fB w) (bitAt w 6) (kregAt w 4)))
  | 1 => zeros w [(3, 0)] (.ok (.vst (vregAt w 7) (fA w) (fB w) (bitAt w 6) (kregAt w 4)))
  | 2 => zeros w [(20, 13), (9, 0)] (.ok .vfence)
  | 3 => zeros w [(7, 0)] (.ok (.sbind (kregAt w 8) (fA w) (fB w)))
  | 4 => zeros w [(20, 13), (7, 0)] (.ok (.sfree (kregAt w 8)))
  | 5 => zeros w [(20, 13), (9, 0)] (.ok .ssync)
  | _ => .error .unassignedFunction

/-- Major 32 (R122, R124). -/
def decInt (w : Nat) : Except Reject Instr :=
  let d := fD w
  let a := fA w
  let b := fB w
  zeros w [(4, 4)] <|
  coded (ITy.ofCode (fld w 12 11)) fun t =>
  match fld w 10 5 with
  | 0 => zeros w [(3, 0)] (.ok (.add t d a b))
  | 1 => zeros w [(3, 0)] (.ok (.sub t d a b))
  | 2 => zeros w [(3, 0)] (.ok (.mul t d a b))
  | 3 => zeros w [(3, 0)] (.ok (.mulh t d a b))
  | 4 => zeros w [(3, 0)] (.ok (.mulhz t d a b))
  | 5 => zeros w [(3, 0)] (.ok (.div t d a b))
  | 6 => zeros w [(3, 0)] (.ok (.divz t d a b))
  | 7 => zeros w [(3, 0)] (.ok (.rem t d a b))
  | 8 => zeros w [(3, 0)] (.ok (.remz t d a b))
  | 9 => zeros w [(3, 0)] (.ok (.and t d a b))
  | 10 => zeros w [(3, 0)] (.ok (.or t d a b))
  | 11 => zeros w [(3, 0)] (.ok (.xor t d a b))
  | 12 => zeros w [(3, 0)] (.ok (.andn t d a b))
  | 13 => zeros w [(3, 0)] (.ok (.shl t d a b))
  | 14 => zeros w [(3, 0)] (.ok (.shr t d a b))
  | 15 => zeros w [(3, 0)] (.ok (.sar t d a b))
  | 16 => zeros w [(3, 0)] (.ok (.slt t d a b))
  | 17 => zeros w [(3, 0)] (.ok (.sltz t d a b))
  | 18 => zeros w [(3, 0)] (.ok (.min t d a b))
  | 19 => zeros w [(3, 0)] (.ok (.max t d a b))
  | 20 => zeros w [(3, 0)] (.ok (.minz t d a b))
  | 21 => zeros w [(3, 0)] (.ok (.maxz t d a b))
  | 22 => zeros w [(16, 13), (3, 0)] (.ok (.clz t d a))
  | 23 => zeros w [(16, 13), (3, 0)] (.ok (.ctz t d a))
  | 24 => zeros w [(16, 13), (3, 0)] (.ok (.popc t d a))
  | 25 => .ok (.sel t d a b (regAt w 0))
  | _ => .error .unassignedFunction

/-- Major 33 (R127). -/
def decBits (w : Nat) : Except Reject Instr :=
  let p : Fin 64 := Fin.ofNat 64 (fld w 11 6)
  let n : Fin 64 := Fin.ofNat 64 (fld w 5 0)
  if bitAt w 12 then zeros w [(16, 13)] (.ok (.bfi (fD w) (fA w) p n))
  else match fld w 16 13 with
  | 0 => .ok (.bfx (fD w) (fA w) .zx p n)
  | 1 => .ok (.bfx (fD w) (fA w) .sx p n)
  | _ => .error .reservedValue

/-- Major 43 (R174). -/
def decFloat (w : Nat) : Except Reject Instr :=
  let d := fD w
  let a := fA w
  let b := fB w
  let s := bitAt w 5
  let n : Fin 32 := Fin.ofNat 32 (fld w 4 0)
  match fld w 12 9 with
  | 0 => coded (Rnd.ofCode (fld w 8 6)) fun r => .ok (.fadd d a b r s n)
  | 1 => coded (Rnd.ofCode (fld w 8 6)) fun r => .ok (.fsub d a b r s n)
  | 2 => coded (Rnd.ofCode (fld w 8 6)) fun r => .ok (.fmul d a b r s n)
  | 3 => zeros w [(8, 0)] (.ok (.fmin d a b))
  | 4 => zeros w [(8, 0)] (.ok (.fmax d a b))
  | 5 => zeros w [(8, 0)] (.ok (.feq d a b))
  | 6 => zeros w [(8, 0)] (.ok (.flt d a b))
  | 7 => zeros w [(8, 0)] (.ok (.fle d a b))
  | 8 => zeros w [(16, 13), (8, 0)] (.ok (.fcls d a))
  | 9 => zeros w [(8, 2)] (coded (SgnMode.ofCode (fld w 1 0)) fun m => .ok (.fsgn d a b m))
  | _ => .error .unassignedFunction

/-- Major 45 (R178 to R181). -/
def decConvert (w : Nat) : Except Reject Instr :=
  match fld w 12 11 with
  | 0 => zeros w [(16, 14)] <|
      coded (CTy.ofCode (fld w 10 7)) fun t => coded (CTy.ofCode (fld w 6 3)) fun u =>
      coded (Rnd.ofCode (fld w 2 0)) fun r => .ok (.fcvt (fD w) (fA w) (bitAt w 13) t u r)
  | 1 => zeros w [(1, 0)] <|
      coded (SrndD.ofCode (fld w 10 9)) fun t => coded (SrndS.ofCode (fld w 8 8)) fun u =>
      .ok (.srnd (fD w) (fA w) (fB w) t u (bitAt w 7) (Fin.ofNat 32 (fld w 6 2)))
  | 2 => zeros w [(10, 0)] (.ok (.cadd (fD w) (fA w) (fB w)))
  | _ => .error .unassignedFunction

/-- Major 46 (R182). -/
def decSpecial (w : Nat) : Except Reject Instr :=
  let d := fD w
  let a := fA w
  zeros w [(8, 0)] <|
  match fld w 12 9 with
  | 0 => zeros w [(16, 13)] (.ok (.frcp d a))
  | 1 => zeros w [(16, 13)] (.ok (.frsq d a))
  | 2 => zeros w [(16, 13)] (.ok (.fsqrt d a))
  | 3 => .ok (.fdiv d a (fB w))
  | 4 => zeros w [(16, 13)] (.ok (.fex2 d a))
  | 5 => zeros w [(16, 13)] (.ok (.flg2 d a))
  | 6 => zeros w [(16, 13)] (.ok (.fsin d a))
  | 7 => zeros w [(16, 13)] (.ok (.fcos d a))
  | 8 => zeros w [(16, 13)] (.ok (.ftanh d a))
  | _ => .error .unassignedFunction

/-- The mask group of major 47 (R196). -/
def decMask (w : Nat) : Except Reject Instr :=
  let d : KReg := kregAt w 4
  let x : KReg := kregAt w 2
  zeros w [(16, 13)] <|
  match fld w 8 6 with
  | 0 => zeros w [(20, 17)] (.ok (.kand d x (kregAt w 0)))
  | 1 => zeros w [(20, 17)] (.ok (.kor d x (kregAt w 0)))
  | 2 => zeros w [(20, 17)] (.ok (.kxor d x (kregAt w 0)))
  | 3 => zeros w [(20, 17), (1, 0)] (.ok (.knot d x))
  | 4 => zeros w [(3, 0)] (.ok (.kset d (fA w)))
  | _ => .error .unassignedFunction

/-- Major 47 (R193): port 0 only; field a is the scalar register, field b the mode word's register. -/
def decVector (w : Nat) : Except Reject Instr :=
  let d : VReg := vregAt w 6
  let x : VReg := vregAt w 3
  let y : VReg := vregAt w 0
  let a := fA w
  let b := fB w
  if fld w 24 21 != 0 then .error .reservedValue
  else match fld w 12 9 with
  | 0 => .ok (.vadd d x y b a)
  | 1 => .ok (.vsub d x y b a)
  | 2 => .ok (.vmul d x y b a)
  | 3 => .ok (.vfma d x y b a)
  | 4 => zeros w [(20, 17)] (.ok (.vmin d x y b))
  | 5 => zeros w [(20, 17)] (.ok (.vmax d x y b))
  | 6 => zeros w [(20, 17), (8, 8)] (.ok (.vcmp (kregAt w 6) x y b))
  | 7 => zeros w [(20, 17)] (.ok (.vsel d x y b))
  | 8 => zeros w [(20, 17), (2, 0)] (.ok (.vred d x b))
  | 9 => zeros w [(20, 17), (2, 0)] (.ok (.vscan d x b))
  | 10 => zeros w [(2, 0)] (.ok (.vcvt d x b a))
  | 11 => zeros w [(20, 17)] (.ok (.vperm d x y b))
  | 12 => zeros w [(5, 0)] (.ok (.vbcast d b a))
  | 13 => decMask w
  | _ => .error .unassignedFunction

/-- Major 48 (R198). -/
def decLane (w : Nat) : Except Reject Instr :=
  let n : Fin 16 := regAt w 6
  zeros w [(16, 13), (5, 0)] <|
  match fld w 12 10 with
  | 0 => zeros w [(20, 20)] (.ok (.vget (fD w) (vregAt w 17) n))
  | 1 => zeros w [(24, 24)] (.ok (.vput (vregAt w 21) (fA w) n))
  | 2 => zeros w [(20, 17), (9, 6)] (.ok (.vbusy (fD w)))
  | 3 => zeros w [(20, 19), (9, 6)] (.ok (.kpop (fD w) (kregAt w 17)))
  | _ => .error .unassignedFunction

/-- A shift by an immediate count (R128): bits [16:6] must be zero. -/
def decShift (w : Nat) (f : GReg → GReg → Fin 64 → Instr) : Except Reject Instr :=
  zeros w [(16, 6)] (.ok (f (fD w) (fA w) (Fin.ofNat 64 (fld w 5 0))))

/-- A format-I word with a 17-bit immediate (R128). -/
def decImm (w : Nat) (f : GReg → GReg → BitVec 17 → Instr) : Except Reject Instr :=
  .ok (f (fD w) (fA w) (BitVec.ofNat 17 (fld w 16 0)))

/-- A format-B branch on two general registers (R67, R130). -/
def decBranch (w : Nat) (f : GReg → GReg → BitVec 17 → Instr) : Except Reject Instr :=
  .ok (f (regAt w 21) (regAt w 17) (BitVec.ofNat 17 (fld w 16 0)))

/-- A format-B branch on a mask (R130). -/
def decMaskBranch (w : Nat) (f : KReg → BitVec 17 → Instr) : Except Reject Instr :=
  zeros w [(24, 23), (20, 17)] (.ok (f (kregAt w 21) (BitVec.ofNat 17 (fld w 16 0))))

/-- A control-register write (R138). -/
def decCsrWrite (w : Nat) (f : BitVec 12 → GReg → Instr) : Except Reject Instr :=
  zeros w [(24, 21), (16, 12)] (.ok (f (BitVec.ofNat 12 (fld w 11 0)) (fA w)))

/-- The C-class majors (R72). -/
def decC (w : Nat) : Except Reject Instr :=
  match majorOf w with
  | 0 => decSystem w
  | 1 => zeros w [(20, 12)] (.ok (.csrr (fD w) (BitVec.ofNat 12 (fld w 11 0))))
  | 2 => decCsrWrite w .csrw
  | 3 => decCsrWrite w .csrs
  | 4 => decCsrWrite w .csrc
  | 5 => zeros w [(24, 21)] (.ok (.jmp (BitVec.ofNat 21 (fld w 20 0))))
  | 6 => if fld w 24 21 != 15 then .error .reservedValue else .ok (.call (BitVec.ofNat 21 (fld w 20 0)))
  | 7 => decJumpReg w
  | 8 => decBranch w .beq
  | 9 => decBranch w .bne
  | 10 => decBranch w .blt
  | 11 => decBranch w .bge
  | 12 => decBranch w .blo
  | 13 => decBranch w .bhs
  | 14 => decMaskBranch w .bkz
  | 15 => decMaskBranch w .bknz
  | 16 => zeros w [(13, 13)] <|
      coded (Size.ofCode (fld w 16 15)) fun s => coded (Cls.ofCode (fld w 14 14)) fun c =>
      .ok (.ld (fD w) (fA w) s c (if bitAt w 12 then .zx else .sx) (BitVec.ofNat 12 (fld w 11 0)))
  | 17 => zeros w [(13, 12)] <|
      coded (Size.ofCode (fld w 16 15)) fun s => coded (Cls.ofCode (fld w 14 14)) fun c =>
      .ok (.st (fD w) (fA w) s c (BitVec.ofNat 12 (fld w 11 0)))
  | 18 => decSync w false
  | 19 => decSync w true
  | 20 => decAged w false
  | 21 => decAged w true
  | 22 => decPub w
  | 23 => decAtomic w
  | 24 => decFence w
  | 25 => decTag w
  | 26 => decPush w
  | 27 => decPop w
  | 28 => decDispatch w
  | 29 => decMatrix w
  | 30 => decLink w
  | 31 => decVecMem w
  | _ => .error .unassignedMajor

/-- The A-class majors (R73). -/
def decA (w : Nat) : Except Reject Instr :=
  match majorOf w with
  | 32 => decInt w
  | 33 => decBits w
  | 34 => decImm w .addi
  | 35 => decImm w .andi
  | 36 => decImm w .ori
  | 37 => decImm w .xori
  | 38 => decShift w .shli
  | 39 => decShift w .shri
  | 40 => decShift w .sari
  | 41 => decImm w .slti
  | 42 => .ok (.lui (fD w) (BitVec.ofNat 21 (fld w 20 0)))
  | 43 => decFloat w
  | 44 => coded (Rnd.ofCode (fld w 12 10)) fun r =>
      .ok (.ffma (fD w) (fA w) (fB w) (regAt w 0) r (bitAt w 9) (Fin.ofNat 32 (fld w 8 4)))
  | 45 => decConvert w
  | 46 => decSpecial w
  | 47 => decVector w
  | 48 => decLane w
  | _ => .error .unassignedMajor

/-- The instruction of a word, before its value limits are checked. -/
def decodeRaw (w : Nat) : Except Reject Instr := if isAClass w then decA w else decC w

/-- Decoding of one word (R74 steps 1 and 3). Bit 31 is not looked at. -/
def decodeWord (w : Nat) : Except Reject Instr :=
  match decodeRaw w with
  | .ok i => if i.wf then .ok i else .error .reservedValue
  | .error e => .error e

/-! ### The encoder -/

/-- The fields shared by formats R and E (R67). -/
def encR (major : Nat) (d a b fn : Nat) : Nat :=
  major * 2 ^ 25 + d * 2 ^ 21 + a * 2 ^ 17 + b * 2 ^ 13 + fn

/-- Formats I and B: two register fields and 17 bits. -/
def encI (major : Nat) (d a i : Nat) : Nat := major * 2 ^ 25 + d * 2 ^ 21 + a * 2 ^ 17 + i

/-- Formats U and J: one register field and 21 bits. -/
def encU (major : Nat) (d i : Nat) : Nat := major * 2 ^ 25 + d * 2 ^ 21 + i

/-- Format M (R67). -/
def encM (major : Nat) (d a size cls mode off : Nat) : Nat :=
  major * 2 ^ 25 + d * 2 ^ 21 + a * 2 ^ 17 + size * 2 ^ 15 + cls * 2 ^ 14 + mode * 2 ^ 12 + off

/-- Major 32 (R122). -/
def encInt (t : ITy) (op : Nat) (d a b : GReg) (c : Nat) : Nat :=
  encR 32 d.val a.val b.val (t.code * 2 ^ 11 + op * 2 ^ 5 + c)

/-- A rounded operation of major 43 (R174). -/
def encFloat (op : Nat) (d a b : GReg) (r : Rnd) (s : Bool) (n : Fin 32) : Nat :=
  encR 43 d.val a.val b.val (op * 2 ^ 9 + r.code * 2 ^ 6 + b2n s * 2 ^ 5 + n.val)

/-- An aged access (R69, R155). -/
def encAged (major : Nat) (d a : GReg) (m : AMode) (g : Lag) (o : BitVec 8) : Nat :=
  encM major d.val a.val 3 0 (g.bits.1 * 2 + m.code) (g.bits.2 * 2 ^ 8 + o.toNat)

/-- The option bits of a copy-engine command (R225). -/
def encCp (op : Nat) (a b : GReg) (o : CpOpt) (low : Nat) : Nat :=
  encR 26 1 a.val b.val (op * 2 ^ 9 + b2n o.nr * 2 ^ 8 + b2n o.q * 2 ^ 7 + b2n o.ob * 2 ^ 6 + low)

/-- The low bits BE, BH and ES (R225). -/
def encBar (r : Bar) (es : Nat) : Nat := b2n r.be * 2 ^ 5 + r.bh.val * 2 ^ 2 + es

/-- A network command (R365). -/
def encNw (op : Nat) (a b : GReg) (o : NwOpt) : Nat :=
  encR 26 2 a.val b.val (op * 2 ^ 9 + b2n o.nr * 2 ^ 8 + b2n o.q * 2 ^ 7 + b2n o.h * 2 ^ 6 + o.t.val)

/-- A matrix run with K (R250). -/
def encRun (op : Nat) (d a b : Nat) (s : Bool) (k : BitVec 8) : Nat :=
  encR 29 d a b (op * 2 ^ 9 + b2n s * 2 ^ 8 + k.toNat)

/-- A vector operation of major 47 (R193). -/
def encVec (op : Nat) (a b d x y : Nat) : Nat := encR 47 0 a b (op * 2 ^ 9 + d * 2 ^ 6 + x * 2 ^ 3 + y)

/-- A mask operation (R196). -/
def encMask (op : Nat) (a d x y : Nat) : Nat := encR 47 0 a 0 (13 * 2 ^ 9 + op * 2 ^ 6 + d * 2 ^ 4 + x * 2 ^ 2 + y)

/-- The word of an instruction with bit 31 clear; an event has none. -/
def encode : Instr → Option Nat
  | .nop => some (encR 0 0 0 0 0)
  | .ecall => some (encR 0 0 0 0 1)
  | .brk => some (encR 0 0 0 0 2)
  | .tret => some (encR 0 0 0 0 3)
  | .ifence => some (encR 0 0 0 0 4)
  | .csrr d c => some (encI 1 d.val 0 c.toNat)
  | .csrw c a => some (encI 2 0 a.val c.toNat)
  | .csrs c a => some (encI 3 0 a.val c.toNat)
  | .csrc c a => some (encI 4 0 a.val c.toNat)
  | .jmp t => some (encU 5 0 t.toNat)
  | .call t => some (encU 6 15 t.toNat)
  | .jr a => some (encR 7 0 a.val 0 0)
  | .callr a => some (encR 7 0 a.val 0 1)
  | .beq a b t => some (encI 8 a.val b.val t.toNat)
  | .bne a b t => some (encI 9 a.val b.val t.toNat)
  | .blt a b t => some (encI 10 a.val b.val t.toNat)
  | .bge a b t => some (encI 11 a.val b.val t.toNat)
  | .blo a b t => some (encI 12 a.val b.val t.toNat)
  | .bhs a b t => some (encI 13 a.val b.val t.toNat)
  | .bkz k t => some (encI 14 k.val 0 t.toNat)
  | .bknz k t => some (encI 15 k.val 0 t.toNat)
  | .ld d a s c e o => some (encM 16 d.val a.val s.code c.code (if e = .zx then 1 else 0) o.toNat)
  | .st d a s c o => some (encM 17 d.val a.val s.code c.code 0 o.toNat)
  | .ldf d a c o => some (encM 18 d.val a.val 3 c.code 0 o.toNat)
  | .ldff d a c o => some (encM 18 d.val a.val 3 c.code 1 o.toNat)
  | .fetst d a c o => some (encM 18 d.val a.val 3 c.code 2 o.toNat)
  | .stf d a c o => some (encM 19 d.val a.val 3 c.code 0 o.toNat)
  | .stfill d a c o => some (encM 19 d.val a.val 3 c.code 1 o.toNat)
  | .stemp a c o => some (encM 19 0 a.val 3 c.code 2 o.toNat)
  | .lda d a m g o => some (encAged 20 d a m g o)
  | .fetcha d a m g o => some (encAged 21 d a m g o)
  | .pub d a b => some (encR 22 d.val a.val b.val 0)
  | .itset a => some (encR 22 0 a.val 0 1)
  | .itinc => some (encR 22 0 0 0 2)
  | .amo o d a b wide c =>
      some (encR 23 d.val a.val b.val (o.code * 2 ^ 8 + b2n wide * 2 ^ 7 + c.code * 2 ^ 6))
  | .cas d a b wide c => some (encR 23 d.val a.val b.val (2 ^ 12 + b2n wide * 2 ^ 7 + c.code * 2 ^ 6))
  | .fence s => some (encR 24 0 0 0 (s.code * 2 ^ 8))
  | .mig a => some (encR 24 0 a.val 0 (2 ^ 11))
  | .migc a => some (encR 24 0 a.val 0 (2 * 2 ^ 11))
  | .tlook d a => some (encR 25 d.val a.val 0 0)
  | .tset a b => some (encR 25 0 a.val b.val 1)
  | .tinv a => some (encR 25 0 a.val 0 2)
  | .tage d a => some (encR 25 d.val a.val 0 3)
  | .pushCopy a b o r => some (encCp 0 a b o (encBar r 0))
  | .pushGather a b o r z => some (encCp 1 a b o (encBar r z.code))
  | .pushScatter a b o r z => some (encCp 2 a b o (encBar r z.code))
  | .pushFill a b o r => some (encCp 3 a b o (encBar r 0))
  | .pushFetcha a b o r => some (encCp 4 a b o (encBar r 0))
  | .pushPublish a b o r => some (encCp 5 a b o (encBar r 0))
  | .pushReduce a b o x t => some (encCp 6 a b o (x.code * 2 ^ 3 + t.code))
  | .pushAbar a b o h => some (encCp 7 a b o (h.val * 2 ^ 2))
  | .pushArm a b => some (encR 26 1 a.val b.val (8 * 2 ^ 9))
  | .pushEpopen a b o => some (encNw 0 a b o)
  | .pushWsend a b o => some (encNw 1 a b o)
  | .pushWwrite a b o => some (encNw 2 a b o)
  | .pushWread a b o => some (encNw 3 a b o)
  | .pushCtrset a b o => some (encNw 4 a b o)
  | .pushCtrwait a b o => some (encNw 5 a b o)
  | .pop d p => some (encR 27 d.val 0 0 (p.code * 2 ^ 9))
  | .ctrwait a p => some (encR 27 0 a.val 0 (p.code * 2 ^ 9 + 2 ^ 6))
  | .crcfg a => some (encR 27 0 a.val 0 (2 * 2 ^ 6))
  | .crcfgSet a => some (encR 27 0 a.val 0 (3 * 2 ^ 6))
  | .crcfgAdd a => some (encR 27 0 a.val 0 (4 * 2 ^ 6))
  | .spawn a b => some (encR 28 0 a.val b.val 0)
  | .post a b => some (encR 28 0 a.val b.val (2 ^ 9))
  | .done => some (encR 28 0 0 0 (2 * 2 ^ 9))
  | .yield => some (encR 28 0 0 0 (3 * 2 ^ 9))
  | .send a b => some (encR 28 0 a.val b.val (4 * 2 ^ 9))
  | .chset d a b => some (encR 28 d.val a.val b.val (5 * 2 ^ 9))
  | .chclr d a b => some (encR 28 d.val a.val b.val (6 * 2 ^ 9))
  | .resid a => some (encR 28 0 a.val 0 (7 * 2 ^ 9))
  | .launch d a => some (encR 28 d.val a.val 0 (8 * 2 ^ 9))
  | .mcfg a b => some (encR 29 0 a.val b.val 0)
  | .mzero t all => some (encR 29 t.val 0 0 (2 ^ 9 + b2n all))
  | .mma t a b s k => some (encRun 2 t.val a.val b.val s k)
  | .mst t a b => some (encR 29 t.val a.val b.val (3 * 2 ^ 9))
  | .mcnt d t s => some (encR 29 d.val t.val 0 (4 * 2 ^ 9 + s.val))
  | .mclrTile t => some (encR 29 t.val 0 0 (5 * 2 ^ 9))
  | .mclrLatch l => some (encR 29 l.code 0 0 (5 * 2 ^ 9 + 2 ^ 8))
  | .mcmp a b k => some (encR 29 0 a.val b.val (6 * 2 ^ 9 + k.toNat))
  | .mlink d r => some (encR 29 d.val 0 0 (7 * 2 ^ 9 + r.code))
  | .mrot t a b s k => some (encRun 8 t.val a.val b.val s k)
  | .mnorm d a b => some (encR 29 d.val a.val b.val (9 * 2 ^ 9))
  | .malias a => some (encR 29 0 a.val 0 (10 * 2 ^ 9))
  | .msmp t a b s k => some (encRun 11 t.val a.val b.val s k)
  | .mvar d s => some (encR 29 d.val 0 0 (12 * 2 ^ 9 + s.val))
  | .mstop a b => some (encR 29 0 a.val b.val (13 * 2 ^ 9))
  | .lrd d i => some (encR 30 d.val i.code 0 0)
  | .lrf d i o => some (encR 30 d.val i.code o.code (2 ^ 11))
  | .lwr o a => some (encR 30 o.code a.val 0 (2 * 2 ^ 11))
  | .vld v a b m k => some (encR 31 0 a.val b.val (v.val * 2 ^ 7 + b2n m * 2 ^ 6 + k.val * 2 ^ 4))
  | .vst v a b m k => some (encR 31 0 a.val b.val (2 ^ 10 + v.val * 2 ^ 7 + b2n m * 2 ^ 6 + k.val * 2 ^ 4))
  | .vfence => some (encR 31 0 0 0 (2 * 2 ^ 10))
  | .sbind s a b => some (encR 31 0 a.val b.val (3 * 2 ^ 10 + s.val * 2 ^ 8))
  | .sfree s => some (encR 31 0 0 0 (4 * 2 ^ 10 + s.val * 2 ^ 8))
  | .ssync => some (encR 31 0 0 0 (5 * 2 ^ 10))
  | .add t d a b => some (encInt t 0 d a b 0)
  | .sub t d a b => some (encInt t 1 d a b 0)
  | .mul t d a b => some (encInt t 2 d a b 0)
  | .mulh t d a b => some (encInt t 3 d a b 0)
  | .mulhz t d a b => some (encInt t 4 d a b 0)
  | .div t d a b => some (encInt t 5 d a b 0)
  | .divz t d a b => some (encInt t 6 d a b 0)
  | .rem t d a b => some (encInt t 7 d a b 0)
  | .remz t d a b => some (encInt t 8 d a b 0)
  | .and t d a b => some (encInt t 9 d a b 0)
  | .or t d a b => some (encInt t 10 d a b 0)
  | .xor t d a b => some (encInt t 11 d a b 0)
  | .andn t d a b => some (encInt t 12 d a b 0)
  | .shl t d a b => some (encInt t 13 d a b 0)
  | .shr t d a b => some (encInt t 14 d a b 0)
  | .sar t d a b => some (encInt t 15 d a b 0)
  | .slt t d a b => some (encInt t 16 d a b 0)
  | .sltz t d a b => some (encInt t 17 d a b 0)
  | .min t d a b => some (encInt t 18 d a b 0)
  | .max t d a b => some (encInt t 19 d a b 0)
  | .minz t d a b => some (encInt t 20 d a b 0)
  | .maxz t d a b => some (encInt t 21 d a b 0)
  | .clz t d a => some (encInt t 22 d a 0 0)
  | .ctz t d a => some (encInt t 23 d a 0 0)
  | .popc t d a => some (encInt t 24 d a 0 0)
  | .sel t d a b c => some (encInt t 25 d a b c.val)
  | .bfx d a e p n => some (encR 33 d.val a.val (if e = .sx then 1 else 0) (p.val * 2 ^ 6 + n.val))
  | .bfi d a p n => some (encR 33 d.val a.val 0 (2 ^ 12 + p.val * 2 ^ 6 + n.val))
  | .addi d a i => some (encI 34 d.val a.val i.toNat)
  | .andi d a i => some (encI 35 d.val a.val i.toNat)
  | .ori d a i => some (encI 36 d.val a.val i.toNat)
  | .xori d a i => some (encI 37 d.val a.val i.toNat)
  | .shli d a i => some (encI 38 d.val a.val i.val)
  | .shri d a i => some (encI 39 d.val a.val i.val)
  | .sari d a i => some (encI 40 d.val a.val i.val)
  | .slti d a i => some (encI 41 d.val a.val i.toNat)
  | .lui d i => some (encU 42 d.val i.toNat)
  | .fadd d a b r s n => some (encFloat 0 d a b r s n)
  | .fsub d a b r s n => some (encFloat 1 d a b r s n)
  | .fmul d a b r s n => some (encFloat 2 d a b r s n)
  | .fmin d a b => some (encR 43 d.val a.val b.val (3 * 2 ^ 9))
  | .fmax d a b => some (encR 43 d.val a.val b.val (4 * 2 ^ 9))
  | .feq d a b => some (encR 43 d.val a.val b.val (5 * 2 ^ 9))
  | .flt d a b => some (encR 43 d.val a.val b.val (6 * 2 ^ 9))
  | .fle d a b => some (encR 43 d.val a.val b.val (7 * 2 ^ 9))
  | .fcls d a => some (encR 43 d.val a.val 0 (8 * 2 ^ 9))
  | .fsgn d a b m => some (encR 43 d.val a.val b.val (9 * 2 ^ 9 + m.code))
  | .ffma d a b c r s n =>
      some (encR 44 d.val a.val b.val (r.code * 2 ^ 10 + b2n s * 2 ^ 9 + n.val * 2 ^ 4 + c.val))
  | .fcvt d a s t u r => some (encR 45 d.val a.val (b2n s) (t.code * 2 ^ 7 + u.code * 2 ^ 3 + r.code))
  | .srnd d a b t u s n =>
      some (encR 45 d.val a.val b.val (2 ^ 11 + t.code * 2 ^ 9 + u.code * 2 ^ 8 + b2n s * 2 ^ 7 + n.val * 2 ^ 2))
  | .cadd d a b => some (encR 45 d.val a.val b.val (2 * 2 ^ 11))
  | .frcp d a => some (encR 46 d.val a.val 0 0)
  | .frsq d a => some (encR 46 d.val a.val 0 (2 ^ 9))
  | .fsqrt d a => some (encR 46 d.val a.val 0 (2 * 2 ^ 9))
  | .fdiv d a b => some (encR 46 d.val a.val b.val (3 * 2 ^ 9))
  | .fex2 d a => some (encR 46 d.val a.val 0 (4 * 2 ^ 9))
  | .flg2 d a => some (encR 46 d.val a.val 0 (5 * 2 ^ 9))
  | .fsin d a => some (encR 46 d.val a.val 0 (6 * 2 ^ 9))
  | .fcos d a => some (encR 46 d.val a.val 0 (7 * 2 ^ 9))
  | .ftanh d a => some (encR 46 d.val a.val 0 (8 * 2 ^ 9))
  | .vadd d x y b a => some (encVec 0 a.val b.val d.val x.val y.val)
  | .vsub d x y b a => some (encVec 1 a.val b.val d.val x.val y.val)
  | .vmul d x y b a => some (encVec 2 a.val b.val d.val x.val y.val)
  | .vfma d x y b a => some (encVec 3 a.val b.val d.val x.val y.val)
  | .vmin d x y b => some (encVec 4 0 b.val d.val x.val y.val)
  | .vmax d x y b => some (encVec 5 0 b.val d.val x.val y.val)
  | .vcmp d x y b => some (encVec 6 0 b.val d.val x.val y.val)
  | .vsel d x y b => some (encVec 7 0 b.val d.val x.val y.val)
  | .vred d x b => some (encVec 8 0 b.val d.val x.val 0)
  | .vscan d x b => some (encVec 9 0 b.val d.val x.val 0)
  | .vcvt d x b a => some (encVec 10 a.val b.val d.val x.val 0)
  | .vperm d x y b => some (encVec 11 0 b.val d.val x.val y.val)
  | .vbcast d b a => some (encVec 12 a.val b.val d.val 0 0)
  | .kand d x y => some (encMask 0 0 d.val x.val y.val)
  | .kor d x y => some (encMask 1 0 d.val x.val y.val)
  | .kxor d x y => some (encMask 2 0 d.val x.val y.val)
  | .knot d x => some (encMask 3 0 d.val x.val 0)
  | .kset d a => some (encMask 4 a.val d.val 0 0)
  | .vget d v n => some (encR 48 d.val v.val 0 (n.val * 2 ^ 6))
  | .vput v a n => some (encR 48 v.val a.val 0 (2 ^ 10 + n.val * 2 ^ 6))
  | .vbusy d => some (encR 48 d.val 0 0 (2 * 2 ^ 10))
  | .kpop d k => some (encR 48 d.val k.val 0 (3 * 2 ^ 10))
  | _ => none

/-- Whether a constructor is an instruction word rather than an event. -/
def Instr.isWord (i : Instr) : Bool := (encode i).isSome

/-- A word as the four bytes that memory holds, lowest first (R3). -/
def wordBytes (w : Nat) : List Byte := bytesOf 4 w

/-- The instruction that the decoder reads from an opcode-table word of `nbits` bits (every row has 32). -/
def decodeTableWord (nbits w : Nat) : Option Instr :=
  match decodeWord (ofBytes (wordBytes (w % 2 ^ nbits))) with
  | .ok i => some i
  | .error _ => none

end Sys2Proof
end

