-- ==== Sys2Proof/Machine/Cipher.lean ====
section
/-! DEFINITION. AES-256-XTS, by which a home's memory port enciphers each 512-byte block (R388). PRESUMED (log entry 62): the functions are
those of FIPS 197 and IEEE 1619-2018, which the spec names and does not write out. -/

namespace Sys2Proof.Machine
open Bits

/-! ### The field of 256 elements -/

def xtime (b : Byte) : Byte := b <<< 1 ^^^ (if b.getLsbD 7 then 0x1B else 0)
/-- The product of two elements, over the low n bits of the second. -/
def fieldMul : Nat → Byte → Byte → Byte
  | 0, _, _ => 0
  | n + 1, a, b => (if b.getLsbD 0 then a else 0) ^^^ fieldMul n (xtime a) (b >>> 1)
/-- The inverse, as the power 254, and 0 for 0. -/
def fieldPow : Nat → Byte → Byte
  | 0, _ => 1
  | n + 1, a => fieldMul 8 a (fieldPow n a)
def subByte (b : Byte) : Byte :=
  let x := fieldPow 254 b
  x ^^^ x.rotateLeft 1 ^^^ x.rotateLeft 2 ^^^ x.rotateLeft 3 ^^^ x.rotateLeft 4 ^^^ 0x63
def unsubByte (b : Byte) : Byte :=
  let x := b.rotateLeft 1 ^^^ b.rotateLeft 3 ^^^ b.rotateLeft 6 ^^^ 0x05
  fieldPow 254 x

/-! ### Rounds; a state is 16 bytes, column by column -/

def xorBytes (a b : List Byte) : List Byte := a.zipWith (· ^^^ ·) b
/-- Row r of the state moves by k r places to the left. -/
def shiftRows (k : Nat) (l : List Byte) : List Byte :=
  (List.range 16).map (fun i => l.getD (i % 4 + 4 * ((i / 4 + k * (i % 4)) % 4)) 0)
/-- Each column is multiplied by the circulant matrix whose first row is given. -/
def mixColumns (row : List Byte) (l : List Byte) : List Byte :=
  (List.range 16).map (fun i => (List.range 4).foldl (fun b j =>
    b ^^^ fieldMul 8 (l.getD (i / 4 * 4 + j) 0) (row.getD ((j + 4 - i % 4) % 4) 0)) 0)

/-- The key schedule, newest word first: word i is word i - 8 with a function of word i - 1 added. -/
def aesWords : Nat → List (List Byte) → List (List Byte)
  | 0, ws => ws
  | n + 1, ws =>
    let i := ws.length
    let p := ws.headD []
    let t :=
      if i % 8 = 0 then xorBytes ((p.drop 1 ++ p.take 1).map subByte) [1#8 <<< (i / 8 - 1), 0, 0, 0]
      else if i % 8 = 4 then p.map subByte else p
    aesWords n (xorBytes (ws.getD 7 []) t :: ws)
/-- The fifteen round keys of a 256-bit key, first to last. -/
def aesKeys (key : Nat) : List (List Byte) :=
  let ws := (aesWords 52 ((List.range 8).map (fun i => bytesOf 4 (key / 2 ^ (32 * (7 - i)))))).reverse
  (List.range 15).map (fun r => (List.range 4).flatMap (fun j => ws.getD (4 * r + j) []))

def aesRounds : List (List Byte) → List Byte → List Byte
  | [], b => b
  | [k], b => xorBytes (shiftRows 1 (b.map subByte)) k
  | k :: ks, b => aesRounds ks (xorBytes (mixColumns [2, 3, 1, 1] (shiftRows 1 (b.map subByte))) k)
def aesEncrypt (ks : List (List Byte)) (b : List Byte) : List Byte := aesRounds (ks.drop 1) (xorBytes b (ks.headD []))

def aesUnrounds : List (List Byte) → List Byte → List Byte
  | [], b => b
  | [k], b => xorBytes ((shiftRows 3 b).map unsubByte) k
  | k :: ks, b => aesUnrounds ks (mixColumns [14, 11, 13, 9] (xorBytes ((shiftRows 3 b).map unsubByte) k))
def aesDecrypt (ks : List (List Byte)) (b : List Byte) : List Byte :=
  aesUnrounds ((ks.dropLast).reverse) (xorBytes b (ks.getLastD []))

/-! ### XTS over a data unit -/

/-- The next block's tweak: multiplied by the generator. -/
def nextTweak (t : Nat) : Nat := (2 * t % 2 ^ 128) ^^^ (if t / 2 ^ 127 % 2 = 1 then 0x87 else 0)

/-- The n blocks of 16 bytes of a data unit, each between two additions of its tweak. -/
def xtsBlocks (f : List Byte → List Byte) : Nat → Nat → Nat → Nat
  | 0, _, _ => 0
  | n + 1, t, v => ((ofBytes (f (bytesOf 16 (v % 2 ^ 128 ^^^ t)))) ^^^ t) + 2 ^ 128 * xtsBlocks f n (nextTweak t) (v / 2 ^ 128)

/-- A 512-byte block enciphered under a 512-bit key: its low half for the data, its high half for the tweak. -/
def xtsEncrypt (key tweak v : Nat) : Nat :=
  let t := ofBytes (aesEncrypt (aesKeys (key / 2 ^ 256)) (bytesOf 16 tweak))
  xtsBlocks (aesEncrypt (aesKeys key)) 32 t v
def xtsDecrypt (key tweak v : Nat) : Nat :=
  let t := ofBytes (aesEncrypt (aesKeys (key / 2 ^ 256)) (bytesOf 16 tweak))
  xtsBlocks (aesDecrypt (aesKeys key)) 32 t v

end Sys2Proof.Machine
end

