-- ==== Sys2Proof/Config.lean ====
section
/-! DEFINITION. The free values of the model and the signature functions of standards outside the spec, as opaque constants: nothing can be
proved of what they are (R6). What an installation fixes (CXL memory, Ethernet addresses, granted adapters) is data of State. -/

namespace Sys2Proof.Config

/-- An undefined 64-bit value (R6): the i-th word of the n-th draw of a booth under a tenant. State.fresh counts the draws of each
booth and tenant, so the value depends on nothing that another booth or an earlier tenant owns. -/
opaque freeWord : Nat → BitVec 64 → Nat → Nat → BitVec 64

/-- Whether the vendor's ECDSA P-384 and HSS keys verify a signature over some bytes (R384, R385). -/
opaque ecdsaVerifies : List (BitVec 8) → List (BitVec 8) → Bool
opaque hssVerifies : List (BitVec 8) → List (BitVec 8) → Bool

/-- Management's key pair of a package, in key slot 0 (R389). -/
opaque managementKey : Nat → Nat

/-- The host node that a package's boot straps name (R383). -/
opaque bootHost : Nat → Nat

/-- What a package's Colxo controller holds and the spec does not give: 0 the boot ROM, 1 the fuse configuration, 2 the device
certificate chain, 3 its capabilities (R386, R387). -/
opaque deviceBytes : Nat → Nat → List (BitVec 8)

/-- The signatures that a package's controller makes over a byte string: ECDSA P-384, r then s, and HSS of two levels (R326, R386, R390). -/
opaque ecdsaSigns : Nat → List (BitVec 8) → Vector (BitVec 8) 96
opaque hssSigns : Nat → List (BitVec 8) → Vector (BitVec 8) 2964

/-- A controller's answer to a key-exchange share, and whether the requester's proof of a session verifies (R386). -/
opaque exchange : Nat → Nat → List (BitVec 8)
opaque finishVerifies : Nat → Nat → Bool

end Sys2Proof.Config
end

