-- ==== Sys2Proof/Machine/Tables.lean ====
section
/-! DEFINITION. Sparse tables: association lists with strictly rising keys, one canonical form for each content. -/

namespace Sys2Proof.Tables

/-- The entry at a key. -/
def find {α : Type} : List (Nat × α) → Nat → Option α
  | [], _ => none
  | (k, a) :: t, n => if k = n then some a else find t n

/-- The entry at a key, or a default. -/
def getD {α : Type} (t : List (Nat × α)) (n : Nat) (d : α) : α := (find t n).getD d

/-- Sets the entry at a key. -/
def put {α : Type} : List (Nat × α) → Nat → α → List (Nat × α)
  | [], n, a => [(n, a)]
  | (k, b) :: t, n, a =>
    if k = n then (n, a) :: t else if n < k then (n, a) :: (k, b) :: t else (k, b) :: put t n a

/-- Removes the entry at a key. -/
def del {α : Type} (t : List (Nat × α)) (n : Nat) : List (Nat × α) := t.filter (fun e => e.1 != n)

/-- Sets the entry at a key, keeping the default value unlisted. -/
def putD {α : Type} [DecidableEq α] (t : List (Nat × α)) (n : Nat) (a d : α) : List (Nat × α) :=
  if a = d then del t n else put t n a

/-- Whether the keys rise strictly. -/
def rising {α : Type} : List (Nat × α) → Bool
  | [] => true
  | [_] => true
  | (k, _) :: (k', b) :: t => k < k' && rising ((k', b) :: t)

/-- Sets of numbers kept as strictly rising lists. -/
def insert : List Nat → Nat → List Nat
  | [], n => [n]
  | k :: t, n => if k = n then k :: t else if n < k then n :: k :: t else k :: insert t n

/-- Removes a number. -/
def remove (t : List Nat) (n : Nat) : List Nat := t.filter (fun e => e != n)

/-- Whether a list of numbers rises strictly. -/
def risingSet : List Nat → Bool
  | [] => true
  | [_] => true
  | k :: k' :: t => k < k' && risingSet (k' :: t)

/-- The list without its i-th element. -/
def dropAt {α : Type} : List α → Nat → List α
  | [], _ => []
  | _ :: t, 0 => t
  | a :: t, i + 1 => a :: dropAt t i

/-- The list with its i-th element replaced. -/
def setAt {α : Type} : List α → Nat → α → List α
  | [], _, _ => []
  | _ :: t, 0, b => b :: t
  | a :: t, i + 1, b => a :: setAt t i b

/-- The first element that satisfies a test, with its place. -/
def findIdx {α : Type} (p : α → Bool) : List α → Option (Nat × α)
  | [] => none
  | a :: t => if p a then some (0, a) else (findIdx p t).map (fun x => (x.1 + 1, x.2))

end Sys2Proof.Tables
end

