-- ==== Sys2Proof/Machine/State.lean ====
section
/-! DEFINITION. The state of a fabric of Morivo packages as plain data, and its value at reset (power-up, R385): no
booth owns anything, no thread exists, and memory lists nothing. A core is named by its number `cid` (R11 bits [29:4]),
a slot by its key `cid * 16 + slot`, so that 2^31 + key is the thread identifier of R11. -/

namespace Sys2Proof.Machine

/-- Why the machine stops with a fault. -/
inductive Fault where
  /-- HOST_ACCESS to an address that the booth does not map: the spec gives no effect (R352). Safe: the model stops. -/
  | hostUnmapped
  deriving DecidableEq, Repr

/-- Why an instruction or event has no step in a state. -/
inductive Refusal where
  /-- An arm of `exec` without a meaning. Safe: the model stops. -/
  | notModelled (mnemonic : String)
  /-- An instruction word executed where no thread occupies the current slot. Raised by every instruction word. Safe. -/
  | noThread
  /-- An event whose precondition does not hold: the device does not take that step now. Raised by every event. Safe. -/
  | notEnabled (mnemonic : String)
  deriving DecidableEq, Repr

/-! ### Memory -/

/-- A 512-byte block's age and last writer (R43). -/
structure Block where
  age : Nat
  writer : Nat
  deriving DecidableEq, Repr

/-- Bytes of scratchpad, bonded DRAM and CXL memory by global address, the full words (R144), published blocks, and the key under which
each 512-byte block of DRAM and CXL memory stands (R388). An unlisted byte reads 0, an unlisted word is empty, an unlisted block has
age 0 and writer 0, and a block without a key reads the same under every key. -/
structure Memory where
  bytes : List Host.Cell
  full : List Nat
  blocks : List (Nat × Block)
  keys : List (Nat × Nat)
  deriving DecidableEq, Repr

/-! ### Threads -/

/-- The context of a thread (R30): what travels with it. STAT.SB is computed from the slot. -/
structure Ctx where
  g : Vector Word 16
  pc : BitVec 48
  it : BitVec 24
  age : BitVec 24
  tbm : Word
  prv : Bool
  pprv : Bool
  th : Bool
  fda : Word
  fdb : Word
  fdc : Word
  deriving DecidableEq, Repr

/-- A stream binding (R186 to R189). -/
structure Stream where
  desc : Word
  base : Word
  /-- Next element to pop or push. -/
  next : Nat
  /-- Elements read ahead, oldest first (in-stream). -/
  ahead : List Word
  /-- Elements pushed and not yet written, oldest first (out-stream). -/
  unwritten : List Word
  deriving DecidableEq, Repr

/-- The sampled-product registers of a slot (R271). -/
structure Sampled where
  scfg : Word
  sgen : Word
  snr : Word
  stb : Word
  sk : Nat
  sw : Half
  valid : Bool
  scnt : Nat
  early : Bool
  smean : Half
  sm2 : Half
  deriving DecidableEq, Repr

/-- The slot-owned registers (R30, R104) that a spill image saves and restores (R318). -/
structure SlotRegs where
  epc : Word
  cause : Word
  tval : Word
  scratch : Word
  nbv : Bool
  mthr : Word
  v : Vector (Vector Half 16) 8
  k : Vector (BitVec 16) 4
  streams : Vector (Option Stream) 4
  mda : Word
  mdb : Word
  mrs : Word
  sampled : Sampled
  deriving DecidableEq, Repr

/-- A saved context: a thread and the slot-owned registers saved with it; after `yield` it may resume in any slot that its
placement allows (R303). -/
structure Saved where
  uid : Nat
  regs : SlotRegs
  roam : Bool
  deriving DecidableEq, Repr

/-- A special-function request (R182, R183). -/
structure SfuReq where
  uid : Nat
  group : Nat
  op : Nat
  x : Half
  y : Half
  d : GReg
  deriving DecidableEq, Repr

/-- What an A word writes when its bundle completes (R65 item 3). -/
inductive Writeback where
  | g (d : GReg) (w : Word)
  | v (d : VReg) (w : Vector Half 16)
  | k (d : KReg) (w : BitVec 16)
  | sfu (r : SfuReq)
  /-- The lanes that `vst` writes at its last beat: offsets in the window and values, in order (R114, R197). -/
  | lanes (l : List (Nat × Nat))
  deriving DecidableEq, Repr

/-- What the thread does when a fence's echoes are in: the instruction completes, or the bundle is issued again because
the fence was the first step of another instruction (R15, R300) or of a migration (R171). -/
inductive FenceCont where | complete | again | depart
  deriving DecidableEq, Repr

/-- Why a bundle is to be issued again (R18). -/
inductive Why where
  /-- A page walk runs for a page; the trap that the access takes if the walk finds none (R118, R119). -/
  | walk (cluster booth page : Nat) (cause tval : Nat)
  /-- The posted window is full (R145, R345). -/
  | window
  /-- An earlier spray access to the word is not acknowledged (R204). -/
  | spray
  /-- A special-function result is pending in a named register (R184). -/
  | pending
  /-- The special-function queue's share is full (R183). -/
  | sfuFull
  /-- A full input port or a command limit of an engine (R17, R224). -/
  | port (p : Port)
  /-- An empty output port (R17). -/
  | element (p : Port)
  /-- Commands or results must drain before a migration (R185). -/
  | drain
  /-- An inbound lane holds no word (R264). -/
  | laneEmpty (l : Link)
  /-- The partner's lane is full (R264). -/
  | laneFull (l : Link)
  /-- Earlier posted accesses are to be performed before a link pop (R267). -/
  | stores
  /-- No journal place is free (R393). -/
  | journal
  /-- A bank or store of the group belongs to the other tenant of a handover (R322). -/
  | handover
  deriving DecidableEq, Repr

/-- What a thread waits for (R18). -/
inductive Wait where
  | idle
  /-- The reply to a waited-for access, named by its message number (R145, R150, R156). -/
  | reply (mid : Nat)
  /-- A fence (R166): whether its probes have gone, and the cores whose echoes are out. -/
  | fence (scope : Nat) (probed : Bool) (left : List Nat) (cont : FenceCont)
  | retry (w : Why)
  /-- A Crier threshold (R235). -/
  | crier (thresh : Nat)
  /-- A network counter (R375): handle, sequence and expected value in `thresh`. -/
  | counter (handle thresh : Nat)
  /-- A matrix run (R250). -/
  | run
  /-- A migration under way, by message number (R35). -/
  | migrating (mid : Nat)
  /-- A blocked send (R308), by message number. -/
  | send (mid : Nat) (since : Nat) (limit : Nat) (dst chan : Nat)
  /-- The host's receipt of a `post` (R304), or a dispatcher answer. -/
  | dispatcher (mid : Nat)
  /-- A special-function request that waits outside the full queue (R183 item 2). -/
  | sfuQueue
  /-- `yield` found its slot wanted; the swap follows (R303). -/
  | yielding
  deriving DecidableEq, Repr

/-- The first-refusal record (R215). -/
structure NackRec where
  va : Nat
  code : Nat
  count : Nat
  deriving DecidableEq, Repr

/-- What a thread is and whom it belongs to (R29, R297, R301, R306). -/
structure Job where
  /-- The launch handle of the thread's launch; none for a thread of a channel without one. -/
  launch : Option Nat
  index : Nat
  prio : Nat
  /-- Cycle at which the launch's deadline passes (R309). -/
  deadline : Option Nat
  /-- COORD of its packet: the coordinate of level j in bits [16j+15:16j] (R297, R301). -/
  coord : Nat
  /-- The core on which it started: the core of a channel thread and the cluster of a spawned one (R301, R303, R306). -/
  home : Nat
  deriving DecidableEq, Repr

/-- Where a thread's context stands. -/
inductive Place where
  | slot | shadow | arrival | image | flight
  /-- In a tenant's save area (R321). -/
  | area
  deriving DecidableEq, Repr

/-- The bundle that a thread issued last (R66): address, size, words, and the slot's stream bindings as they stood at its
issue, which a late trap puts back. -/
structure Issued where
  pc : Nat
  size : Nat
  cw : Nat
  aw : Nat
  streams : Vector (Option Stream) 4
  deriving DecidableEq, Repr

/-- A thread: its context and what the hardware keeps for it. -/
structure Thread where
  ctx : Ctx
  booth : Nat
  /-- The key of the slot it occupies or is bound for. -/
  key : Nat
  place : Place
  job : Job
  wait : Wait
  /-- Results that wait for the bundle's end: a parked C word or a last beat (R65, R114). -/
  held : List Writeback
  /-- The A word of the bundle has run and only its C word is to be issued again (R18, R65 item 3). -/
  aRan : Bool
  /-- Issues that the bundle in progress still takes, and the beats of the bundle (R34, R114). -/
  beats : Nat
  total : Nat
  /-- The general values that a multi-beat bundle read at its first beat (R114, R318). -/
  srcs : List Word
  /-- The A word carried by an explicit migration (R172). -/
  carry : Option Nat
  issued : Issued
  /-- General registers with a special-function result pending (R184). -/
  sfuPend : BitVec 16
  /-- Unacknowledged spray accesses: message number, first byte and size (R204). -/
  spray : List (Nat × Nat × Nat)
  /-- Unacknowledged accesses to other packages (R146). -/
  offPkg : List Nat
  refusal : Option NackRec
  cpOut : List Word
  nwOut : List Word
  cpCount : Nat
  nwCount : Nat
  /-- A trap kept for a saved thread (R19): cause and TVAL. -/
  pendTrap : Option (Nat × Word)
  /-- Stamp of its last issue, the cycle after it; 0 before the first (R32). -/
  last : Nat
  /-- The tenant of the booth for which it started (R322). -/
  tenant : Word
  /-- Displaced by a pre-emption or a yield and not yet resumed (R37 promise 3). -/
  preempted : Bool
  /-- Migrations made: result elements of commands pushed before one are discarded (R224). -/
  moves : Nat
  /-- Stamp of the end of its last wait, the cycle after it (R102). -/
  woke : Nat
  /-- Elements that source fields of its parked bundle popped when it was issued, in the fields' order (R65 items 1 and 3). -/
  given : List (GReg × Word)
  deriving DecidableEq, Repr

/-! ### Slots and cores -/

/-- The slot states of R100; READY and PARKED are `live` with the thread's wait idle or not. The exchange of SWAP is one
step. -/
inductive Phase where | free | live | handover
  deriving DecidableEq, Repr

/-- The shadow-bank states of R101. -/
inductive Shadow where
  | empty
  | arrival (c : Saved)
  | displaced (c : Saved)
  | spill (c : Saved)
  deriving DecidableEq, Repr

/-- One slot (R100, R101, R231, R232, R264, R265). -/
structure Slot where
  phase : Phase
  run : Option Nat
  regs : SlotRegs
  shadow : Shadow
  crCnt : Nat
  crTerm : Word
  crFires : Nat
  lanes : Vector (List Word) 4
  /-- opb: 32-byte units received from the west partner, oldest first. -/
  opb : List (List Byte)
  /-- opa holds an operand (R243); no instruction reads it. -/
  opaFull : Bool
  deriving DecidableEq, Repr

/-- A page mapping (R357). -/
structure Page where
  va : Nat
  size : Nat
  /-- Global address of the first byte. -/
  base : Nat
  /-- Home core (target core for a near window). -/
  home : Nat
  /-- 0 home DRAM, 1 CXL memory, 2 near window. -/
  kind : Nat
  half : Nat
  key : Nat
  aged : Bool
  sup : Bool
  ex : Bool
  wr : Bool
  rd : Bool
  deriving DecidableEq, Repr

/-- A tag entry of a frame (R167). -/
structure Tag where
  vba : Nat
  v : Bool
  age : Nat
  owner : Nat
  deriving DecidableEq, Repr

/-- The counters of a tile (R92). -/
structure TileCnt where
  satc : Nat
  nanc : Nat
  bsoc : Nat
  deriving DecidableEq, Repr

/-- A matrix request or run (R250, R260, R261): its slot and thread, its operands, and the descriptors and sampled
registers as they stood at its issue (R251). -/
structure MRun where
  uid : Nat
  key : Nat
  booth : Nat
  op : Nat
  tile : Nat
  a : Word
  b : Word
  d : Word
  sat : Bool
  /-- Number of k steps, records or samples. -/
  k : Nat
  mda : Word
  mdb : Word
  sampled : Sampled
  /-- Cycle of its start (R262). -/
  since : Nat
  /-- NBV.MODE at its start (R99). -/
  mode : Bool
  /-- Units of B taken so far (R254, R265). -/
  units : List (List Byte)
  deriving DecidableEq, Repr

/-- One core (R100, R118, R167, R183, R242, R261). -/
structure Core where
  owners : Vector (Option Nat) 4
  /-- Lost to a fault, and the spares left in its cluster are counted elsewhere (R330). -/
  lost : Bool
  sfuQ : List SfuReq
  sfuWait : List SfuReq
  mreqs : List MRun
  mrun : Option MRun
  mlast : Nat
  /-- Contexts waiting beyond the shadow bank, two places per booth (R36). -/
  arrivals : List Saved
  tlb : List (Nat × Page)
  tags : List (Nat × Tag)
  /-- Accumulator entries that are not +0: group * 2048 + entry. -/
  acc : List (Nat × BitVec 36)
  /-- Tile counters: group * 4 + tile. -/
  tileCnt : List (Nat × TileCnt)
  deriving DecidableEq, Repr

/-- A posted window and what R345 counts for it: of a booth on a core, or of a virtual queue of an engine (R344). -/
structure PWin where
  window : Nat
  clean : Nat
  sincecut : Nat
  outstanding : Nat
  deriving DecidableEq, Repr

/-- The booth-owned registers and the posted window of a booth on a core (R104, R344). -/
structure BoothCore where
  tvec : Word
  feretry : Word
  fewait : Word
  agewait : Word
  sndlim : Word
  win : PWin
  /-- Stamp of the booth's last issue on the core, the cycle after it (R32, R329). -/
  last : Nat
  deriving DecidableEq, Repr

/-! ### Messages -/

/-- The synchronising accesses of R150. -/
inductive SyncOp where | ldf | ldff | fetst | stf | stfill | stemp
  deriving DecidableEq, Repr

/-- A member of a combined `amo.add` run (R346). -/
structure Member where
  mid : Nat
  uid : Nat
  tid : Nat
  src : Nat
  /-- Destination register; 0 for a posted member. -/
  d : GReg
  posted : Bool
  ack : Bool
  operand : Nat
  /-- Input port on which the member's run reached the switch where it waits (R347). -/
  port : Nat
  deriving DecidableEq, Repr

/-- What a message asks its home to do. -/
inductive Req where
  | load (n : Nat) (signed : Bool)
  | store (n : Nat) (data : Nat)
  | amo (op : AmoOp) (n : Nat) (ms : List Member)
  | cas (n : Nat) (expect new : Nat)
  | sync (op : SyncOp) (data : Word) (retry : Nat) (limit : Nat)
  | lda (word : Nat) (park : Bool) (lag it limit : Nat)
  | fetcha (frame : Nat) (park : Bool) (lag it limit : Nat)
  | pub (data : Nat) (it : Nat)
  deriving DecidableEq, Repr

/-- What a reply brings: the value for the destination register, the age of a satisfied aged access, a frame fill. -/
structure Answer where
  val : Option Word
  age : Option Nat
  frame : Option Nat
  data : Nat
  full : Nat
  deriving DecidableEq, Repr

/-- A work packet that waits for a slot (R297): a spawned one (R301), or one committed by a pre-emption (R315). -/
structure Packet where
  launch : Nat
  index : Nat
  entry : Nat
  args : List Word
  /-- The engine (cluster or edge group) whose queue holds it. -/
  eng : Nat
  spawned : Bool
  /-- COORD (R297): the coordinate of level j in bits [16j+15:16j]. -/
  coord : Nat
  deriving DecidableEq, Repr

/-- What a thread asks of its package's dispatcher or of a channel's core, and waits for (R299). -/
inductive Ask where
  /-- `spawn`: the packet, whose index the dispatcher gives it (R301). -/
  | spawn (p : Packet)
  /-- `launch`: the record's address, the submitter's privilege, and the journal entry of its own launch (R305, R328). -/
  | launch (va : Nat) (sup : Bool) (parent : Nat)
  /-- `chset` (or else `chclr`) of a channel, with the bits of gb (R307). -/
  | chan (channel : Nat) (set : Bool) (bits : Word)
  deriving DecidableEq, Repr

/-- The body of a message (R341). -/
inductive Body where
  | req (r : Req)
  | reply (a : Answer)
  /-- The reply to a combined run: its members and the old value. -/
  | combReply (n : Nat) (ms : List Member) (old : Nat)
  /-- The home answers that the access traps. -/
  | trapReply (cause : Nat) (tval : Nat)
  | ack
  /-- A credit for `c` ordered accesses (R344). -/
  | credit (c : Nat)
  | probe
  | echo
  /-- A refused posted access (R149): its address. -/
  | refusal (va : Nat)
  | stop (tid : Nat)
  | context
  /-- A channel message: channel, four words (R308). -/
  | chan (channel : Nat) (w : List Word)
  /-- An interrupt: the four words of R361. -/
  | irq (w : List Word)
  /-- A boot request (R383). -/
  | boot
  /-- A request to a dispatcher or to a channel's core. -/
  | ask (a : Ask)
  /-- A host's write of an entry of the command window that the message's booth numbers, and of its TAIL (R353). -/
  | cmdEntry (i : Nat) (w : List Word)
  | cmdTail (tail : Word)
  /-- The switch above reports to a switch that a route-table entry's old port has drained (R351). -/
  | drain (sw entry : Nat)
  deriving DecidableEq, Repr

/-- The party that a message travels for: a core, a virtual queue of a copy engine or of a network engine by its key, or a host
adapter. Requests go out from it and their answers return to it (R21, R352). -/
inductive Party where
  | core
  | copy (key : Nat)
  | net (key : Nat)
  | host (adapter : Nat)
  deriving DecidableEq, Repr

/-- A message in flight. A node is a core's number; an engine stands at core 0 of its cluster or edge group, a package's dispatcher
and management at `pkgNode`, a host adapter at `hostNode`. -/
structure Msg where
  mid : Nat
  src : Nat
  dst : Nat
  party : Party
  /-- The package under whose mappings its address was translated (R118, R357). -/
  pkg : Nat
  booth : Nat
  uid : Nat
  tid : Nat
  /-- Virtual channel (R342). -/
  chan : Nat
  va : Nat
  ga : Nat
  /-- Destination register of a waited-for access. -/
  d : GReg
  posted : Bool
  ack : Bool
  mark : Bool
  /-- Switches passed and switches still to pass. -/
  done : Nat
  left : Nat
  /-- The output queue in which it waits, and the link by which it reached that switch; 0 in the source's injection buffer. -/
  que : Nat
  inp : Nat
  /-- Cycle in which it entered the queue. -/
  since : Nat
  /-- The tail was lost and the message ends with an abort flit (R343). -/
  cut : Bool
  body : Body
  deriving DecidableEq, Repr

/-- A request parked at its home: a full/empty wait (R151) or an aged wait (R156). -/
structure Parked where
  msg : Msg
  since : Nat
  tries : Nat
  deriving DecidableEq, Repr

/-- An arrival-log ring of a booth at a home (R211 to R213, R358). -/
structure Ring where
  base : Nat
  k : Nat
  seq : Nat
  count : Nat
  deriving DecidableEq, Repr

/-! ### The copy engine -/

/-- A command of the copy engine (R225, R226) with what it took from its pusher. -/
structure Cmd where
  fn : Nat
  wa : Word
  wb : Word
  uid : Nat
  key : Nat
  booth : Nat
  it : Nat
  agewait : Nat
  launch : Option Nat
  /-- The pusher's privilege: its page accesses are made with it (R110, R223). -/
  prv : Bool
  /-- The pusher's migrations at the push, and its tenant (R20, R224). -/
  moves : Nat
  tenant : Word
  /-- Of a released command: the accesses of its thread that its release finds not performed, by message number (R15, R235). -/
  before : List Nat
  deriving DecidableEq, Repr

/-- A running command: its requests, the barrier object bound at start, and how it ends. -/
structure Run where
  cmd : Cmd
  /-- The list of GATHER and SCATTER as it stood at the start (R227). -/
  addrs : List Nat
  /-- Chunks whose requests have not been issued, and chunks not yet counted (R230). -/
  todo : List Nat
  chunks : List Nat
  /-- Requests without an answer: message number, byte offset, row of REDUCE, and whether it writes. -/
  wait : List (Nat × Nat × Nat × Bool)
  /-- Words read that the window keeps from their destination: byte offset and value (R344). -/
  vals : List (Nat × Nat)
  /-- Elements of REDUCE that were read: byte offset of the destination, row, value (R228). -/
  got : List (Nat × Nat × Nat)
  obj : Option Nat
  status : Nat
  value : Nat
  /-- The byte offset of the lowest failure: no place at or above it is issued any more (R228). -/
  limit : Nat
  /-- Byte offsets of the accesses performed at their homes in chunks not yet counted (R230). -/
  done : List Nat
  stale : Nat
  staleAge : Nat
  deriving DecidableEq, Repr

/-- A held command, the key of its term's slot, and the cycle in which it was held (R235). -/
structure HeldCmd where
  term : Nat
  stamp : Nat
  cmd : Cmd
  deriving DecidableEq, Repr

/-- A booth's virtual queue in a copy engine (R218, R229, R234, R235). -/
structure VQueue where
  queue : List Cmd
  held : List HeldCmd
  released : List Cmd
  running : List Run
  handles : Vector (Option Nat) 8
  win : PWin
  /-- Bytes that the queue may still start in its turn (R219). -/
  deficit : Nat
  deriving DecidableEq, Repr

/-- A Crier pulse under way to its slot, from the copy engine or the network engine (R231). -/
structure Pulse where
  key : Nat
  booth : Nat
  tenant : Word
  net : Bool
  deriving DecidableEq, Repr

/-! ### The network engine -/

/-- A command of the network engine (R365, R366). -/
structure NCmd where
  fn : Nat
  wa : Word
  wb : Word
  uid : Nat
  key : Nat
  booth : Nat
  launch : Option Nat
  prv : Bool
  moves : Nat
  tenant : Word
  before : List Nat
  deriving DecidableEq, Repr

/-- A peer-table entry (R368). -/
structure Peer where
  addr : Nat
  job : Nat
  pid : Nat
  rsz : Nat
  rcnt : Nat
  rring : Nat
  deriving DecidableEq, Repr

/-- A packet delivery context of an endpoint with one peer (R363, R369, R373): the next sequence number to send, the send
sequence of messages, the sequence numbers received (those below `cum` and those listed), and packets not yet
acknowledged to the sender. -/
structure Pdc where
  psn : Nat
  sendseq : Nat
  cum : Nat
  above : List Nat
  /-- Bytes placed of each message under way: message key and packets still missing. -/
  partials : List (Nat × Nat)
  unacked : Nat
  /-- Cycle in which the first of those not acknowledged was placed. -/
  since : Nat
  /-- The context's own number as a sender, 0 before its first use; the number of the peer's context whose packets it has received; and
  the packets of that one refused, with their reasons (R363, R373). -/
  id : Nat
  peerId : Nat
  refused : List (Nat × Nat)
  deriving DecidableEq, Repr

/-- An open endpoint (R367). -/
structure Endpoint where
  pmtu : Nat
  job : Nat
  pid : Nat
  port : Nat
  mw : Bool
  mr : Bool
  mbase : Nat
  mlen : Nat
  rxc : Bool
  rxctr : Nat
  retry : Nat
  rto : Nat
  peers : List Peer
  pdcs : List (Nat × Pdc)
  /-- The opener's privilege, at which the target's addresses are reached (R110, R372). -/
  prv : Bool
  deriving DecidableEq, Repr

/-- A packet of a running work request (R371, R373). -/
structure NPkt where
  index : Nat
  psn : Nat
  sentAt : Nat
  tries : Nat
  /-- Higher sequence numbers seen received while this one is missing. -/
  passed : Nat
  deriving DecidableEq, Repr

/-- A running work request (R371). -/
structure NRun where
  cmd : NCmd
  op : Nat
  ep : Nat
  peer : Nat
  laddr : Nat
  len : Nat
  roff : Nat
  lc : Bool
  lctr : Nat
  rc : Bool
  rctr : Nat
  n : Nat
  np : Nat
  /-- Number that packets carry back. -/
  rid : Nat
  out : List NPkt
  /-- Read responses still to be performed, and packets of a send or write not yet sent. -/
  missing : Nat
  unsent : Nat
  status : Nat
  value : Nat
  deriving DecidableEq, Repr

/-- What an Ethernet packet carries. -/
inductive EBody where
  /-- Packet i of np, of a message n of len bytes: its place in the message, and for a write or read in the target's region (R371). -/
  | data (op n off pos i np len : Nat) (rc : Bool) (rctr : Nat) (bytes data : Nat)
  | response (i bytes data : Nat)
  /-- The cumulative point, then the numbers received above it; and those among the received that were refused. -/
  | ack (psns refused : List Nat)
  | refused (reason i : Nat)
  deriving DecidableEq, Repr

/-- The delivery services of the transport (R363). -/
inductive Delivery where | rud | rod | rudi | uud
  deriving DecidableEq, Repr

/-- A packet on the Ethernet. -/
structure EPkt where
  src : Nat
  srcAddr : Nat
  srcJob : Nat
  srcPid : Nat
  dst : Nat
  dstJob : Nat
  dstPid : Nat
  psn : Nat
  /-- The sender's packet delivery context, of which an acknowledgement names the one it answers (R363). -/
  ctx : Nat
  service : Delivery
  rid : Nat
  body : EBody
  deriving DecidableEq, Repr

/-- What a transfer of bytes between an engine and memory is for. -/
inductive NUse where
  /-- The peer table of an EPOPEN, with its descriptor's words (R369). -/
  | table (d : List Word)
  /-- The bytes of packet i of a running work request (R371). -/
  | send (rid i psn : Nat) (again : Bool)
  /-- A packet's bytes at the target: written, or read for a response (R372). -/
  | place (p : EPkt)
  | serve (p : EPkt)
  /-- The bytes of a read response at the requester (R371). -/
  | fill (rid i : Nat)
  deriving DecidableEq, Repr

/-- A transfer under way: the accesses without an answer (message number, byte offset and bytes), the writes that the window keeps
back (address, byte offset, bytes and value), the bytes read (byte offset and value), and the first failing byte with its status. -/
structure NJob where
  use : NUse
  cmd : NCmd
  wait : List (Nat × Nat × Nat)
  vals : List (Nat × Nat × Nat × Nat)
  got : List (Nat × Nat)
  fail : Option (Nat × Nat)
  deriving DecidableEq, Repr

/-- A held network command, the key of its term's slot, and the cycle in which it was held (R365). -/
structure NHeld where
  term : Nat
  stamp : Nat
  cmd : NCmd
  deriving DecidableEq, Repr

/-- A booth's virtual queue, endpoints and counters in a network engine (R364). -/
structure NQueue where
  queue : List NCmd
  held : List NHeld
  released : List NCmd
  running : List NRun
  eps : List (Nat × Endpoint)
  ctrs : List (Nat × Nat)
  /-- Increments for received messages on their way to their counters, in order (R372, R374). -/
  due : List Nat
  jobs : List NJob
  win : PWin
  deficit : Nat
  deriving DecidableEq, Repr

/-- A word or an operand unit on a near-mesh link (R264, R265). -/
structure LinkItem where
  key : Nat
  lane : Link
  word : Word
  unit : Option (List Byte)
  deriving DecidableEq, Repr

/-! ### The dispatcher -/

/-- One level of a launch (R26, R291, R293). -/
structure Level where
  count : Nat
  domain : Nat
  scope : Nat
  place : Nat
  parg : Word
  deriving DecidableEq, Repr

/-- An accepted launch (R291 to R296, R309 to R311). -/
structure Launch where
  pkg : Nat
  booth : Nat
  /-- Journal sequence number. -/
  seq : Nat
  levels : List Level
  prio : Nat
  replay : Nat
  rcpt : Bool
  nonce : Word
  entry : Nat
  args : List Word
  idx : Bool
  fds : List Word
  rop : Nat
  rarea : Nat
  slice : Nat
  compl : Nat
  /-- The submitter's privilege (R294): supervisor. -/
  sup : Bool
  deadline : Option Nat
  /-- The packets not committed at the deadline have been counted as skipped. -/
  expired : Bool
  total : Nat
  /-- Every packet below this linear index has started or is skipped. -/
  next : Nat
  /-- Linear indices from `next` on that have started, rising. -/
  ahead : List Nat
  /-- Threads started and not retired. -/
  live : Nat
  ndone : Nat
  nskip : Nat
  nfault : Nat
  first : Option (Nat × Nat × Nat)
  lowit : Option Nat
  spawned : Nat
  /-- Submitted by a thread rather than the host (R330 item 5). -/
  byThread : Bool
  torn : Bool
  /-- The booth's tenant at acceptance: its packets start only in slots of that tenant (R25, R322). -/
  tenant : Word
  /-- Threads of the launch that stopped on a fault, whose posted accesses may still be under way (R296). -/
  strays : List Nat
  deriving DecidableEq, Repr

/-- A channel entry and its queues (R306 to R308). -/
structure Chan where
  bound : Bool
  entry : Nat
  hold : Bool
  ready : Bool
  queue : List (List Word)
  senders : List Msg
  deriving DecidableEq, Repr

/-- A pre-emption under way (R315, R316): the slot and the packet or source that takes it. -/
structure Preempt where
  key : Nat
  packet : Packet
  deriving DecidableEq, Repr

/-- A bank that moved with a resize while its new slot was in use (R332): its bytes, full/empty bits and tags, what else the slot held
for its threads, and the place of the requests that wait on its words. -/
structure Bank where
  data : Nat
  full : Nat
  tags : List Tag
  keep : Slot
  waits : Nat
  deriving DecidableEq, Repr

/-- A saved context in a spill area (R317, R318): its slot, and the cycle in which it was saved. -/
structure Image where
  key : Nat
  stamp : Nat
  /-- Its place among the 64 of the spill area; 64 for a context that found none free. -/
  place : Nat
  saved : Saved
  bank : Option Bank
  deriving DecidableEq, Repr

/-- A receipt (R326): its body's fields, the cores it lists, and whether it has been written. -/
structure Receipt where
  pkg : Nat
  kind : Nat
  booth : Nat
  rseq : Nat
  rclass : Nat
  outT : Word
  inT : Word
  nonce : Word
  time : Nat
  groups : Nat
  cores : List Nat
  nbank : Nat
  nslot : Nat
  nacc : Nat
  ntag : Nat
  nxlt : Nat
  nblk : Nat
  written : Bool
  /-- The signed receipt, once written (R326). -/
  bytes : List Byte
  deriving DecidableEq, Repr

/-- How far a slot or store of a handover has come (R319). -/
inductive HPhase where | todo | saved | scrubbed | loaded
  deriving DecidableEq, Repr

/-- A tenant handover (R319 to R324). -/
structure Handover where
  pkg : Nat
  booth : Nat
  seq : Nat
  outT : Word
  inT : Word
  nonce : Word
  saveOut : Nat
  saveIn : Nat
  groups : Nat
  cores : List Nat
  inKey : Nat
  outKey : Nat
  /-- Slot keys to hand over, in order, with their phases. -/
  slots : List (Nat × HPhase)
  /-- Stores to hand over: cid * 4 + group. -/
  stores : List (Nat × HPhase)
  /-- Released pages: first global address and bytes, none for a near window. -/
  pages : List (Nat × Nat)
  cleared : Bool
  nblk : Nat
  nxlt : Nat
  /-- Dies whose network engine was cleared under class 9. -/
  nets : List Nat
  /-- The booth's region spans several dies, so the handover goes by gang ticks (R323). -/
  gang : Bool
  /-- Cycle of the gang tick that came last, or of the command. -/
  last : Nat
  /-- Cycle of the save deadline after a gang tick. -/
  tick : Option Nat
  misses : Nat
  /-- Every die met the save deadline: SCRUB and LOAD go on slot by slot. -/
  agreed : Bool
  /-- Context places taken in each record of the outgoing save area. -/
  places : List (Nat × Nat)
  receipt : Bool
  deriving DecidableEq, Repr

/-! ### The host and the platform -/

/-- A journal entry (R392). `cmd` is the command entry, kept for replay. -/
structure JEntry where
  seq : Nat
  state : Nat
  booth : Nat
  kind : Nat
  origin : Nat
  rpl : Nat
  tag : Word
  time : Nat
  digest : List Word
  cmd : List Word
  /-- The entry of the launch whose thread submitted the entry's launch, as package * 2^64 + number; 0 for none (R328). -/
  parent : Nat
  /-- The entry becomes a replay fence: a FENCE, a resize, or a launch with REPLAY = 1 (R328). -/
  fence : Bool
  deriving DecidableEq, Repr

/-- A command window (R353). -/
structure Window where
  head : Nat
  tail : Nat
  ovf : Bool
  entries : List (Nat × List Word)
  deriving DecidableEq, Repr

/-- The region of a booth on a package (R356). -/
structure Region where
  tenant : Word
  groups : Nat
  key : Nat
  cores : List Nat
  deriving DecidableEq, Repr

/-- Gang values in force, and those that wait for the first tick after their command completed in a cycle (R323, R359). -/
structure Gang where
  gtick : Nat
  gdl : Nat
  next : Option (Nat × Nat × Nat)
  deriving DecidableEq, Repr

/-- What holds for a booth on a package as a whole (R328 to R333). -/
structure BoothPkg where
  frozen : Bool
  /-- A reset to be run, with its cause and whether a handover is folded in. -/
  reset : Bool
  exhausted : Bool
  /-- Journal sequence number of the last replay fence. -/
  lastFence : Nat
  /-- Sequence numbers still to be replayed, in order. -/
  toReplay : List Nat
  /-- Blocks that an uncorrectable error destroyed, to be zeroed and listed at the reset (R330). -/
  lost : List Nat
  /-- A region change that waits for a replay fence: its journal number and descriptor (R356). -/
  resize : Option (Nat × Region)
  /-- A teardown under way, by its journal number (R333). -/
  tearing : Option Nat
  deriving DecidableEq, Repr

/-- An Ebtar port (R348 to R351). -/
structure PortStatus where
  retrain : Nat
  crcerr : Nat
  lanes : Nat
  spare : Bool
  state : Nat
  /-- A lane failure pauses the link until it has retrained. -/
  paused : Bool
  deriving DecidableEq, Repr

/-- A switch whose up-ports or route table are not as at reset: the up-ports lost, the route-table entries once fixed or reassigned,
and the entries that wait for a drain report (R340, R349, R351). -/
structure SwitchSt where
  dead : List Nat
  routes : List (Nat × Nat)
  draining : List Nat
  deriving DecidableEq, Repr

/-- An SPDM session's progress (R386). -/
structure Spdm where
  version : Bool
  caps : Bool
  algs : Bool
  keyed : Bool
  secured : Bool
  deriving DecidableEq, Repr

/-- The Colxo controller's last answer (R386 to R390): none yet, a refusal, the versions (major, minor) or the algorithms that it
supports, or the bytes that it returned. -/
inductive Reply where
  | none
  | refused
  | versions (l : List (Nat × Nat))
  | algorithms (l : List SpdmAlg)
  | bytes (l : List Byte)
  deriving DecidableEq, Repr

/-- The power rails (R397). -/
inductive Rail where | aux | sdh | drc | srm | core | drq | sdl
  deriving DecidableEq, Repr

/-- The order in which the rails come up; they go down in the reverse order (R397). -/
def railOrder : List Rail := [.aux, .sdh, .drc, .srm, .core, .drq, .sdl]

/-- A logical unit that a spare may stand for (R395): a core, the row of a home bank in which a block lies, a lane of an Ebtar port. -/
inductive RepairUnit where
  | core (cid : Nat)
  | row (block : Nat)
  | lane (pkg port lane : Nat)
  deriving DecidableEq, Repr

/-- A package's platform state (R353, R383 to R397). -/
structure Pkg where
  /-- The rails that are up, in the order in which they came up. -/
  rails : List Rail
  stage : Nat
  err : Nat
  tries : Nat
  /-- Boot requests sent, and the cycle of the last one (R383). -/
  bootReq : Nat
  bootAt : Nat
  svn : Nat
  bootid : Word
  jseq : Nat
  journal : List (Nat × JEntry)
  /-- Device events that wait for a free place of the ring, oldest first (R393). -/
  late : List JEntry
  rseq : Nat
  keys : List (Nat × (Word × Nat))
  spdm : Spdm
  reply : Reply
  /-- The image received, header and body (R384). -/
  image : List Byte
  /-- VERSION and ENTRY of the running image's header (R384). -/
  version : Nat
  entry : Nat
  windows : List (Nat × Window)
  owners : List (Nat × (Word × Word))
  irqCount : Nat
  ports : List (Nat × PortStatus)
  /-- Levels learned at link training: node address and the level of the lowest common switch (R400). -/
  levels : List (Nat × Nat)
  deriving DecidableEq, Repr

/-! ### The word being executed -/

/-- The bundle context of the word that `exec` runs: addresses, the registers as they stood before either word wrote
(R65 item 1), and what the word did. -/
inductive WordEnd where
  | done
  | parked
  | trapped (cause : Nat) (tval : Word)
  | again (w : Why)
  | fenced
  /-- The thread left the slot. -/
  | gone
  deriving DecidableEq, Repr

structure Bun where
  pc : Nat
  size : Nat
  cw : Nat
  aw : Nat
  isA : Bool
  /-- The C word parked, so an A word's result is held. -/
  hold : Bool
  g : Vector Word 16
  v : Vector (Vector Half 16) 8
  k : Vector (BitVec 16) 4
  /-- The stream bindings that the words' source fields pop from: those at the bundle's issue (R65 item 1). -/
  src : Vector (Option Stream) 4
  /-- Elements popped at an earlier issue of the bundle, which its source fields read before any other (R65 item 1). -/
  given : List (GReg × Word)
  fin : WordEnd
  deriving DecidableEq, Repr

/-- What happens next: a slot issues, or an event takes place. -/
inductive Choice where
  | issue (key : Nat)
  | event (i : Instr)
  /-- The cycle ends. -/
  | tick
  deriving DecidableEq, Repr

/-- A page walk under way (R118). -/
structure Walk where
  cluster : Nat
  booth : Nat
  /-- First address of the page. -/
  va : Nat
  deriving DecidableEq, Repr

/-- The state of the device. -/
structure State where
  mem : Memory
  threads : List (Nat × Thread)
  slots : List (Nat × Slot)
  cores : List (Nat × Core)
  /-- Booth-owned registers: cid * 64 + booth. -/
  booths : List (Nat × BoothCore)
  /-- Page mappings: package * 64 + booth. -/
  maps : List (Nat × List Page)
  /-- Second-level translation buffers by cluster (cid / 16). -/
  l2 : List (Nat × List (Nat × Page))
  walks : List Walk
  /-- Messages in flight; those of one output queue stand in their order of arrival there. -/
  net : List Msg
  /-- Switches by number (`switchNo`). -/
  switches : List (Nat × SwitchSt)
  /-- Flits that the buffer of a switch input holds, and an output queue of a channel: fixed by the installation (R342, R345). -/
  bufFlits : Nat
  queueFlits : Nat
  /-- Full/empty wait lists, in order of arrival (R151). -/
  feWait : List Parked
  /-- Parked aged requests, in order of arrival (R156). -/
  agedWait : List Parked
  /-- Stop lists: home * 64 + booth, most recent first (R157). -/
  stops : List (Nat × List Nat)
  /-- Arrival logs: home * 64 + booth. -/
  rings : List (Nat × Ring)
  /-- Range-watch tables: package * 1024 + booth * 16 + entry (R211). -/
  watch : List (Nat × (Word × Word))
  /-- Ordered posted accesses performed and not yet credited: dst * 2^32 + src * 64 + booth keyed counts and marks, and the cycle of
  the first. -/
  uncredited : List (Nat × (Nat × Bool × Nat))
  /-- Virtual queues of the copy engines: engine * 64 + booth. -/
  vqs : List (Nat × VQueue)
  /-- The booth whose turn it is in the arbiter of each copy engine and of each network engine (R219, R364). -/
  turns : List (Nat × Nat)
  nturns : List (Nat × Nat)
  pulses : List Pulse
  /-- Virtual queues of the network engines: (package * 4 + die) * 64 + booth. -/
  nqs : List (Nat × NQueue)
  ether : List EPkt
  /-- The Ethernet ports' addresses, by engine * 4 + port: fixed by the installation. -/
  etherAddrs : List (Nat × Nat)
  /-- Ethernet ports lost: engine * 4 + port (R378). -/
  etherLost : List Nat
  nextRid : Nat
  linkNet : List LinkItem
  /-- Near-mesh stitching of each booth's launches: core and its partners n, e, s, w (R263). -/
  stitch : List (Nat × List (Option Nat))
  /-- Bytes of CXL memory installed: package * 16 + port, fixed by the installation. -/
  cxl : List (Nat × Nat)
  /-- Atomic operations that a home of another revision lacks, as home * 64 + operation (`lackNo`): fixed by the installation (R164). -/
  lacking : List Nat
  launches : List (Nat × Launch)
  nextLaunch : Nat
  /-- Spawned packets, by order of arrival (R301). -/
  spawnQ : List Packet
  /-- Channel tables: (cid * 64 + booth) * 32 + channel. -/
  chans : List (Nat × Chan)
  preempts : List Preempt
  /-- Spill areas: cid * 64 + booth, in the order saved. -/
  images : List (Nat × List Image)
  /-- First global address of each spill area: cid * 64 + booth (R318, R356). -/
  spillAreas : List (Nat × Nat)
  receipts : List Receipt
  handovers : List (Nat × Handover)
  /-- Contexts in save areas, by package * 2^48 + virtual address of their image in booth 0's space (R321). -/
  areas : List (Nat × Saved)
  /-- The key slot under which each slot record, context place and store of a save area is encrypted (R319, R389). -/
  areaKeys : List (Nat × Nat)
  /-- For each of those contexts, the addresses of the slot records that hold its core's banks, by slot number; 0 for a bank that was
  not saved (R321). -/
  areaBanks : List (Nat × List Nat)
  /-- What a save area's layout has no room for: opb, lanes and Crier state of each saved slot, by package * 2^48 + address of its slot
  record (R110). -/
  areaSlots : List (Nat × Slot)
  nextHandover : Nat
  pkgs : List (Nat × Pkg)
  /-- Regions: package * 64 + booth. -/
  regions : List (Nat × Region)
  boothPkgs : List (Nat × BoothPkg)
  gangs : List (Nat × Gang)
  /-- Adapters and the booths they may reach: adapter * 64 + booth (R352). -/
  grants : List Nat
  /-- Interrupt messages in the hosts' memories: host adapter * 2^64 + address (R361). -/
  hostRing : List (Nat × List Word)
  /-- First global address of the reserved DRAM that takes a package's image: fixed by the installation (R383). -/
  bootAreas : List (Nat × Nat)
  /-- The repair map: the spare that stands for each unit repaired (R395). -/
  repairs : List (RepairUnit × Nat)
  /-- The manufacturing map, and the units that have failed since, oldest first: what a power-up finds (R395). -/
  mfg : List (RepairUnit × Nat)
  defects : List RepairUnit
  /-- Spare cores used, by engine (R395); spare rows used, by home core. -/
  sparesUsed : List (Nat × Nat)
  rowsUsed : List (Nat × Nat)
  cur : Nat
  bun : Bun
  agenda : List Choice
  cycle : Nat
  nextUid : Nat
  nextMid : Nat
  /-- Draws of undefined values so far, by booth and tenant (booth * 2^64 + tenant): the model's own field (Config.freeWord). -/
  fresh : List (Nat × Nat)
  deriving DecidableEq, Repr

/-! ### Values at reset -/

def Memory.empty : Memory := ⟨[], [], [], []⟩
def Sampled.zero : Sampled := ⟨0, 0, 0, 0, 0, 0, false, 0, false, 0, 0⟩
/-- Every slot-owned register reads zero after a scrub (R103, R325). -/
def SlotRegs.zero : SlotRegs :=
  ⟨0, 0, 0, 0, false, 0, Vector.replicate 8 (Vector.replicate 16 0), Vector.replicate 4 0, Vector.replicate 4 none,
    0, 0, 0, Sampled.zero⟩
def Ctx.zero : Ctx := ⟨Vector.replicate 16 0, 0, 0, 0, 0, false, false, false, 0, 0, 0⟩
def Slot.init : Slot :=
  ⟨.free, none, SlotRegs.zero, .empty, 0, 0, 0, Vector.replicate 4 [], [], false⟩
def Core.init : Core := ⟨Vector.replicate 4 none, false, [], [], [], none, 0, [], [], [], [], []⟩
/-- The reset values of R104 and R345. -/
def PWin.init : PWin := ⟨64, 0, 0, 0⟩
def BoothCore.init : BoothCore := ⟨0, 64, 1048576, 4194304, 65536, PWin.init, 0⟩
def VQueue.init : VQueue := ⟨[], [], [], [], Vector.replicate 8 none, PWin.init, 0⟩
def NQueue.init : NQueue := ⟨[], [], [], [], [], [], [], [], PWin.init, 0⟩
def Pdc.init : Pdc := ⟨0, 0, 0, [], [], 0, 0, 0, 0, []⟩
def Chan.init : Chan := ⟨false, 0, false, false, [], []⟩
def Window.init : Window := ⟨0, 0, false, []⟩
def Gang.init : Gang := ⟨65536, 16384, none⟩
def BoothPkg.init : BoothPkg := ⟨false, false, false, 0, [], [], none, none⟩
def PortStatus.init : PortStatus := ⟨0, 0, 0, false, 0, false⟩
def Spdm.init : Spdm := ⟨false, false, false, false, false⟩
/-- A package before power-up: no rail is up, no image runs. -/
def Pkg.init : Pkg := ⟨[], 0, 0, 0, 0, 0, 0, 0, 1, [], [], 0, [], Spdm.init, .none, [], 0, 0, [], [], 0, [], []⟩
def SwitchSt.init : SwitchSt := ⟨[], [], []⟩
def Job.none : Job := ⟨Option.none, 0, 3, Option.none, 0, 0⟩
def Issued.zero : Issued := ⟨0, 0, 0, 0, Vector.replicate 4 none⟩
def Thread.init (booth key : Nat) : Thread :=
  ⟨Ctx.zero, booth, key, .slot, Job.none, .idle, [], false, 0, 0, [], none, Issued.zero, 0, [], [], none, [], [], 0, 0, none, 0, 0,
    false, 0, 0, []⟩
def Bun.init : Bun :=
  ⟨0, 4, 0, 0, false, false, Vector.replicate 16 0, Vector.replicate 8 (Vector.replicate 16 0), Vector.replicate 4 0, Vector.replicate 4 none, [], .done⟩

/-- The fabric at reset: every package before its power-up. -/
def State.reset : State where
  mem := Memory.empty
  threads := []
  slots := []
  cores := []
  booths := []
  maps := []
  l2 := []
  walks := []
  net := []
  switches := []
  bufFlits := 170
  queueFlits := 68
  feWait := []
  agedWait := []
  stops := []
  rings := []
  watch := []
  uncredited := []
  vqs := []
  turns := []
  nturns := []
  pulses := []
  nqs := []
  ether := []
  etherAddrs := []
  etherLost := []
  nextRid := 0
  linkNet := []
  stitch := []
  cxl := []
  lacking := []
  launches := []
  nextLaunch := 1
  spawnQ := []
  chans := []
  preempts := []
  images := []
  spillAreas := []
  receipts := []
  handovers := []
  areas := []
  areaKeys := []
  areaBanks := []
  areaSlots := []
  nextHandover := 0
  pkgs := []
  regions := []
  boothPkgs := []
  gangs := []
  grants := []
  hostRing := []
  bootAreas := []
  repairs := []
  mfg := []
  defects := []
  sparesUsed := []
  rowsUsed := []
  cur := 0
  bun := Bun.init
  agenda := []
  cycle := 0
  nextUid := 0
  nextMid := 0
  fresh := []

end Sys2Proof.Machine
end

