-- ==== Sys2Proof/Machine/Mem.lean ====
section
/-! DEFINITION. Memory: bytes, full/empty bits, blocks, keys, global addresses and the shape of the fabric (R3, R8, R9, R11,
R43, R140, R144, R357). -/

namespace Sys2Proof.Machine
open Bits Tables

/-! ### Cores and their numbers (R8, R9, R11) -/

def cidOf (key : Nat) : Nat := key / 16
def slotOf (key : Nat) : Nat := key % 16
def groupOf (key : Nat) : Nat := key % 16 / 4
def isEdge (cid : Nat) : Bool := fld cid 25 25 == 1
def pkgOf (cid : Nat) : Nat := fld cid 24 13
def dieOf (cid : Nat) : Nat := fld cid 12 11
def cluOf (cid : Nat) : Nat := fld cid 10 4
def coreOf (cid : Nat) : Nat := fld cid 3 0
/-- The cluster or edge group of a core, which names its copy engine (R218). -/
def engOf (cid : Nat) : Nat := cid / 16
/-- Whether a number names a core of the fabric: an edge core has one of four groups (R9, R11). -/
def isCore (cid : Nat) : Bool := cid < 2 ^ 26 && (!isEdge cid || cluOf cid < 4)
def mkCid (edge : Bool) (pkg die clu core : Nat) : Nat :=
  b2n edge * 2 ^ 25 + pkg * 2 ^ 13 + die * 2 ^ 11 + clu * 2 ^ 4 + core
/-- The thread identifier of the thread in a slot (R11). -/
def tidOf (key : Nat) : Nat := 2 ^ 31 + key
/-- The TBM bit of a home core (R146). -/
def tbmBit (cid : Nat) : Nat := if isEdge cid then cluOf cid else cluOf cid % 64
/-- The quadrant of a compute core's cluster (R8). -/
def quadOf (cid : Nat) : Nat := 4 * (cluOf cid / 16 / 4) + cluOf cid % 16 / 4
/-- Grid coordinates of a compute core (R8). -/
def gridX (cid : Nat) : Nat := 4 * (cluOf cid % 16) + coreOf cid % 4
def gridY (cid : Nat) : Nat := 4 * (cluOf cid / 16) + coreOf cid / 4
/-- The compute core at a grid place (R8). -/
def coreAt (pkg die x y : Nat) : Nat := mkCid false pkg die (16 * (y / 4) + x / 4) (4 * (y % 4) + x % 4)

/-! ### Addresses -/

/-- First address of the local window (R140). -/
def winBase : Nat := 0xFFFFFFFE0000
def isWin (va : Nat) : Bool := winBase ≤ va
/-- Global address of a byte of a core's scratchpad. -/
def spad (cid off : Nat) : Nat := 2 ^ 64 + cid * 2 ^ 17 + off
/-- Global address of a byte of a package's DRAM or CXL memory (R357). -/
def phys (pkg pa : Nat) : Nat := pkg * 2 ^ 52 + pa
/-- Home core of a physical address of bonded DRAM (R357). -/
def dramHome (pkg pa : Nat) : Nat := mkCid false pkg (fld pa 36 35) (fld pa 34 28) (fld pa 27 24)
/-- Home core of CXL memory: core 0 of the port's edge group (R9, R357). -/
def cxlHome (pkg pa : Nat) : Nat := mkCid true pkg (fld pa 46 45) (fld pa 44 43) 0
/-- First physical address of a core's own DRAM bank; an edge core uses the bank that R356 names. -/
def bankPhys (cid : Nat) : Nat := dieOf cid * 2 ^ 35 + (16 * cluOf cid + coreOf cid) * 2 ^ 24
def pageBytes (size : Nat) : Nat := if size = 0 then 65536 else if size = 1 then 2097152 else 1073741824

/-! ### Bytes -/

def Memory.byte (m : Memory) (a : Nat) : Byte := getD m.bytes a 0
def Memory.setByte (m : Memory) (a : Nat) (b : Byte) : Memory := { m with bytes := putD m.bytes a b 0 }

/-- The n bytes from an address, as a number, lowest first (R3). -/
def Memory.read (m : Memory) : Nat → Nat → Nat
  | _, 0 => 0
  | a, n + 1 => (m.byte a).toNat + 256 * m.read (a + 1) n

/-- Writes the low n bytes of a number, lowest first (R3). -/
def Memory.write (m : Memory) : Nat → Nat → Nat → Memory
  | _, 0, _ => m
  | a, n + 1, v => (m.setByte a (BitVec.ofNat 8 v)).write (a + 1) n (v / 256)

def Memory.word (m : Memory) (a : Nat) : Word := BitVec.ofNat 64 (m.read a 8)

/-! ### Full/empty bits and blocks -/

/-- Whether the 64-bit word that holds an address is full (R144). -/
def Memory.isFull (m : Memory) (a : Nat) : Bool := m.full.contains (a - a % 8)
def Memory.setFull (m : Memory) (a : Nat) (f : Bool) : Memory :=
  { m with full := if f then insert m.full (a - a % 8) else remove m.full (a - a % 8) }

/-- The full/empty bits of the n words from an address, as a number. -/
def Memory.fulls (m : Memory) : Nat → Nat → Nat
  | _, 0 => 0
  | a, n + 1 => b2n (m.isFull a) + 2 * m.fulls (a + 8) n

def Memory.setFulls (m : Memory) : Nat → Nat → Nat → Memory
  | _, 0, _ => m
  | a, n + 1, v => (m.setFull a (v % 2 == 1)).setFulls (a + 8) n (v / 2)

def Memory.block (m : Memory) (a : Nat) : Block := getD m.blocks (a - a % 512) ⟨0, 0⟩
def Memory.setBlock (m : Memory) (a : Nat) (b : Block) : Memory :=
  { m with blocks := putD m.blocks (a - a % 512) b ⟨0, 0⟩ }

/-- Clears n bytes, their full/empty bits, block records and keys: a scrub or a released page (R324, R325). -/
def Memory.clear (m : Memory) (a n : Nat) : Memory :=
  let out {α : Type} (l : List (Nat × α)) : List (Nat × α) := l.filter (fun c => c.1 < a || a + n ≤ c.1)
  { bytes := out m.bytes
    full := m.full.filter (fun c => c < a || a + n ≤ c)
    blocks := out m.blocks
    keys := out m.keys }

/-! ### Keys (R388, R389) -/

/-- A key pair by its number: an odd one is a loaded key, an even one management's of a package. -/
def keyValue (k : Nat) : Nat := if k % 2 = 0 then Config.managementKey (k / 2) else k / 2

/-- What a block enciphered under one key reads as under another; the tweak is physical address bits [51:9] (R388). -/
def recipher (blk old new v : Nat) : Nat :=
  let t := blk % 2 ^ 52 / 512
  xtsDecrypt (keyValue new) t (xtsEncrypt (keyValue old) t v)

/-- Memory as its port sees the block of an address under a key; a write leaves the block under that key. Scratchpads stand under
none. -/
def Memory.under (m : Memory) (ga key : Nat) (wr : Bool) : Memory :=
  let blk := ga - ga % 512
  if 2 ^ 64 ≤ ga then m
  else
    match find m.keys blk with
    | none => if wr then { m with keys := put m.keys blk key } else m
    | some k =>
      if k = key then m
      else { m with keys := put m.keys blk key }.write blk 512 (recipher blk k key (m.read blk 512))

/-- The same for n blocks from an address. -/
def Memory.underAll (m : Memory) (ga key : Nat) (wr : Bool) : Nat → Memory
  | 0 => m
  | n + 1 => (m.under ga key wr).underAll (ga + 512) key wr n

/-- The blocks that n bytes from an address touch. -/
def blocksOf (ga n : Nat) : Nat := (ga % 512 + n + 511) / 512

/-- The canonical form: rising keys, and nothing listed that an unlisted address reads as. -/
def Memory.wf (m : Memory) : Bool :=
  rising m.bytes && m.bytes.all (fun c => c.2 != 0) && risingSet m.full &&
  rising m.blocks && m.blocks.all (fun c => c.2 != ⟨0, 0⟩) && rising m.keys

end Sys2Proof.Machine
end

