-- ==== Sys2Proof/Machine/Access.lean ====
section
/-! DEFINITION. Accessors: the parts of the state by key, the current thread, and updates of one part. -/

namespace Sys2Proof.Machine
open Bits Tables

def State.slot (s : State) (key : Nat) : Slot := getD s.slots key Slot.init
def State.setSlot (s : State) (key : Nat) (x : Slot) : State := { s with slots := put s.slots key x }
def State.core (s : State) (cid : Nat) : Core := getD s.cores cid Core.init
def State.setCore (s : State) (cid : Nat) (x : Core) : State := { s with cores := put s.cores cid x }
def State.bc (s : State) (cid booth : Nat) : BoothCore := getD s.booths (cid * 64 + booth) BoothCore.init
def State.setBc (s : State) (cid booth : Nat) (x : BoothCore) : State :=
  { s with booths := put s.booths (cid * 64 + booth) x }
def State.thread (s : State) (uid : Nat) : Option Thread := find s.threads uid
def State.setThread (s : State) (uid : Nat) (t : Thread) : State := { s with threads := put s.threads uid t }
def State.vq (s : State) (eng booth : Nat) : VQueue := getD s.vqs (eng * 64 + booth) VQueue.init
def State.setVq (s : State) (eng booth : Nat) (q : VQueue) : State := { s with vqs := put s.vqs (eng * 64 + booth) q }
def State.chan (s : State) (cid booth n : Nat) : Chan := getD s.chans ((cid * 64 + booth) * 32 + n) Chan.init
def State.setChan (s : State) (cid booth n : Nat) (c : Chan) : State :=
  { s with chans := put s.chans ((cid * 64 + booth) * 32 + n) c }
def State.pkg (s : State) (p : Nat) : Pkg := getD s.pkgs p Pkg.init
def State.setPkg (s : State) (p : Nat) (x : Pkg) : State := { s with pkgs := put s.pkgs p x }
def State.boothPkg (s : State) (p b : Nat) : BoothPkg := getD s.boothPkgs (p * 64 + b) BoothPkg.init
def State.setBoothPkg (s : State) (p b : Nat) (x : BoothPkg) : State :=
  { s with boothPkgs := put s.boothPkgs (p * 64 + b) x }
/-- Every rail of a package is up (R397). -/
def State.powered (s : State) (p : Nat) : Bool := (s.pkg p).rails == railOrder
def State.pagesOf (s : State) (p b : Nat) : List Page := getD s.maps (p * 64 + b) []
def Page.holds (p : Page) (va : Nat) : Bool := p.va ≤ va && va < p.va + p.size
def State.pageFor (s : State) (p b va : Nat) : Option Page := (s.pagesOf p b).find? (fun x => x.holds va)
def State.region (s : State) (p b : Nat) : Option Region := find s.regions (p * 64 + b)

/-- The cores of a booth's region, on every package (R23). -/
def State.regionCores (s : State) (booth : Nat) : List Nat :=
  s.regions.flatMap (fun e => if e.1 % 64 = booth then e.2.cores else [])
def State.inRegion (s : State) (booth cid : Nat) : Bool := (s.regionCores booth).contains cid

/-- Whether a booth owns a slot group of a core (R23). -/
def State.ownsGroup (s : State) (cid booth g : Nat) : Bool := (s.core cid).owners.toList[g]? == some (some booth)
/-- Whether a booth owns the scratchpad bank that holds a window offset (R23, R140). -/
def State.ownsOff (s : State) (cid booth off : Nat) : Bool := s.ownsGroup cid booth (off / 32768)

/-- The thread in the current slot, with its number. -/
def State.me (s : State) : Option (Nat × Thread) :=
  match (s.slot s.cur).run with
  | none => none
  | some u => (s.thread u).map (fun t => (u, t))
def State.uid (s : State) : Nat := ((s.slot s.cur).run).getD 0
def State.th (s : State) : Thread := (s.thread s.uid).getD (Thread.init 0 0)
def State.cid (s : State) : Nat := cidOf s.cur
def State.booth (s : State) : Nat := s.th.booth
def State.modThread (s : State) (uid : Nat) (f : Thread → Thread) : State :=
  match s.thread uid with
  | none => s
  | some t => s.setThread uid (f t)
def State.modMe (s : State) (f : Thread → Thread) : State := s.modThread s.uid f
def State.modCtx (s : State) (f : Ctx → Ctx) : State := s.modMe (fun t => { t with ctx := f t.ctx })
def State.regs (s : State) : SlotRegs := (s.slot s.cur).regs
def State.modRegs (s : State) (f : SlotRegs → SlotRegs) : State :=
  let x := s.slot s.cur
  s.setSlot s.cur { x with regs := f x.regs }
def State.modMem (s : State) (f : Memory → Memory) : State := { s with mem := f s.mem }
def State.switch (s : State) (sw : Nat) : SwitchSt := getD s.switches sw SwitchSt.init
def State.setSwitch (s : State) (sw : Nat) (x : SwitchSt) : State := { s with switches := put s.switches sw x }
def State.port (s : State) (p port : Nat) : PortStatus := getD (s.pkg p).ports port PortStatus.init
def State.setPort (s : State) (p port : Nat) (x : PortStatus) : State :=
  s.setPkg p { s.pkg p with ports := put (s.pkg p).ports port x }

end Sys2Proof.Machine
end

