-- ==== Sys2Proof/Machine/Routes.lean ====
section
/-! DEFINITION. The tree of the fabric: nodes, switches, links, the route between two nodes, and the up-ports and route tables of the
switches (R339, R340, R349, R351, R352, R400). -/

namespace Sys2Proof.Machine
open Bits Tables

/-! ### Nodes -/

/-- The node of a package's dispatcher and management, at its package switch. DESIGN CHOICE (log entry 60): R339 gives it no port. -/
def pkgNode (p : Nat) : Nat := 2 ^ 32 + p
/-- The node of a host adapter (R352). -/
def hostNode (a : Nat) : Nat := 2 ^ 33 + a
/-- The node address of R352: the package of a node, or 4096 and the adapter's number. -/
def nodeAddr (n : Nat) : Nat := if n < 2 ^ 32 then pkgOf n else if n < 2 ^ 33 then n - 2 ^ 32 else 4096 + (n - 2 ^ 33)
/-- The route-table entry of a destination: its identifier bits [29:4], or a host's node number, modulo 64 (R340). -/
def tableIndex (n : Nat) : Nat := (if n < 2 ^ 32 then n else nodeAddr n) % 64

/-! ### Switches and links -/

/-- Switches are numbered by level and place. -/
def switchNo (level place : Nat) : Nat := level * 2 ^ 48 + place
def levelNo (sw : Nat) : Nat := sw / 2 ^ 48
def placeNo (sw : Nat) : Nat := sw % 2 ^ 48

/-- Output queues, and the links that they feed, are numbered by switch and port: an up-port by its number, the way down to a switch
by its place, the way to a node by its number there. -/
def queueNo (sw port : Nat) : Nat := sw * 2 ^ 20 + port
def queueSwitch (q : Nat) : Nat := q / 2 ^ 20
def queuePort (q : Nat) : Nat := q % 2 ^ 20
def isUp (q : Nat) : Bool := queuePort q < 64
def downPort (sw : Nat) : Nat := 64 + placeNo sw % 2 ^ 16
/-- The package of a switch; of one above the packages, the lowest below it. -/
def switchPkg (sw : Nat) : Nat :=
  match levelNo sw with
  | 0 => pkgOf (placeNo sw * 16)
  | 1 => placeNo sw / 32
  | 2 => placeNo sw / 4
  | _ => placeNo sw
/-- A node's port; the copy engine, the network engine and the CXL bridge of a switch have their own, units 1 to 3 (R339). -/
def nodePort (n : Nat) (unit : Nat) : Nat := (unit + 1) * 2 ^ 17 + n % 2 ^ 17

/-- The switch of a level from 4 on above a package: packages that share it have the same lowest member (R400). -/
def State.upperSwitch (s : State) (level p : Nat) : Nat :=
  switchNo level ((s.pkg p).levels.foldl (fun m e => if e.2 ≤ level && e.1 < 4096 then min m e.1 else m) p)

/-- The switch that a switch's up-ports lead to (R339, R400). -/
def State.parent (s : State) (sw : Nat) : Nat :=
  let n := placeNo sw
  match levelNo sw with
  | 0 => if isEdge (n * 16) then switchNo 2 (pkgOf (n * 16) * 4 + dieOf (n * 16))
    else switchNo 1 (pkgOf (n * 16) * 32 + dieOf (n * 16) * 8 + quadOf (n * 16))
  | 1 => switchNo 2 (n / 8)
  | 2 => switchNo 3 (n / 4)
  | l => s.upperSwitch (l + 1) n

/-- The level of the lowest switch whose subtree holds two node addresses, as the packages learned it; 4 until they have (R400). -/
def State.levelOf (s : State) (a b : Nat) : Nat :=
  if a = b then 3 else if a < 4096 then getD (s.pkg a).levels b 4 else if b < 4096 then getD (s.pkg b).levels a 4 else 4

/-- The package nearest to a host adapter, which hangs at the lowest switch above both, and that switch's level. -/
def State.gate (s : State) (addr : Nat) : Nat × Nat :=
  (s.pkgs.foldl (fun (b : Option (Nat × Nat)) e =>
    match find e.2.levels addr, b with
    | none, _ => b
    | some l, none => some (e.1, l)
    | some l, some x => if l < x.2 then some (e.1, l) else b) none).getD (0, 4)

/-- The switches from a node upwards to a level. -/
def State.chain (s : State) (n top : Nat) : List Nat :=
  if n < 2 ^ 32 then
    [switchNo 0 (engOf n)] ++ (if isEdge n then [] else [switchNo 1 (pkgOf n * 32 + dieOf n * 8 + quadOf n)]) ++
      [switchNo 2 (pkgOf n * 4 + dieOf n), switchNo 3 (pkgOf n)] ++ (List.range (top - 3)).map (fun i => s.upperSwitch (4 + i) (pkgOf n))
  else if n < 2 ^ 33 then
    [switchNo 3 (nodeAddr n)] ++ (List.range (top - 3)).map (fun i => s.upperSwitch (4 + i) (nodeAddr n))
  else
    let g := s.gate (nodeAddr n)
    (List.range (top + 1 - g.2)).map (fun i => s.upperSwitch (g.2 + i) g.1)

/-- The switches that a message passes: up to the lowest common one, then down (R340). Where the node addresses differ, the top switch
is the common one. -/
def State.route (s : State) (a b : Nat) : List Nat :=
  let top := s.levelOf (nodeAddr a) (nodeAddr b)
  let x := s.chain a top
  let y := s.chain b top
  if 4 ≤ top then x ++ (y.dropLast).reverse
  else x.takeWhile (fun w => !y.contains w) ++ (x.find? y.contains).toList ++ (y.takeWhile (fun w => !x.contains w)).reverse

/-- The number of switches that the route of R340 passes (R35, R339, R400). -/
def State.hops (s : State) (a b : Nat) : Nat := (s.route a b).length

/-! ### Up-ports and route tables (R339, R340, R349, R351) -/

/-- Up, degraded, or pausing to retrain: the ports that stay in service (R348, R349). -/
def PortStatus.live (p : PortStatus) : Bool := p.state == 2 || p.state == 3 || p.paused

/-- The live up-ports of a switch. DESIGN CHOICE (log entry 60): a switch above the packages has one. -/
def State.upPorts (s : State) (sw : Nat) : List Nat :=
  let left (n : Nat) : List Nat := (List.range n).filter (fun p => !(s.switch sw).dead.contains p)
  match levelNo sw with
  | 0 => left 2
  | 1 => left 4
  | 2 => left 8
  | 3 => (((s.pkg (placeNo sw)).ports).filter (fun e => e.2.live)).map Prod.fst
  | _ => left 1

/-- Whether an up-port carries traffic now: an Ebtar port that retrains pauses (R348). -/
def State.carries (s : State) (sw port : Nat) : Bool := levelNo sw != 3 || !(s.port (placeNo sw) port).paused

/-- An entry of a switch's route table: as fixed or reassigned, else live up-port e mod P (R340, R351). -/
def State.tableEntry (s : State) (sw e : Nat) : Option Nat :=
  match find (s.switch sw).routes e with
  | some p => some p
  | none => (s.upPorts sw)[e % (s.upPorts sw).length]?

/-- Writes the whole route table down as it stands, so that a port that joins later changes no entry (R351). -/
def State.fixTable (s : State) (sw : Nat) : State :=
  s.setSwitch sw { s.switch sw with
    routes := (List.range 64).filterMap (fun e => (s.tableEntry sw e).map (fun p => (e, p))) }

end Sys2Proof.Machine
end

