-- ==== Sys2Proof/Machine/Space.lean ====
section
/-! DEFINITION. Keys of mappings, and memory as the dispatcher and management reach it: a booth's space through its mappings, piece by piece
(R294, R321, R354, R388, R389). -/

namespace Sys2Proof.Machine
open Bits Tables

/-- The key of a package's key slot, by its number (R389): slot 0 is management's. -/
def State.keyId (s : State) (p k : Nat) : Nat :=
  if k = 0 then 2 * p else 2 * ((find (s.pkg p).keys k).map (·.2)).getD 0 + 1

/-- The key of a booth's spill areas and log rings on a package (R356, R358). -/
def State.boothKey (s : State) (p b : Nat) : Nat := s.keyId p (((s.region p b).map (·.key)).getD 0)

/-- A request's block as its home's port sees it, under the key of the mapping it was translated by. -/
def State.underKey (s : State) (m : Msg) (wr : Bool) : State :=
  match s.pageFor m.pkg m.booth m.va with
  | none => s
  | some p => s.modMem (fun x => x.under m.ga (s.keyId m.pkg p.key) wr)

/-- Bytes of CXL memory behind a global address are installed (R141, R357). -/
def State.installed (s : State) (ga n : Nat) : Bool :=
  if 2 ^ 64 ≤ ga then true
  else
    let pa := ga % 2 ^ 52
    if fld pa 51 49 = 1 then fld pa 42 0 + n ≤ getD s.cxl (ga / 2 ^ 52 * 16 + fld pa 46 43) 0 else true

/-- The page of a booth that holds the n bytes at an address, if the dispatcher may read or write them at a privilege: not a near window,
with the permission and, with `dram`, in home DRAM (R294, R296). -/
def State.dispPage (s : State) (p b va n : Nat) (sup wr dram : Bool) : Option Page :=
  if isWin va then none
  else
    match s.pageFor p b va with
    | none => none
    | some q =>
      if q.kind ≠ 2 && (if wr then q.wr else q.rd) && (sup || !q.sup) && (!dram || q.kind == 0) && q.holds (va + n - 1) &&
        s.installed (q.base + (va - q.va)) n then some q else none

/-- The pieces of n bytes from an address, cut at 64 KiB, the smallest page. -/
def pagePieces : Nat → Nat → Nat → List (Nat × Nat)
  | 0, _, _ => []
  | fuel + 1, va, n =>
    let k := min n (65536 - va % 65536)
    if n = 0 then [] else (va % 2 ^ 48, k) :: pagePieces fuel (va + k) (n - k)

/-- Whether the dispatcher may reach every byte of a range, over as many pages as it takes. -/
def State.dispRange (s : State) (p b va n : Nat) (sup wr dram : Bool) : Bool :=
  (pagePieces (n / 65536 + 2) va n).all (fun x => (s.dispPage p b x.1 x.2 sup wr dram).isSome)

/-- Reads n bytes of a booth's space, as far as they translate, under the key of each mapping; 0 elsewhere. -/
def State.spaceReadGo (s : State) (p b : Nat) (key : Option Nat) (sup : Bool) : List (Nat × Nat) → Nat
  | [] => 0
  | (va, k) :: l =>
    let v := match s.dispPage p b va k sup false false with
      | none => 0
      | some q =>
        let ga := q.base + (va - q.va)
        (s.mem.underAll ga (key.getD (s.keyId p q.key)) false (blocksOf ga k)).read ga k
    v + 2 ^ (8 * k) * s.spaceReadGo p b key sup l

def State.spaceRead (s : State) (p b va n : Nat) (sup : Bool) (key : Option Nat) : Nat :=
  s.spaceReadGo p b key sup (pagePieces (n / 65536 + 2) va n)

/-- Writes n bytes of a booth's space; nothing where a byte does not translate. -/
def State.spaceWriteGo (s : State) (p b : Nat) (key : Option Nat) (sup : Bool) : List (Nat × Nat) → Nat → State
  | [], _ => s
  | (va, k) :: l, v =>
    let s1 := match s.dispPage p b va k sup true false with
      | none => s
      | some q =>
        let ga := q.base + (va - q.va)
        s.modMem (fun m => (m.underAll ga (key.getD (s.keyId p q.key)) true (blocksOf ga k)).write ga k v)
    s1.spaceWriteGo p b key sup l (v / 2 ^ (8 * k))

def State.spaceWrite (s : State) (p b va n v : Nat) (sup : Bool) (key : Option Nat) : State :=
  s.spaceWriteGo p b key sup (pagePieces (n / 65536 + 2) va n) v

end Sys2Proof.Machine
end

