-- ==== Sys2Proof/Machine/Window.lean ====
section
/-! DEFINITION. Whose slot it is during a handover, where the banks of a thread's window stand, and the streams that reach them (R19,
R186 to R189, R321, R322, R332). -/

namespace Sys2Proof.Machine
open Bits Tables

/-! ### Handovers: whose slot it is now (R322) -/

/-- How far the handover of a slot has come, if one is under way. -/
def State.slotPhase (s : State) (key : Nat) : Option (Handover × HPhase) :=
  s.handovers.foldl (fun b e =>
    match e.2.slots.find? (fun x => x.1 == key) with
    | some x => some (e.2, x.2)
    | none => b) none

/-- The tenant of a booth on a package. -/
def State.tenantOf (s : State) (p b : Nat) : Word := ((s.region p b).map (·.tenant)).getD 0

/-- The tenant whose threads a slot takes: the outgoing one before its SAVE, the incoming one after its LOAD (R322). -/
def State.slotTenant (s : State) (booth key : Nat) : Word :=
  match s.slotPhase key with
  | some (h, p) => if p = .loaded then h.inT else h.outT
  | none => s.tenantOf (pkgOf (cidOf key)) booth

/-! ### Records of a save area (R321) -/

/-- Slot groups of a four-bit mask, ascending. -/
def groupList (mask : Nat) : List Nat := (List.range 4).filter (fun g => fld mask g g == 1)

/-- The number of the record of a core and group. -/
def Handover.record (h : Handover) (cid group : Nat) : Nat :=
  let ci := ((findIdx (· == cid) h.cores).map Prod.fst).getD 0
  let gi := ((findIdx (· == group) (groupList h.groups)).map Prod.fst).getD 0
  ci * (groupList h.groups).length + gi

def Handover.records (h : Handover) : Nat := h.cores.length * (groupList h.groups).length
/-- Record r of a save area. -/
def areaRecord (base r : Nat) : Nat := base + 0x28000 * r
/-- The slot record of a slot in a save area. -/
def Handover.slotAt (h : Handover) (base key : Nat) : Nat :=
  areaRecord base (h.record (cidOf key) (groupOf key)) + 0x3000 * (slotOf key % 4)

def areaKey (p va : Nat) : Nat := p * 2 ^ 48 + va

/-- Whether a handover gives up every edge core of a die (R325, R378). -/
def State.givesNet (s : State) (h : Handover) (die : Nat) : Bool :=
  match s.region h.pkg h.booth with
  | none => false
  | some r =>
    let mine := r.cores.filter (fun c => isEdge c && dieOf c == die)
    !mine.isEmpty && mine.all h.cores.contains && (groupList r.groups).all (fun g => fld h.groups g g == 1)

/-- The tenant whose endpoints and counters a booth has in the network engine of a die: the incoming one once class 9 has been cleared
there, where a handover gives up every edge core of the die (R325, R378). -/
def State.netTenant (s : State) (p die booth : Nat) : Word :=
  match s.handovers.find? (fun e => e.2.pkg == p && e.2.booth == booth && s.givesNet e.2 die) with
  | none => s.tenantOf p booth
  | some e => if e.2.nets.contains die then e.2.inT else e.2.outT

/-- The network engine of the thread's die still serves the other tenant of a handover. -/
def State.netForeign (s : State) : Bool := s.netTenant (pkgOf s.cid) (dieOf s.cid) s.booth != s.th.tenant

/-! ### Where the banks of a thread's window stand -/

/-- Where a bank stands: in the core's scratchpad; in a slot record of a save area, by package, address and key slot; with the images of a
resize, by the place of its waiting requests; or nowhere, still to be loaded with zeroes. -/
inductive BankAt where
  | core
  | area (p base key : Nat)
  | moved (waits : Nat)
  | blank
  deriving DecidableEq, Repr

/-- The bank i of a thread that is not in a save area: its own tenant's during a handover (R322). -/
def State.bankNow (s : State) (t : Thread) (i : Nat) : BankAt :=
  let key := cidOf t.key * 16 + i
  match s.slotPhase key with
  | none => .core
  | some (h, ph) =>
    let incoming := match s.slotPhase t.key with
      | some (_, .loaded) => t.tenant == h.inT
      | _ => false
    if incoming then
      (if ph = .loaded then .core else if h.saveIn = 0 then .blank else .area h.pkg (h.slotAt h.saveIn key) h.inKey)
    else if ph = .todo || (h.gang && !h.agreed) then .core
    else .area h.pkg (h.slotAt h.saveOut key) h.outKey

/-- The bank i of a thread: that of a context in a save area is in its slot record once it has been saved. -/
def State.bankAt (s : State) (uid : Nat) (t : Thread) (i : Nat) : BankAt :=
  match t.place with
  | .area =>
    match s.areas.find? (fun e => e.2.uid == uid) with
    | none => .core
    | some e =>
      let base := (getD s.areaBanks e.1 []).getD i 0
      let here := match s.slotPhase (cidOf t.key * 16 + i) with
        | some (h, .todo) => h.outT == t.tenant && h.slotAt h.saveOut (cidOf t.key * 16 + i) == base
        | _ => base == 0
      if here then .core else .area (e.1 / 2 ^ 48) base (getD s.areaKeys e.1 0)
  | .image =>
    match ((getD s.images (cidOf t.key * 64 + t.booth) []).find? (fun m => m.saved.uid == uid)).bind (·.bank) with
    | none => s.bankNow t i
    | some b => if slotOf t.key = i then .moved b.waits else s.bankNow t i
  | _ => s.bankNow t i

/-- A number with w bits from bit k replaced. -/
def patch (x k w v : Nat) : Nat := x / 2 ^ (k + w) * 2 ^ (k + w) + v % 2 ^ w * 2 ^ k + x % 2 ^ k

/-- The bank that moved with images, wherever it is held. -/
def State.movedBank (s : State) (waits : Nat) : Option Bank :=
  s.images.findSome? (fun e => (e.2.filterMap (·.bank)).find? (fun b => b.waits == waits))
def State.modMoved (s : State) (waits : Nat) (f : Bank → Bank) : State :=
  { s with images := s.images.map (fun e => (e.1, e.2.map (fun m =>
      { m with bank := m.bank.map (fun b => if b.waits = waits then f b else b) }))) }

/-- Reads n bytes at an offset of a thread's window (R186, R322). -/
def State.winRead (s : State) (uid : Nat) (t : Thread) (off n : Nat) : Nat :=
  match s.bankAt uid t (off / 8192) with
  | .core => s.mem.read (spad (cidOf t.key) off) n
  | .area p base key => s.spaceRead p 0 (base + 0x1000 + off % 8192) n true (some (s.keyId p key))
  | .moved w => ((s.movedBank w).map (fun b => b.data / 2 ^ (8 * (off % 8192)) % 2 ^ (8 * n))).getD 0
  | .blank => 0

/-- Writes n bytes at an offset of a thread's window (R186, R322). -/
def State.winWrite (s : State) (uid : Nat) (t : Thread) (off n v : Nat) : State :=
  match s.bankAt uid t (off / 8192) with
  | .core => s.modMem (fun m => m.write (spad (cidOf t.key) off) n v)
  | .area p base key => s.spaceWrite p 0 (base + 0x1000 + off % 8192) n v true (some (s.keyId p key))
  | .moved w => s.modMoved w (fun b => { b with data := patch b.data (8 * (off % 8192)) (8 * n) v })
  | .blank => s

/-! ### Streams (R186 to R189) -/

def Stream.count (t : Stream) : Nat := wfld t.desc 63 40
def Stream.stride (t : Stream) : Int := toSigned (wfld t.desc 39 24) 16
def Stream.small (t : Stream) : Bool := wbit t.desc 1
def Stream.isOut (t : Stream) : Bool := wbit t.desc 0
def Stream.esize (t : Stream) : Nat := if t.small then 4 else 8
/-- The address of element j (R188). -/
def Stream.addr (t : Stream) (j : Nat) : Nat := ((t.base.toNat + j * t.stride) % (2 ^ 48 : Int)).toNat

/-- Writes elements of a thread's out-stream from place j on, in order, at their addresses. -/
def State.writeElems (s : State) (uid : Nat) (th : Thread) (t : Stream) : Nat → List Word → State
  | _, [] => s
  | j, w :: ws => (s.winWrite uid th (t.addr j - winBase) t.esize w.toNat).writeElems uid th t (j + 1) ws

/-- Writes an out-stream's unwritten elements at their places, oldest first. -/
def State.flush (s : State) (uid : Nat) (th : Thread) (t : Stream) : State :=
  s.writeElems uid th t (t.next - t.unwritten.length) t.unwritten

/-- Writes the unwritten elements of every out-stream bound in a thread's registers. -/
def State.flushRegs (s : State) (uid : Nat) (th : Thread) (r : SlotRegs) : State :=
  r.streams.toList.foldl (fun s o => match o with | none => s | some t => s.flush uid th t) s

def Stream.wrote (t : Stream) : Stream := { t with unwritten := [] }
def SlotRegs.unwrittenNone (r : SlotRegs) : SlotRegs :=
  { r with streams := Vector.ofFn (fun i => (r.streams[i]).map Stream.wrote) }

/-- The element read for place j: its bytes in the thread's window, zero-extended. An address outside the own window is never
popped (R189, R190), and its read-ahead value is 0. -/
def State.element (s : State) (uid : Nat) (th : Thread) (t : Stream) (j : Nat) : Word :=
  if isWin (t.addr j) then BitVec.ofNat 64 (s.winRead uid th (t.addr j - winBase) t.esize) else 0

/-- Reads the next elements ahead: up to n places from j, as far as COUNT reaches (R189). -/
def State.readAhead (s : State) (uid : Nat) (th : Thread) (t : Stream) : Nat → Nat → List Word
  | 0, _ => []
  | n + 1, j => if j < t.count then s.element uid th t j :: s.readAhead uid th t n (j + 1) else []

/-- The stream after a pop (R189). -/
def State.popped (s : State) (uid : Nat) (th : Thread) (t : Stream) : Stream :=
  { t with
    next := t.next + 1
    ahead := t.ahead.tail ++ (if t.next + 4 < t.count then [s.element uid th t (t.next + 4)] else []) }

/-- A stream after a restore or `ssync`: an in-stream reads its next elements afresh (R186, R189). -/
def State.afresh (s : State) (uid : Nat) (th : Thread) (x : SlotRegs) : SlotRegs :=
  { x with streams := Vector.ofFn (fun i => (x.streams[i]).map (fun t =>
      if t.isOut then t else { t with ahead := s.readAhead uid th t 4 t.next })) }

end Sys2Proof.Machine
end

