-- ==== Sys2Proof/Machine/Ops.lean ====
section
/-! DEFINITION. The named operations over the state: messages, the posted window, translation, the step result
of a word, taking and returning from a trap, retiring a thread, fences and the ends of waits. -/

namespace Sys2Proof.Machine
open Bits Tables

/-! ### Undefined values (R6) -/

def freshKey (booth : Nat) (tenant : Word) : Nat := booth * 2 ^ 64 + tenant.toNat
/-- The words of the next undefined value of a booth's tenant. -/
def State.undef (s : State) (booth : Nat) (t : Word) : Nat → Word := Config.freeWord booth t (getD s.fresh (freshKey booth t) 0)
/-- The same words are not drawn again. -/
def State.drawn (s : State) (booth : Nat) (t : Word) : State :=
  let n := freshKey booth t
  { s with fresh := put s.fresh n (getD s.fresh n 0 + 1) }

/-- Values of v0 to v7 and k0 to k3 that nothing defines (R36, R103). -/
def undefV (w : Nat → Word) : Vector (Vector Half 16) 8 :=
  Vector.ofFn (fun i => Vector.ofFn (fun j => (w (i.val * 16 + j.val)).setWidth 32))
def undefK (w : Nat → Word) : Vector (BitVec 16) 4 := Vector.ofFn (fun i => (w (128 + i.val)).setWidth 16)

/-! ### Messages (R340 to R343) -/

/-- Flits of a message: the header and the data flits of 32 bytes (R341). DEDUCED (log entry 61): R341 gives those of a block and of a
migration; the address stands in the header, and operands, values and the members of a run take as many data flits as they fill. -/
def Body.flits : Body → Nat
  | .req (.store _ _) | .req (.cas _ _ _) | .req (.sync _ _ _ _) => 2
  | .req (.amo _ _ ms) => 1 + (ms.length + 1) / 2
  | .req (.pub _ _) => 17
  | .req _ => 1
  | .reply a => if a.frame.isSome then 17 else if a.val.isSome then 2 else 1
  | .combReply _ ms _ => 1 + (ms.length + 1) / 2
  | .trapReply _ _ | .chan _ _ | .irq _ => 2
  | .context => 6
  | .ask (.spawn _) | .cmdEntry _ _ => 3
  | .ask _ | .cmdTail _ => 2
  | .ack | .credit _ | .probe | .echo | .refusal _ | .stop _ | .boot | .drain _ _ => 1

/-- CXL memory is reached through the bridge of its edge group (R9, R339). -/
def isCxl (ga : Nat) : Bool := ga < 2 ^ 64 && fld ga 51 49 == 1

/-- What a message's source is at its switch: 0 a core (or another node), 1 a copy engine, 2 a network engine, 3 a CXL bridge, which answers
for its memory (R339). -/
def sourceUnit (p : Party) (answers : Bool) (ga : Nat) : Nat :=
  if answers then (if isCxl ga then 3 else 0)
  else match p with
    | .copy _ => 1
    | .net _ => 2
    | _ => 0

/-- The injection queue of a source in a channel. Its first message stands in the injection buffer, which holds one whole message; those
behind it wait in the source, not yet injected (R343). -/
def injectQueue (src unit : Nat) : Nat := 2 ^ 90 + 4 * src + unit

/-- A message from a core on behalf of a booth. -/
def State.newMsg (s : State) (src dst booth uid tid chan : Nat) (body : Body) : Msg :=
  { mid := s.nextMid, src := src, dst := dst, party := .core, pkg := nodeAddr src, booth := booth, uid := uid, tid := tid, chan := chan
    va := 0, ga := 0, d := 0, posted := false, ack := false, mark := false, done := 0, left := s.hops src dst
    que := injectQueue src 0, inp := 0, since := s.cycle, cut := false, body := body }

def State.inject (s : State) (m : Msg) : State := { s with net := s.net ++ [m], nextMid := s.nextMid + 1 }

/-- The answer to a message goes back the way it came, on channel 2, with the mark copied (R342, R345). -/
def Msg.answer (m : Msg) (hops cycle : Nat) (body : Body) : Msg :=
  { m with
    src := m.dst, dst := m.src, chan := 2, done := 0, left := hops, que := injectQueue m.dst (sourceUnit m.party true m.ga), inp := 0, since := cycle
    cut := false, body := body }
def State.answer (s : State) (m : Msg) (body : Body) : State :=
  { s with net := s.net ++ [m.answer (s.hops m.dst m.src) s.cycle body] }
def State.dropMsg (s : State) (n : Nat) : State := { s with net := dropAt s.net n }

/-- The sources whose accesses a message carries: more than one in a combined run (R346). -/
def Msg.sources (m : Msg) : List Nat :=
  match m.body with
  | .req (.amo _ _ ms) => m.src :: ms.map (·.src)
  | _ => [m.src]

/-- Whether a posted access of a thread is on its way to its home, alone or in a combined run. -/
def State.storesFly (s : State) (uid : Nat) : Bool :=
  s.net.any (fun m => m.party == .core && (match m.body with
    | .req (.amo _ _ ms) => ms.any (fun x => x.posted && x.uid == uid)
    | .req _ => m.posted && m.uid == uid
    | _ => false))

/-- The posted accesses of a thread on their way to their homes, by message number. -/
def State.storesOut (s : State) (uid : Nat) : List Nat :=
  s.net.flatMap (fun m => if m.party != .core then [] else match m.body with
    | .req (.amo _ _ ms) => (ms.filter (fun x => x.posted && x.uid == uid)).map (·.mid)
    | .req _ => if m.posted && m.uid == uid then [m.mid] else []
    | _ => [])

/-- None of some accesses is on its way to its home any more. -/
def State.performed (s : State) (mids : List Nat) : Bool :=
  !s.net.any (fun m => match m.body with
    | .req (.amo _ _ ms) => ms.any (fun x => mids.contains x.mid)
    | .req _ => mids.contains m.mid
    | _ => false)

/-- Whether a message stands behind the n-th of those in flight in one queue and channel. -/
def State.behind (s : State) (n : Nat) (m : Msg) : Bool := (s.net.take n).any (fun x => x.que == m.que && x.chan == m.chan)

/-- Whether the n-th message has reached its node and, in the ordered channel, no earlier one stands before it in the last queue (R145,
R340). -/
def State.arrived (s : State) (n : Nat) : Option Msg :=
  match s.net[n]? with
  | none => none
  | some m => if m.left ≠ 0 || m.cut || (m.chan == 0 && s.behind n m) then none else some m

/-! ### The posted window (R344, R345) -/

def PWin.credit (w : PWin) (c : Nat) (mark : Bool) : PWin :=
  let w1 := { w with outstanding := w.outstanding - c }
  let w2 :=
    if mark then
      (if w1.window ≤ w1.sincecut then { w1 with window := max 1 (w1.window / 2), sincecut := 0, clean := 0 } else w1)
    else if w1.window ≤ w1.clean + c then { w1 with window := min 64 (w1.window + 1), clean := 0 }
    else { w1 with clean := w1.clean + c }
  { w2 with sincecut := w2.sincecut + c }
def PWin.full (w : PWin) : Bool := w.window ≤ w.outstanding
def PWin.sent (w : PWin) : PWin := { w with outstanding := w.outstanding + 1 }

def State.modBc (s : State) (cid booth : Nat) (f : BoothCore → BoothCore) : State := s.setBc cid booth (f (s.bc cid booth))
def State.nqAt (s : State) (k : Nat) : NQueue := getD s.nqs k NQueue.init

/-- A credit for c accesses of a message's party: of the booth's window on the core, or of the engine queue's own (R344). -/
def State.credit (s : State) (p : Party) (cid booth c : Nat) (mark : Bool) : State :=
  match p with
  | .core => s.modBc cid booth (fun b => { b with win := b.win.credit c mark })
  | .copy k => { s with vqs := put s.vqs k { getD s.vqs k VQueue.init with win := (getD s.vqs k VQueue.init).win.credit c mark } }
  | .net k => { s with nqs := put s.nqs k { s.nqAt k with win := (s.nqAt k).win.credit c mark } }
  | .host _ => s

/-- A wait ends in a cycle; the thread is eligible from the next one on (R102). -/
def Thread.woken (t : Thread) (cycle : Nat) : Thread := { t with wait := .idle, woke := cycle + 1 }

/-- Threads that a condition woke issue their bundles again (R18); a thread whose condition does not hold parks again. -/
def State.wake (s : State) (p : Nat → Thread → Why → Bool) : State :=
  { s with threads := s.threads.map (fun e =>
      match e.2.wait with
      | .retry w => if p e.1 e.2 w then (e.1, e.2.woken s.cycle) else e
      | _ => e) }

/-- Whether a wait ends with the answer to a message: a waited-for access or a blocked send (R145, R308). -/
def Wait.awaits (w : Wait) (mid : Nat) : Bool :=
  match w with
  | .reply m => m == mid
  | .send m _ _ _ _ => m == mid
  | _ => false

def State.wakeWindow (s : State) (cid booth : Nat) : State :=
  s.wake (fun _ t w => t.booth == booth && cidOf t.key == cid && w == .window)

/-! ### What a word does -/

/-- The result of one word: done, parked, a trap, the bundle issued again, or no step. -/
inductive Step where
  | next (s : State)
  | park (s : State)
  | trap (cause tval : Nat)
  | trapAt (s : State) (cause tval : Nat)
  | retry (w : Why)
  | fenced (s : State)
  | gone (s : State)
  deriving DecidableEq, Repr

/-- The trap causes of R117. -/
inductive Cause where
  | illegal | framing | pairAlign | priv | break | ecall | fetchXlate | loadXlate | storeXlate | access | align
  | lagUnmet | lagWriterStopped | lagTimeout | feLimit | atomicUnsup | remoteNack | sendStall | migrateRefused
  | mxCount | mxConfig | vecConfig | streamFault | engineRefused | itOverflow | deadline
  deriving DecidableEq, Repr

def Cause.code : Cause → Nat
  | .illegal => 0x01 | .framing => 0x02 | .pairAlign => 0x03 | .priv => 0x04 | .break => 0x05 | .ecall => 0x06
  | .fetchXlate => 0x08 | .loadXlate => 0x09 | .storeXlate => 0x0A | .access => 0x0B | .align => 0x0C
  | .lagUnmet => 0x10 | .lagWriterStopped => 0x11 | .lagTimeout => 0x12 | .feLimit => 0x13 | .atomicUnsup => 0x14
  | .remoteNack => 0x15 | .sendStall => 0x16 | .migrateRefused => 0x17 | .mxCount => 0x18 | .mxConfig => 0x19
  | .vecConfig => 0x1A | .streamFault => 0x1B | .engineRefused => 0x1C | .itOverflow => 0x1E | .deadline => 0x20

/-- TVAL layout V: reason and address (R116). -/
def tvV (reason va : Nat) : Nat := reason * 2 ^ 60 + va % 2 ^ 48

def trap (c : Cause) (v : Nat) : Step := .trap c.code v
/-- TVAL layout W: the word itself, without L as it stands in memory (R116). -/
def State.wordOf (s : State) : Nat := if s.bun.isA then s.bun.aw else s.bun.cw
def State.trapW (s : State) (c : Cause) : Step := .trap c.code s.wordOf

/-! ### The journal and interrupts (R361, R391 to R393) -/

/-- Raises an interrupt message for a booth from a node of a package, to the adapter that booth 0's owner entry names, if the booth's
entry sends them (R361, R362). -/
def State.raise (s : State) (p src booth kind : Nat) (tid : Nat) (wa wb : Word) (uid : Nat) : State :=
  let o := getD (s.pkg p).owners booth (0, 0)
  if wbit o.1 63 then
    let w0 : Word := BitVec.ofNat 64 (kind * 2 ^ 60 + booth * 2 ^ 48 + wfld o.1 31 0)
    s.inject (s.newMsg src (hostNode (wfld (getD (s.pkg p).owners 0 (0, 0)).1 60 48 % 4096)) booth uid tid 4
      (.irq [w0, BitVec.ofNat 64 tid, wa, wb]))
  else s

/-- Whether an entry's state change raises an interrupt: a rejection, fault, reset or repair (R393). -/
def JEntry.alarms (e : JEntry) : Bool := e.state == 1 || 6 ≤ e.kind

/-- Whether the ring place of the next entry holds one that may not be overwritten: its number is above its booth's last
replay fence (R393). -/
def State.journalFull (s : State) (p : Nat) : Bool :=
  match find (s.pkg p).journal ((s.pkg p).jseq - 65536) with
  | none => false
  | some e => (s.boothPkg p e.booth).lastFence < e.seq

/-- Appends a journal entry; its sequence number is JSEQ (R391). The entry that its ring place held leaves, unless it may
not be overwritten (R393). -/
def State.journal (s : State) (p : Nat) (f : Nat → JEntry) : State :=
  let k := s.pkg p
  let e := f k.jseq
  let old := if s.journalFull p then k.journal else del k.journal (k.jseq - 65536)
  let s1 := s.setPkg p { k with jseq := k.jseq + 1, journal := put old k.jseq e }
  if e.alarms then s1.raise p (pkgNode p) e.booth 1 0 (BitVec.ofNat 64 e.seq) 0 0 else s1

/-- Moves a journal entry forward to a state (R393). -/
def State.jstate (s : State) (p seq st : Nat) : State :=
  let k := s.pkg p
  match find k.journal seq with
  | none => s
  | some e =>
    if e.state = 1 ∨ st ≤ e.state then s
    else s.setPkg p { k with journal := put k.journal seq { e with state := st, time := s.cycle } }

/-- A device event's entry, written completed; where the next place of the ring is not free, it waits (R393). -/
def State.deviceEvent (s : State) (p booth kind : Nat) (tag : Word) (digest : List Word) : State :=
  let e (q : Nat) : JEntry := ⟨q, 3, booth, kind, 2, 0, tag, s.cycle, digest, [], 0, false⟩
  if s.journalFull p then s.setPkg p { s.pkg p with late := (s.pkg p).late ++ [e 0] } else s.journal p e

/-- The ring of a package may have places again: the device events that waited are written first, and a parked `launch` is tried again
(R393). -/
def State.placesFree (s : State) (p : Nat) : State :=
  ((s.pkg p).late.foldl (fun (t : State) e =>
    if t.journalFull p then t
    else (t.setPkg p { t.pkg p with late := (t.pkg p).late.tail }).journal p (fun q => { e with seq := q, time := t.cycle })) s).wake
      (fun _ _ w => w == Why.journal)

/-! ### Ends of threads -/

/-- Stop notices to every home core of the booth's region (R157). -/
def State.stopNotices (s : State) (booth key : Nat) : State :=
  (s.regionCores booth).foldl
    (fun s c => s.inject (s.newMsg (cidOf key) c booth 0 (tidOf key) 4 (.stop (tidOf key)))) s

def Launch.retired (l : Launch) (uid it : Nat) (fault : Option (Nat × Nat × Nat)) : Launch :=
  { l with
    strays := if fault.isSome then uid :: l.strays else l.strays
    live := l.live - 1
    ndone := l.ndone + 1
    nfault := l.nfault + (if fault.isSome then 1 else 0)
    first := if l.first.isSome then l.first else fault
    lowit := match l.lowit with | none => some it | some n => some (min n it) }

/-- A thread ends, by `done` or by an unrecoverable fault with its cause and EPC (R111, R302, R309): its streams are
written and unbound, its stop notices go out, its record disappears and its slot is FREE. -/
def State.retire (s : State) (uid : Nat) (fault : Option (Nat × Nat)) : State :=
  match s.thread uid with
  | none => s
  | some t =>
    let x := s.slot t.key
    let cid := cidOf t.key
    let s2 := (s.flushRegs uid t x.regs).setSlot t.key
      { x with phase := .free, run := none, regs := { x.regs with streams := Vector.replicate 4 none } }
    let s3 := s2.stopNotices t.booth t.key
    let s4 := { s3 with threads := del s3.threads uid }
    let f := fault.map (fun c => (c.1, tidOf t.key, c.2))
    match t.job.launch with
    | none =>
      match fault with
      | none => s4
      | some c => s4.deviceEvent (pkgOf cid) t.booth 6 (BitVec.ofNat 64 (c.1 * 2 ^ 32 + tidOf t.key)) [BitVec.ofNat 64 c.2, 0, 0, 0]
    | some h =>
      match find s4.launches h with
      | none => s4
      | some l => { s4 with launches := put s4.launches h (l.retired uid t.ctx.it.toNat f) }

/-- Applies a function to the slot-owned registers of a thread, wherever its context stands. -/
def State.modRegsOf (s : State) (uid : Nat) (f : SlotRegs → SlotRegs) : State :=
  match s.thread uid with
  | none => s
  | some t =>
    let x := s.slot t.key
    let g (c : Saved) : Saved := if c.uid = uid then { c with regs := f c.regs } else c
    match t.place with
    | .slot => s.setSlot t.key { x with regs := f x.regs }
    | .shadow =>
      s.setSlot t.key { x with shadow := match x.shadow with
        | .empty => .empty
        | .arrival c => .arrival (g c)
        | .displaced c => .displaced (g c)
        | .spill c => .spill (g c) }
    | .arrival =>
      let c := s.core (cidOf t.key)
      s.setCore (cidOf t.key) { c with arrivals := c.arrivals.map g }
    | .area => { s with areas := s.areas.map (fun e => (e.1, g e.2)) }
    | .image =>
      let n := cidOf t.key * 64 + t.booth
      { s with images := put s.images n ((getD s.images n []).map (fun i => { i with saved := g i.saved })) }
    | .flight => s

/-! ### Traps (R111, R112) -/

/-- A trap of a thread that stands in its slot. -/
def State.enterTrap (s : State) (uid pc cause : Nat) (tval : Word) : State :=
  match s.thread uid with
  | none => s
  | some t =>
    let x := s.slot t.key
    let s1 := s.setSlot t.key
      { x with regs := { x.regs with epc := BitVec.ofNat 64 pc, cause := BitVec.ofNat 64 cause, tval := tval } }
    let tvec := (s.bc (cidOf t.key) t.booth).tvec
    if t.ctx.th || tvec == 0 then s1.retire uid (some (cause, pc))
    else
      s1.setThread uid { t.woken s.cycle with
        held := []
        aRan := false
        beats := 0
        given := []
        ctx := { t.ctx with pprv := t.ctx.prv, prv := true, th := true, pc := tvec.setWidth 48 } }

/-- A trap that arises after the C word parked (R113 item 5): stream elements that the bundle popped are not consumed (R66);
a saved thread keeps the trap for its restore (R19). -/
def State.lateTrap (s : State) (uid cause : Nat) (tval : Word) : State :=
  match s.thread uid with
  | none => s
  | some t =>
    let s1 := s.modRegsOf uid (fun x => { x with streams := t.issued.streams })
    if t.place = .slot then s1.enterTrap uid t.issued.pc cause tval
    else s1.setThread uid { t.woken s.cycle with held := [], aRan := false, beats := 0, given := [], pendTrap := some (cause, tval) }

/-- A trap of the word being executed: TVAL bit 63 says whether the A word raised it (R66). -/
def State.takeTrap (s : State) (cause tval : Nat) : State :=
  s.enterTrap s.uid s.bun.pc cause (BitVec.ofNat 64 (tval + (if s.bun.isA then 2 ^ 63 else 0)))

/-- The return from a trap (R112). -/
def Ctx.trapReturn (c : Ctx) (epc : Word) : Ctx :=
  { c with pc := epc.setWidth 48, prv := c.pprv, th := false }

/-! ### Running a word -/

def State.setFin (s : State) (f : WordEnd) : State := { s with bun := { s.bun with fin := f } }

/-- The bundle is to be issued again: PC stands at it (R18). A page walk that nothing has started yet starts (R118). -/
def State.again (s : State) (w : Why) : State :=
  let s1 := match w with
    | .walk c b va _ _ => if s.walks.contains (⟨c, b, va⟩ : Walk) then s else { s with walks := s.walks ++ [(⟨c, b, va⟩ : Walk)] }
    | _ => s
  s1.modMe (fun t => { t with wait := .retry w, ctx := { t.ctx with pc := BitVec.ofNat 48 s.bun.pc } })

/-- Puts the slot-owned registers back: no stream element that the word popped is consumed (R66). -/
def State.unpop (t s : State) : State := t.modRegs (fun _ => s.regs)

/-- Runs one word in the current slot from the state at its issue: a trap or a new issue starts from that state, so
nothing that the word did stands (R66). -/
def runWord (s : State) (r : Step) : Host.Outcome State Fault Refusal :=
  match s.me with
  | none => .refused .noThread
  | some _ =>
    match r with
    | .next t => .next (t.setFin .done)
    | .park t => .next (t.setFin .parked)
    | .trap c v => .next ((s.takeTrap c v).setFin (.trapped c (BitVec.ofNat 64 v)))
    | .trapAt t c v => .next (((t.unpop s).takeTrap c v).setFin (.trapped c (BitVec.ofNat 64 v)))
    | .retry w => .next ((s.again w).setFin (.again w))
    | .fenced t => .next ((t.unpop s).setFin .fenced)
    | .gone t => .next (t.setFin .gone)

/-- An event takes place when its precondition holds. -/
def event (name : String) (r : Option State) : Host.Outcome State Fault Refusal :=
  match r with
  | some t => .next t
  | none => .refused (.notEnabled name)

/-! ### Translation (R118, R119, R140 to R142) -/

/-- What an access needs of its page. -/
structure Acc where
  cause : Cause
  rd : Bool
  wr : Bool
  ex : Bool
  /-- Not refused on a near-window page: a plain `st`, the one access that such a page carries, and `tlook`, which only
  translates (R142, R168). -/
  near : Bool
  aged : Bool
  sync : Bool
  deriving DecidableEq, Repr

def accLoad : Acc := ⟨.loadXlate, true, false, false, false, false, false⟩
def accStore : Acc := ⟨.storeXlate, false, true, false, true, false, false⟩
def accFetch : Acc := ⟨.fetchXlate, false, false, true, false, false, false⟩
def accAtomic : Acc := ⟨.storeXlate, true, true, false, false, false, false⟩
def accSyncLoad : Acc := ⟨.loadXlate, true, false, false, false, false, true⟩
def accSyncStore : Acc := ⟨.storeXlate, false, true, false, false, false, true⟩
def accAgedLoad : Acc := ⟨.loadXlate, true, false, false, false, true, false⟩
/-- `tlook` translates as a load and touches nothing (R168). -/
def accLook : Acc := ⟨.loadXlate, true, false, false, true, false, false⟩
def accPub : Acc := ⟨.storeXlate, false, true, false, false, true, false⟩

/-- Why a mapped page does not serve an access: cause and TVAL (R119, R142, R144, R154). DEDUCED (log entry 58): a synchronising
access to a CXL page is checked for its permission before R144's ACCESS reason 3; R142 gives an order for near-window pages only. -/
def pageFault (a : Acc) (p : Page) (sup : Bool) (va : Nat) : Option (Nat × Nat) :=
  if p.kind = 2 && !a.near then some (Cause.access.code, tvV 4 va)
  else if (a.rd && !p.rd) || (a.wr && !p.wr) || (a.ex && !p.ex) || (p.sup && !sup) then some (a.cause.code, tvV 1 va)
  else if a.aged && !p.aged then some (a.cause.code, tvV 1 va)
  else if a.sync && p.kind = 1 then some (Cause.access.code, tvV 3 va)
  else none

/-- Where an access goes: the own scratchpad, or a home core. -/
inductive Target where
  | here (off : Nat)
  | home (p : Page) (ga : Nat)
  deriving DecidableEq, Repr

/-- Whether the bank of a slot belongs, at this moment of a handover, to the tenant that the current thread does not run
for: an outgoing thread uses banks not yet saved, an incoming one banks already loaded (R322). -/
def State.bankHeld (s : State) (key : Nat) : Bool :=
  let incoming := match s.slotPhase s.cur with
    | some (_, .loaded) => true
    | _ => false
  match s.slotPhase key with
  | none => false
  | some (_, .todo) => incoming
  | some (_, .loaded) => !incoming
  | some _ => true

/-- Whether the store of the current thread's group belongs to the other tenant (R322). -/
def State.storeHeld (s : State) : Bool :=
  let incoming := match s.slotPhase s.cur with
    | some (_, .loaded) => true
    | _ => false
  incoming && s.handovers.any (fun e => e.2.stores.any (fun x => x.1 == s.cid * 4 + groupOf s.cur && x.2 != .loaded))

/-- Looks an address up for the current thread's booth: where it goes, or why it does not (R118, R119, R140). A miss in both buffers
parks the thread for a walk, for an address without a mapping too: the walk then ends in the trap. -/
def State.look (s : State) (a : Acc) (va : Nat) : Except Step Target :=
  let b := s.booth
  let cid := s.cid
  if isWin va then
    if a.aged then .error (trap a.cause (tvV 1 va))
    else if s.ownsOff cid b (va - winBase) then
      (if s.bankHeld (cid * 16 + (va - winBase) / 8192) then .error (.retry .handover) else .ok (.here (va - winBase)))
    else .error (trap a.cause (tvV 1 va))
  else
    match s.pageFor (pkgOf cid) b va with
    | none => .error (.retry (.walk (engOf cid) b (va - va % 65536) a.cause.code (tvV 0 va)))
    | some p =>
      if (s.core cid).tlb.contains (b, p) || (getD s.l2 (engOf cid) []).contains (b, p) then
        match pageFault a p s.th.ctx.prv va with
        | some f => .error (.trap f.1 f.2)
        | none => .ok (.home p (p.base + (va - p.va)))
      else .error (.retry (.walk (engOf cid) b p.va a.cause.code (tvV 0 va)))

/-- Goes on with the place of an address. -/
def State.translate (s : State) (a : Acc) (va : Nat) (k : Target → Step) : Step :=
  match s.look a va with
  | .error r => r
  | .ok t => k t

/-! ### Home accesses (R145, R146, R203, R204) -/

def rangesMeet (a n b m : Nat) : Bool := a < b + m && b < a + n

/-- The words that an access of n bytes at a global address touches. -/
def wordsMeet (x : Nat × Nat × Nat) (ga n : Nat) : Bool :=
  rangesMeet (x.2.1 - x.2.1 % 8) (8 * ((x.2.1 % 8 + x.2.2 + 7) / 8)) (ga - ga % 8) (8 * ((ga % 8 + n + 7) / 8))

/-- Whether an earlier unacknowledged spray access holds an access back (R204). -/
def Thread.sprayHolds (t : Thread) (ga n : Nat) : Bool := t.spray.any (fun x => wordsMeet x ga n)

/-- The class in which a waited-for access travels (R203): channel 0 ordered, 1 spray. -/
def State.travel (s : State) (home : Nat) (c : Cls) : Nat :=
  match c with
  | .ord => 0
  | .spray =>
    if pkgOf home = pkgOf s.cid then (if s.th.ctx.tbm.getLsbD (tbmBit home) then 0 else 1)
    else (if s.th.offPkg.isEmpty then 1 else 0)

/-- Sends a waited-for access and parks the thread for its reply (R145). `n` is the span that R204 tests. -/
def State.waitFor (s : State) (p : Page) (ga va n : Nat) (c : Cls) (d : GReg) (r : Req) : Step :=
  if s.th.sprayHolds ga n then .retry .spray
  else
    let m := { s.newMsg s.cid p.home s.booth s.uid (tidOf s.cur) (s.travel p.home c) (.req r) with
      va := va, ga := ga, d := d }
    .park ((s.inject m).modMe (fun t => { t with wait := .reply m.mid }))

/-- Sends a posted access (R145, R146): counted against the window, and acknowledged when it is spray or leaves the
package. -/
def State.post (s : State) (p : Page) (ga va n : Nat) (c : Cls) (r : Req) : Step :=
  if s.th.sprayHolds ga n then .retry .spray
  else if (s.bc s.cid s.booth).win.full then .retry .window
  else
    let off := pkgOf p.home ≠ pkgOf s.cid
    let ack := c == .spray || off
    let m := { s.newMsg s.cid p.home s.booth s.uid (tidOf s.cur) (if c == .ord then 0 else 1) (.req r) with
      va := va, ga := ga, posted := true, ack := ack }
    let s1 := (s.inject m).modBc s.cid s.booth (fun b => { b with win := b.win.sent })
    .next (s1.modMe (fun t => { t with
      spray := if c == .spray then t.spray ++ [(m.mid, ga, n)] else t.spray
      offPkg := if off then t.offPkg ++ [m.mid] else t.offPkg
      ctx := if c == .ord && !off then { t.ctx with tbm := t.ctx.tbm ||| (1#64 <<< tbmBit p.home) } else t.ctx }))

/-! ### Wait lists of full/empty words (R151, R152) -/

/-- Whether a synchronising access can be performed on a word in the given state (R150). -/
def SyncOp.ready (o : SyncOp) (full : Bool) : Bool :=
  match o with
  | .ldf | .ldff => full
  | .stf => !full
  | .fetst | .stfill | .stemp => true

/-- The effect of a synchronising access on memory, and the value it returns (R150). -/
def SyncOp.perform (o : SyncOp) (m : Memory) (ga : Nat) (data : Word) : Memory × Option Word :=
  match o with
  | .ldf => (m.setFull ga false, some (m.word ga))
  | .ldff => (m, some (m.word ga))
  | .fetst => (m, some (if m.isFull ga then 1 else 0))
  | .stf | .stfill => ((m.write ga 8 data.toNat).setFull ga true, none)
  | .stemp => (m.setFull ga false, none)

def SyncOp.isLoad : SyncOp → Bool
  | .ldf | .ldff | .fetst => true
  | .stf | .stfill | .stemp => false

end Sys2Proof.Machine
end

