-- ==== Sys2Proof/Machine/Operands.lean ====
section
/-! DEFINITION. Reading and writing the operands of a word: general registers with their stream bindings, vector and
mask registers, the held result of an A word (R65, R103, R186 to R190). -/

namespace Sys2Proof.Machine
open Bits Tables

/-- The stream that a register may be bound as: g8 to g11 are s0 to s3 (R186). -/
def streamNo (r : GReg) : Option Nat := if 8 ≤ r.val ∧ r.val ≤ 11 then some (r.val - 8) else none

def SlotRegs.stream (x : SlotRegs) (r : GReg) : Option Stream :=
  match streamNo r with
  | none => none
  | some n => (x.streams.toList[n]?).join

def SlotRegs.setStream (x : SlotRegs) (r : GReg) (t : Stream) : SlotRegs :=
  match streamNo r with
  | none => x
  | some n => if h : n < 4 then { x with streams := x.streams.set n (some t) h } else x

/-- STREAM_FAULT of a register's stream with a reason (R190). -/
def streamFault (r : GReg) (reason : Nat) : Step := trap .streamFault (reason * 16 + (r.val - 8))

/-- Whether element j may be touched: inside the own window, in a bank of the booth (R190 reason 3). -/
def State.elemOk (s : State) (t : Stream) (j : Nat) : Bool :=
  isWin (t.addr j) && s.ownsOff s.cid s.booth (t.addr j - winBase)

/-- The stream that a register is bound to as a source: the binding at the bundle's issue, whatever the C word has done to it since
(R65 item 1). -/
def State.source (s : State) (r : GReg) : Option Stream :=
  match streamNo r with
  | none => none
  | some n => (s.bun.src.toList[n]?).join

/-- A source field consumes an element: in the words' view of the stream, and in the slot's binding if it still stands. -/
def State.pop (s : State) (r : GReg) (t : Stream) : State :=
  let src := match streamNo r with
    | none => s.bun.src
    | some n => if h : n < 4 then s.bun.src.set n (some (s.popped s.uid s.th t)) h else s.bun.src
  { s with bun := { s.bun with src := src } }.modRegs (fun x =>
    match x.stream r with
    | none => x
    | some u => x.setStream r (s.popped s.uid s.th u))

/-- The first element of a register among those popped at an earlier issue, and the others (R65 item 1). -/
def takeGiven (r : GReg) : List (GReg × Word) → Option (Word × List (GReg × Word))
  | [] => none
  | e :: l => if e.1 = r then some (e.2, l) else (takeGiven r l).map (fun x => (x.1, e :: x.2))

/-- The bundle's words go on with what is left of those elements. -/
def State.setGiven (s : State) (l : List (GReg × Word)) : State := { s with bun := { s.bun with given := l } }

/-- Reads a general register as a source: an element popped at an earlier issue, the value before the bundle, or a popped element (R65,
R186). -/
def State.getG (s : State) (r : GReg) (k : Word → State → Step) : Step :=
  match takeGiven r s.bun.given with
  | some (w, l) => k w (s.setGiven l)
  | none =>
    match s.source r with
    | none => k (if r.val = 0 then 0 else s.bun.g[r]) s
    | some t =>
      if t.isOut then streamFault r 2
      else if t.count ≤ t.next then streamFault r 1
      else if !s.elemOk t t.next then streamFault r 3
      else k (t.ahead.headD 0) (s.pop r t)

/-- What a source field reads where no stream fault arises, and the state after it. -/
def State.readField (s : State) (r : GReg) : Word × State :=
  match takeGiven r s.bun.given with
  | some (w, l) => (w, s.setGiven l)
  | none =>
    match s.source r with
    | none => (if r.val = 0 then 0 else s.bun.g[r], s)
    | some t => (t.ahead.headD 0, s.pop r t)

/-- The value that a source read would give, without consuming anything. -/
def State.peekG (s : State) (r : GReg) : Word := (s.readField r).1

/-- The pops of a list of source fields, in their order (R65 item 1). -/
def State.popFields (s : State) (rs : List GReg) : State := rs.foldl (fun s r => (s.readField r).2) s

/-- The values that source fields read, in their order; zero for a field that reads no general register (R318). -/
def State.fieldValues (s : State) : List (Option GReg) → List Word
  | [] => []
  | none :: rs => 0 :: s.fieldValues rs
  | some r :: rs => s.peekG r :: (s.popFields [r]).fieldValues rs

/-- Whether a source field pops an element, now or at an earlier issue. -/
def State.popsField (s : State) (r : GReg) : Bool := (s.source r).isSome || (takeGiven r s.bun.given).isSome

/-- The elements that source fields pop, in their order. -/
def State.elements (s : State) : List GReg → List (GReg × Word)
  | [] => []
  | r :: rs => if s.popsField r then (r, s.peekG r) :: (s.popFields [r]).elements rs else s.elements rs

/-- Whether no pop of a list of source fields is a stream fault (R190). -/
def State.poppable (s : State) : List GReg → Bool
  | [] => true
  | r :: rs =>
    (match takeGiven r s.bun.given, s.source r with
      | none, some t => !t.isOut && t.next < t.count && s.elemOk t t.next
      | _, _ => true) && (s.popFields [r]).poppable rs

/-- A register that an instruction reads and then writes may not be bound (R186). -/
def State.notBound (s : State) (r : GReg) (k : State → Step) : Step :=
  match s.source r with
  | none => k s
  | some _ => streamFault r 2

/-- The destination check of a push (R186, R190), made before a word takes effect. DEDUCED (log entry 57): an A word's write follows the
binding that the C word's `sbind` or `sfree` leaves; R65 fixes the sources only. -/
def State.checkDest (s : State) (r : GReg) (k : State → Step) : Step :=
  match s.regs.stream r with
  | none => k s
  | some t =>
    if !t.isOut then streamFault r 2
    else if t.count ≤ t.next then streamFault r 1
    else if !s.elemOk t t.next then streamFault r 3
    else k s

/-- The slot-owned registers of a thread. -/
def State.regsOf (s : State) (uid : Nat) : SlotRegs :=
  match s.thread uid with
  | none => SlotRegs.zero
  | some t =>
    let x := s.slot t.key
    match t.place with
    | .slot => x.regs
    | .shadow =>
      match x.shadow with
      | .empty => SlotRegs.zero
      | .arrival c | .displaced c | .spill c => c.regs
    | .arrival => (((s.core (cidOf t.key)).arrivals.find? (fun c => c.uid == uid)).map (·.regs)).getD SlotRegs.zero
    | .image =>
      (((getD s.images (cidOf t.key * 64 + t.booth) []).find? (fun i => i.saved.uid == uid)).map (·.saved.regs)).getD
        SlotRegs.zero
    | .area => ((s.areas.find? (fun e => e.2.uid == uid)).map (·.2.regs)).getD SlotRegs.zero
    | .flight => SlotRegs.zero

/-- A push (R189): a full group of eight is written, wherever the thread's banks stand. -/
def State.pushOut (s : State) (uid : Nat) (th : Thread) (r : GReg) (t : Stream) (w : Word) : State :=
  let t1 := { t with next := t.next + 1, unwritten := t.unwritten ++ [w] }
  if t1.next % 8 = 0 then (s.flush uid th t1).modRegsOf uid (fun x => x.setStream r t1.wrote)
  else s.modRegsOf uid (fun x => x.setStream r t1)

/-- Writes a general register of a thread: nothing for g0, a push for a bound out-stream (R103, R186). -/
def State.writeGOf (s : State) (uid : Nat) (r : GReg) (w : Word) : State :=
  if r.val = 0 then s
  else
    match (s.regsOf uid).stream r, s.thread uid with
    | some t, some th => s.pushOut uid th r t w
    | _, _ => s.modThread uid (fun t => { t with ctx := { t.ctx with g := t.ctx.g.set r w } })

/-- Applies a held result (R65 item 3). A special-function request is enqueued elsewhere. -/
def State.applyHeld (s : State) (uid : Nat) (h : Writeback) : State :=
  match h with
  | .g d w => s.writeGOf uid d w
  | .v d w => s.modRegsOf uid (fun x => { x with v := x.v.set d w })
  | .k d w => s.modRegsOf uid (fun x => { x with k := x.k.set d w })
  | .sfu _ => s
  | .lanes l =>
    match s.thread uid with
    | none => s
    | some t => l.foldl (fun s e => s.winWrite uid t e.1 4 e.2) s

/-- A word's result: written now, or held with the bundle when the C word of its pair parked or a later beat is the last (R65, R114). -/
def State.result (s : State) (h : Writeback) : State :=
  if s.bun.hold then s.modMe (fun t => { t with held := t.held ++ [h] }) else s.applyHeld s.uid h

/-- Writes a general register as the word's result. -/
def State.putG (s : State) (d : GReg) (w : Word) : Step := s.checkDest d fun t => .next (t.result (.g d w))

/-- One source, one destination. -/
def State.op1 (s : State) (d a : GReg) (f : Word → Word) : Step := s.getG a fun x t => t.putG d (f x)
/-- Two sources, one destination; field a is read before field b (R65). -/
def State.op2 (s : State) (d a b : GReg) (f : Word → Word → Word) : Step :=
  s.getG a fun x t => t.getG b fun y u => u.putG d (f x y)
/-- Three sources, one destination. -/
def State.op3 (s : State) (d a b c : GReg) (f : Word → Word → Word → Word) : Step :=
  s.getG a fun x t => t.getG b fun y u => u.getG c fun z v => v.putG d (f x y z)
/-- One source, and the old value of the destination, which may not be bound (R127, R175). -/
def State.op1d (s : State) (d a : GReg) (f : Word → Word → Word) : Step :=
  s.notBound d fun s => s.getG a fun x t => t.getG d fun o u => u.putG d (f x o)
/-- Two sources and the old value of the destination. -/
def State.op2d (s : State) (d a b : GReg) (f : Word → Word → Word → Word) : Step :=
  s.notBound d fun s => s.getG a fun x t => t.getG b fun y u => u.getG d fun o v => v.putG d (f x y o)

/-- The vector and mask registers as they stood before the bundle (R65 item 1). -/
def State.vreg (s : State) (r : VReg) : Vector Half 16 := s.bun.v[r]
def State.kreg (s : State) (r : KReg) : BitVec 16 := s.bun.k[r]

end Sys2Proof.Machine
end

