-- ==== Sys2Proof/Machine/Flags.lean ====
section
/-! DEFINITION. The status register and every control register: access checks, values read and effects of a write (R93,
R98, R104 to R109, R231, R232, R244). The Morivo has no condition flags: STAT, CAUSE and the counters are its only status
bits. -/

namespace Sys2Proof.Machine
open Bits Tables

/-- The control registers of R104. -/
inductive Csr where
  | stat | tvec | epc | cause | tval | scratch | it | age | tbm | tid | fda | fdb | fdc | xlist | nbv
  | feretry | fewait | agewait | sndlim | mthr | mxc (n : Fin 4) | crcnt | crterm | cpin | cpout | nwin | nwout
  deriving DecidableEq, Repr

/-- The register with a number (R104). -/
def Csr.ofNum (n : Nat) : Option Csr :=
  match n with
  | 0x000 => some .stat | 0x001 => some .tvec | 0x002 => some .epc | 0x003 => some .cause | 0x004 => some .tval
  | 0x005 => some .scratch | 0x010 => some .it | 0x011 => some .age | 0x012 => some .tbm | 0x013 => some .tid
  | 0x018 => some .fda | 0x019 => some .fdb | 0x01A => some .fdc | 0x020 => some .xlist | 0x021 => some .nbv
  | 0x030 => some .feretry | 0x031 => some .fewait | 0x032 => some .agewait | 0x033 => some .sndlim
  | 0x040 => some .mthr | 0x041 => some (.mxc 0) | 0x042 => some (.mxc 1) | 0x043 => some (.mxc 2)
  | 0x044 => some (.mxc 3) | 0x050 => some .crcnt | 0x051 => some .crterm | 0x060 => some .cpin
  | 0x061 => some .cpout | 0x062 => some .nwin | 0x063 => some .nwout
  | _ => none

/-- Whether task mode may read it (R104). -/
def Csr.taskReads : Csr → Bool
  | .tvec | .epc | .cause | .tval | .scratch => false
  | _ => true

/-- Whether supervisor mode may write it (R104). -/
def Csr.supWrites : Csr → Bool
  | .stat | .tvec | .epc | .cause | .tval | .scratch | .it | .nbv | .feretry | .fewait | .agewait | .sndlim | .mthr =>
    true
  | _ => false

/-- Whether task mode may write it (R104): MTHR alone. -/
def Csr.taskWrites : Csr → Bool
  | .mthr => true
  | _ => false

/-- The bits of a writable register that are no zero or reserved field (R104, R107 to R109, R98, R244). -/
def Csr.fields : Csr → Word
  | .stat => 0xF7
  | .tvec => 0xFFFFFFFFFFF8
  | .epc => 0xFFFFFFFFFFFC
  | .cause => 0xFF
  | .it => 0xFFFFFF
  | .nbv => 1
  | .feretry | .fewait | .agewait | .sndlim => 0xFFFFFFFF
  | .mthr => 0xFFFF
  | _ => 0xFFFFFFFFFFFFFFFF

/-- The kinds of access: `csrr`, `csrw`, `csrs`, `csrc`. -/
inductive CsrUse where | read | write | set | clear
  deriving DecidableEq, Repr

/-- The cause of the trap that an access meets before it takes effect (R105, R138): the number, the mode, then a set bit in
a zero or reserved field. -/
def csrCheck (u : CsrUse) (prv : Bool) (c : BitVec 12) (v : Word) : Option Cause :=
  match Csr.ofNum c.toNat with
  | none => some .illegal
  | some r =>
    match u with
    | .read => if prv || r.taskReads then none else some .priv
    | _ =>
      if !r.supWrites then some .illegal
      else if !prv && !r.taskWrites then some .priv
      else if u != .clear && v &&& ~~~r.fields != 0 then some .illegal
      else none

/-- Whether a core lists an extension (R13). -/
def lists (e : Extension) (cid : Nat) : Bool :=
  match e with
  | .m => !isEdge cid
  | .n => isEdge cid

/-- STAT of the thread in the current slot (R107): SB follows the slot's stream bindings. -/
def statWord (r : SlotRegs) (c : Ctx) : Word :=
  BitVec.ofNat 64 (b2n c.prv + 2 * b2n c.pprv + 4 * b2n c.th + 16 * b2n r.streams[0].isSome +
    32 * b2n r.streams[1].isSome + 64 * b2n r.streams[2].isSome + 128 * b2n r.streams[3].isSome)

/-- The counter record of a tile (R93). -/
def TileCnt.record (t : TileCnt) : Word := BitVec.ofNat 64 (t.bsoc * 2 ^ 32 + t.nanc * 2 ^ 16 + t.satc)

def Core.tile (c : Core) (group t : Nat) : TileCnt := getD c.tileCnt (group * 4 + t) ⟨0, 0, 0⟩

/-- The network queue of a booth in the engine of a core's die (R364). -/
def nqKey (cid booth : Nat) : Nat := (pkgOf cid * 4 + dieOf cid) * 64 + booth
def State.nq (s : State) (key : Nat) : NQueue := getD s.nqs key NQueue.init
def State.setNq (s : State) (key : Nat) (q : NQueue) : State := { s with nqs := put s.nqs key q }

/-- The value of a control register (R104). -/
def State.csr (s : State) (r : Csr) : Word :=
  let t := s.th
  let x := s.slot s.cur
  let b := s.bc s.cid s.booth
  match r with
  | .stat => statWord x.regs t.ctx
  | .tvec => b.tvec
  | .epc => x.regs.epc
  | .cause => x.regs.cause
  | .tval => x.regs.tval
  | .scratch => x.regs.scratch
  | .it => t.ctx.it.setWidth 64
  | .age => t.ctx.age.setWidth 64
  | .tbm => t.ctx.tbm
  | .tid => BitVec.ofNat 64 (tidOf s.cur)
  | .fda => t.ctx.fda
  | .fdb => t.ctx.fdb
  | .fdc => t.ctx.fdc
  | .xlist => if lists .m s.cid then 1 else 2
  | .nbv => if x.regs.nbv then 1 else 0
  | .feretry => b.feretry
  | .fewait => b.fewait
  | .agewait => b.agewait
  | .sndlim => b.sndlim
  | .mthr => x.regs.mthr
  | .mxc n => if lists .m s.cid then ((s.core s.cid).tile (groupOf s.cur) n.val).record else 0
  | .crcnt => BitVec.ofNat 64 x.crCnt
  | .crterm => x.crTerm
  | .cpin => BitVec.ofNat 64 (32 - (s.vq (engOf s.cid) s.booth).queue.length)
  | .cpout => BitVec.ofNat 64 t.cpOut.length
  | .nwin =>
    if !lists .n s.cid then 0 else if s.netForeign then 32 else BitVec.ofNat 64 (32 - (s.nq (nqKey s.cid s.booth)).queue.length)
  | .nwout => if lists .n s.cid then BitVec.ofNat 64 t.nwOut.length else 0

/-- Writes a control register (R105, R106): the copy of the writing core for a booth-owned one; PRV and SB of STAT ignore
the value. -/
def State.setCsr (s : State) (r : Csr) (w : Word) : State :=
  let b := s.bc s.cid s.booth
  match r with
  | .stat => s.modCtx (fun c => { c with pprv := wbit w 1, th := wbit w 2 })
  | .tvec => s.setBc s.cid s.booth { b with tvec := w }
  | .epc => s.modRegs (fun x => { x with epc := w })
  | .cause => s.modRegs (fun x => { x with cause := w })
  | .tval => s.modRegs (fun x => { x with tval := w })
  | .scratch => s.modRegs (fun x => { x with scratch := w })
  | .it => s.modCtx (fun c => { c with it := w.setWidth 24 })
  | .nbv => s.modRegs (fun x => { x with nbv := wbit w 0 })
  | .feretry => s.setBc s.cid s.booth { b with feretry := w }
  | .fewait => s.setBc s.cid s.booth { b with fewait := w }
  | .agewait => s.setBc s.cid s.booth { b with agewait := w }
  | .sndlim => s.setBc s.cid s.booth { b with sndlim := w }
  | .mthr => s.modRegs (fun x => { x with mthr := w })
  | _ => s

/-- `csrr` (R138). -/
def State.csrRead (s : State) (d : GReg) (c : BitVec 12) : Step :=
  match csrCheck .read s.th.ctx.prv c 0, Csr.ofNum c.toNat with
  | none, some r => s.putG d (s.csr r)
  | e, _ => s.trapW (e.getD .illegal)

/-- The value that a write leaves. -/
def CsrUse.merge (u : CsrUse) (old v : Word) : Word :=
  match u with
  | .read => old
  | .write => v
  | .set => old ||| v
  | .clear => old &&& ~~~v

/-- `csrw`, `csrs` and `csrc` (R138). -/
def State.csrWrite (s : State) (u : CsrUse) (c : BitVec 12) (a : GReg) : Step :=
  match csrCheck u s.th.ctx.prv c (s.peekG a), Csr.ofNum c.toNat with
  | none, some r => s.getG a fun v t => .next (t.setCsr r (u.merge (t.csr r) v))
  | e, _ => s.trapW (e.getD .illegal)

end Sys2Proof.Machine
end

