-- ==== Sys2Proof/Machine/Numbers.lean ====
section
/-! DEFINITION. Exact numbers and their rounding to the device's formats (R77 to R99). Every operation computes the exact
value first and rounds it once (R89). -/

namespace Sys2Proof.Exact
open Bits

/-- A floating format: exponent and fraction widths (R77). -/
structure Fmt where
  eb : Nat
  fb : Nat
  deriving DecidableEq, Repr

def f32 : Fmt := ⟨8, 23⟩
def f16 : Fmt := ⟨5, 10⟩
def bf16 : Fmt := ⟨8, 7⟩
def a36 : Fmt := ⟨8, 27⟩

def Fmt.bias (f : Fmt) : Nat := 2 ^ (f.eb - 1) - 1
def Fmt.width (f : Fmt) : Nat := 1 + f.eb + f.fb
/-- The canonical quiet NaN (R79). -/
def Fmt.nan (f : Fmt) : Nat := (2 ^ f.eb - 1) * 2 ^ f.fb + 2 ^ (f.fb - 1)
def Fmt.signBit (f : Fmt) (neg : Bool) : Nat := if neg then 2 ^ (f.eb + f.fb) else 0
def Fmt.inf (f : Fmt) (neg : Bool) : Nat := f.signBit neg + (2 ^ f.eb - 1) * 2 ^ f.fb
/-- The largest finite magnitude's bits (R77). -/
def Fmt.maxBits (f : Fmt) (neg : Bool) : Nat := f.signBit neg + (2 ^ f.eb - 1) * 2 ^ f.fb - 1

/-- An exact value: NaN, a signed infinity, or (-1)^neg * m * 2^e. -/
inductive Val where
  | nan
  | inf (neg : Bool)
  | fin (neg : Bool) (m : Nat) (e : Int)
  deriving DecidableEq, Repr

/-- The value of a bit pattern of a format (R77, R78, R87). -/
def ofBits (f : Fmt) (n : Nat) : Val :=
  let neg := fld n (f.eb + f.fb) (f.eb + f.fb) == 1
  let ex := n / 2 ^ f.fb % 2 ^ f.eb
  let fr := n % 2 ^ f.fb
  if ex = 2 ^ f.eb - 1 then (if fr = 0 then .inf neg else .nan)
  else if ex = 0 then .fin neg fr (1 - (f.bias : Int) - f.fb)
  else .fin neg (2 ^ f.fb + fr) ((ex : Int) - f.bias - f.fb)

/-- A rounding mode with its random bits: `.rs` carries u and n (R89, R90). -/
inductive RMode where
  | rne | rz | rd | ru
  | rs (u n : Nat)
  deriving DecidableEq, Repr

/-- A rounding slot with its random word (R90). -/
def mode (r : Rnd) (u n : Nat) : RMode :=
  match r with
  | .rne => .rne
  | .rz => .rz
  | .rd => .rd
  | .ru => .ru
  | .rs => .rs (u % 2 ^ n) n

/-- Whether the magnitude (k + f/2^d) rounds up (R89, R90). -/
def roundsUp (r : RMode) (neg : Bool) (k f d : Nat) : Bool :=
  match r with
  | .rne => 2 * f > 2 ^ d || (2 * f == 2 ^ d && k % 2 == 1)
  | .rz => false
  | .rd => neg && f != 0
  | .ru => !neg && f != 0
  | .rs u n => f != 0 && (f + (if d ≤ n then u / 2 ^ (n - d) else u * 2 ^ (d - n)) ≥ 2 ^ d)

/-- The multiple of 2^q that the magnitude m * 2^e rounds to, as a count of 2^q. -/
def roundTo (r : RMode) (neg : Bool) (m : Nat) (e q : Int) : Nat :=
  if q ≤ e then m * 2 ^ (e - q).toNat
  else
    let d := (q - e).toNat
    let k := m / 2 ^ d
    if roundsUp r neg k (m % 2 ^ d) d then k + 1 else k

/-- m * 2^e compared with m' * 2^e': whether the first is greater. -/
def magGt (m : Nat) (e : Int) (m' : Nat) (e' : Int) : Bool :=
  if e ≤ e' then m > m' * 2 ^ (e' - e).toNat else m * 2 ^ (e - e').toNat > m'

/-- Whether an exact value's magnitude exceeds the format's largest finite magnitude (R91). -/
def exceeds (f : Fmt) : Val → Bool
  | .fin _ m e => magGt m e (2 ^ (f.fb + 1) - 1) ((f.bias : Int) - f.fb)
  | _ => false

/-- The overflow result without saturation (R89, R90). -/
def overflow (f : Fmt) (r : RMode) (neg : Bool) : Nat :=
  match r with
  | .rne => f.inf neg
  | .rz => f.maxBits neg
  | .rd => if neg then f.inf neg else f.maxBits neg
  | .ru => if neg then f.maxBits neg else f.inf neg
  | .rs _ _ => f.inf neg

/-- Rounds an exact value once to a format (R89 to R91). -/
def round (f : Fmt) (r : RMode) (sat : Bool) (x : Val) : Nat :=
  match x with
  | .nan => f.nan
  | .inf neg => f.inf neg
  | .fin neg m e =>
    if m = 0 then f.signBit neg
    else if sat && exceeds f x then f.maxBits neg
    else
      let t : Int := (log2 m : Int) + e
      let emin : Int := 1 - (f.bias : Int)
      let ex := min (max t emin) (f.bias : Int)
      let q := ex - f.fb
      let k := roundTo r neg m e q
      if k ≥ 2 ^ (f.fb + 1) && ex == (f.bias : Int) then overflow f r neg
      else f.signBit neg + (((ex + f.bias - 1).toNat) * 2 ^ f.fb + k)

/-! ### Exact operations -/

def neg : Val → Val
  | .nan => .nan
  | .inf s => .inf (!s)
  | .fin s m e => .fin (!s) m e

def isNan : Val → Bool
  | .nan => true
  | _ => false

def isInf : Val → Bool
  | .inf _ => true
  | _ => false

/-- A signed integer times 2^e. -/
def ofInt (i : Int) (e : Int) : Val := .fin (i < 0) i.natAbs e

/-- The signed integer of m * 2^e at the scale 2^q, for q at or below e. -/
def atScale (s : Bool) (m : Nat) (e q : Int) : Int :=
  let v : Int := (m * 2 ^ (e - q).toNat : Nat)
  if s then -v else v

/-- The exact sum; an exact sum of opposite values is -0 only when `rd` (R79). -/
def add (rd : Bool) (x y : Val) : Val :=
  match x, y with
  | .nan, _ => .nan
  | _, .nan => .nan
  | .inf s, .inf t => if s == t then .inf s else .nan
  | .inf s, _ => .inf s
  | _, .inf t => .inf t
  | .fin s m e, .fin t n d =>
    let q := min e d
    let i := atScale s m e q + atScale t n d q
    if i = 0 then .fin (if m == 0 && n == 0 && s == t then s else rd) 0 q else ofInt i q

def sub (rd : Bool) (x y : Val) : Val := add rd x (neg y)

/-- The exact product. -/
def mul (x y : Val) : Val :=
  match x, y with
  | .nan, _ => .nan
  | _, .nan => .nan
  | .inf s, .inf t => .inf (s != t)
  | .inf s, .fin t n _ => if n = 0 then .nan else .inf (s != t)
  | .fin s m _, .inf t => if m = 0 then .nan else .inf (s != t)
  | .fin s m e, .fin t n d => .fin (s != t) (m * n) (e + d)

/-- A value with its low bits replaced by a sticky bit, close enough to the exact quotient that one rounding of it is one
rounding of the quotient. -/
def div (x y : Val) : Val :=
  match x, y with
  | .nan, _ => .nan
  | _, .nan => .nan
  | .inf _, .inf _ => .nan
  | .inf s, .fin t _ _ => .inf (s != t)
  | .fin s _ _, .inf t => .fin (s != t) 0 0
  | .fin s m e, .fin t n d =>
    if n = 0 then (if m = 0 then .nan else .inf (s != t))
    else
      let sh := log2 n + 64
      let a := m * 2 ^ sh
      .fin (s != t) (2 * (a / n) + (if a % n = 0 then 0 else 1)) (e - d - sh - 1)

/-- Integer square root: bits i-1 down to 0. -/
def isqrtGo (n : Nat) : Nat → Nat → Nat
  | 0, r => r
  | i + 1, r => if (r + 2 ^ i) * (r + 2 ^ i) ≤ n then isqrtGo n i (r + 2 ^ i) else isqrtGo n i r

def isqrt (n : Nat) : Nat := isqrtGo n (log2 n / 2 + 1) 0

/-- The square root, with a sticky bit (R182). -/
def sqrt : Val → Val
  | .nan => .nan
  | .inf s => if s then .nan else .inf false
  | .fin s m e =>
    if m = 0 then .fin s 0 0
    else if s then .nan
    else
      let m' := if e % 2 = 0 then m else 2 * m
      let e' := if e % 2 = 0 then e else e - 1
      let a := m' * 2 ^ 128
      let r := isqrt a
      .fin false (2 * r + (if r * r = a then 0 else 1)) (e' / 2 - 64 - 1)

/-- 1/√x, with a sticky bit (R182). -/
def rsqrt : Val → Val
  | .nan => .nan
  | .inf s => if s then .nan else .fin false 0 0
  | .fin s m e =>
    if m = 0 then .inf s
    else if s then .nan
    else
      let m' := if e % 2 = 0 then m else 2 * m
      let e' := if e % 2 = 0 then e else e - 1
      let h := log2 m' + 64
      let a := 2 ^ (2 * h)
      let r := isqrt (a / m')
      .fin false (2 * r + (if r * r * m' = a then 0 else 1)) (-(e' / 2) - h - 1)

/-! ### Comparison -/

/-- Whether x < y; a NaN operand makes it false, and -0 equals +0 (R177). -/
def lt (x y : Val) : Bool :=
  match x, y with
  | .nan, _ => false
  | _, .nan => false
  | .inf s, .inf t => s && !t
  | .inf s, _ => s
  | _, .inf t => !t
  | .fin s m e, .fin t n d => let q := min e d; atScale s m e q < atScale t n d q

/-- Whether x = y (R177). -/
def eq (x y : Val) : Bool := !isNan x && !isNan y && !lt x y && !lt y x

/-- Whether x ≤ y (R177). -/
def le (x y : Val) : Bool := lt x y || eq x y

/-- The sign of a value. -/
def isNeg : Val → Bool
  | .nan => false
  | .inf s => s
  | .fin s _ _ => s

def isZero : Val → Bool
  | .fin _ 0 _ => true
  | _ => false

/-- Order with -0 below +0, for min and max (R177). -/
def below (x y : Val) : Bool := lt x y || (isZero x && isZero y && isNeg x && !isNeg y)

/-- `fmin` and `fmax` on bit patterns of a format (R177). -/
def minmaxBits (f : Fmt) (isMax : Bool) (a b : Nat) : Nat :=
  let x := ofBits f a
  let y := ofBits f b
  if isNan x && isNan y then f.nan
  else if isNan x then b
  else if isNan y then a
  else if isMax then (if below x y then b else a)
  else (if below y x then b else a)

/-! ### Conversions (R80, R84, R88) -/

/-- The table T of R83. -/
def lnsT : Nat → Nat
  | 0 => 65536
  | 1 => 77935
  | 2 => 92682
  | _ => 110218

/-- The linear value of an LNS6 code (R81, R83). -/
def ofLns (n : Nat) : Val :=
  let c := n % 32
  let s := n / 32 % 2 == 1
  if c = 0 then (if s then .nan else .fin false 0 0)
  else .fin s (lnsT (c % 4)) ((c / 4 : Nat) - 20)

/-- The number of codes c from 1 to n with y^8 ≥ 2^(2c-33), for y = m * 2^e: the nearest code of R84 cut to [0, n]. -/
def lnsCount (m : Nat) (e : Int) : Nat → Nat
  | 0 => 0
  | c + 1 =>
    (if magGt 1 (2 * ((c : Int) + 1) - 33) (m ^ 8) (8 * e) then 0 else 1) + lnsCount m e c

/-- Conversion to LNS6 (R84). -/
def toLns : Val → Nat
  | .nan => 32
  | .inf s => (if s then 32 else 0) + 31
  | .fin s m e =>
    let c := lnsCount m e 31
    if c = 0 then 0 else (if s then 32 else 0) + c

/-- Whether the magnitude exceeds the range of LNS6: y > 2^3.75 (R84, R91). DEDUCED (log entry 56): an infinite element of an output
block does not count in SATC, as R91 exempts infinite operands; R86 alone could be read otherwise. -/
def lnsExceeds : Val → Bool
  | .fin _ m e => magGt (m ^ 4) (4 * e) 1 15
  | _ => false

/-- Bits and sign of an integer type. -/
structure ITyp where
  signed : Bool
  w : Nat
  deriving DecidableEq, Repr

def ITyp.max (t : ITyp) : Int := if t.signed then 2 ^ (t.w - 1) - 1 else 2 ^ t.w - 1
def ITyp.min (t : ITyp) : Int := if t.signed then -(2 ^ (t.w - 1)) else 0

/-- A floating value to an integer type: rounded to an integer, then the table of R88. The result is w bits. -/
def toInt (t : ITyp) (r : RMode) (sat : Bool) (x : Val) : Nat :=
  let indef := if t.signed then 2 ^ (t.w - 1) else 2 ^ t.w - 1
  let clip (i : Int) : Nat := (i % (2 ^ t.w : Int)).toNat
  match x with
  | .nan => if sat then 0 else indef
  | .inf s => if sat then clip (if s then t.min else t.max) else indef
  | .fin s m e =>
    let k : Int := roundTo r s m e 0
    let i := if s then -k else k
    if t.min ≤ i && i ≤ t.max then clip i
    else if sat then clip (if i < t.min then t.min else t.max)
    else indef

/-- The value of a general register or lane as a conversion source (R178). -/
def ofCTy (t : CTy) (n : Nat) : Val :=
  match t with
  | .f32 => ofBits f32 (n % 2 ^ 32)
  | .f16 => ofBits f16 (n % 2 ^ 16)
  | .bf16 => ofBits bf16 (n % 2 ^ 16)
  | .l6 => ofLns (n % 64)
  | .a36 => ofBits a36 (n % 2 ^ 36)
  | .s32 => ofInt (toSigned n 32) 0
  | .s64 => ofInt (toSigned n 64) 0
  | .z32 => .fin false (n % 2 ^ 32) 0
  | .z64 => .fin false (n % 2 ^ 64) 0

/-- Conversion of an exact value to a type; the result fills the type's own bits (R88). -/
def toCTy (t : CTy) (r : RMode) (sat : Bool) (x : Val) : Nat :=
  match t with
  | .f32 => round f32 r sat x
  | .f16 => round f16 r sat x
  | .bf16 => round bf16 r sat x
  | .l6 => toLns x
  | .a36 => round a36 r sat x
  | .s32 => toInt ⟨true, 32⟩ r sat x
  | .s64 => toInt ⟨true, 64⟩ r sat x
  | .z32 => toInt ⟨false, 32⟩ r sat x
  | .z64 => toInt ⟨false, 64⟩ r sat x

/-- The compensated-pair rule of R96 on one 32-bit word. -/
def pairAdd (word x : Nat) : Nat :=
  let s := add false (add false (ofBits bf16 (word / 65536 % 65536)) (ofBits bf16 (word % 65536))) (ofBits f32 (x % 2 ^ 32))
  let v := round bf16 .rne false s
  match ofBits bf16 v with
  | .fin n m e => v * 65536 + round bf16 .rne false (sub false s (.fin n m e))
  | _ => v * 65536

/-- Round to a 24-bit significand, held in A36 (R99). -/
def rnd24 (sat : Bool) (x : Val) : Nat := round f32 .rne sat x * 16

/-! ### Elementary functions (R182), in fixed point with 512 fraction bits -/

def prec : Nat := 512
def one : Int := 2 ^ prec

/-- Σ t_i of the exponential series, t_(i) = t_(i-1) * y / i. -/
def expGo (y : Int) : Nat → Nat → Int → Int → Int
  | 0, _, _, acc => acc
  | n + 1, i, t, acc => let t' := t * y / (one * i); expGo y n (i + 1) t' (acc + t')

def sqGo : Nat → Int → Int
  | 0, x => x
  | n + 1, x => sqGo n (x * x / one)

/-- e^y for a fixed-point y of small magnitude. -/
def expFix (y : Int) : Int := sqGo 8 (expGo (y / 256) 120 1 one one)

/-- The series of atan (sgn = -1) or atanh (sgn = 1) of z. -/
def atanGo (z2 sgn : Int) : Nat → Nat → Int → Int → Int
  | 0, _, _, acc => acc
  | n + 1, i, p, acc => let p' := p * z2 / one * sgn; atanGo z2 sgn n (i + 2) p' (acc + p' / (i : Int))

def atanSeries (z sgn : Int) (n : Nat) : Int := atanGo (z * z / one) sgn n 3 z z

def ln2 : Int := 2 * atanSeries (one / 3) 1 170
def piFix : Int := 16 * atanSeries (one / 5) (-1) 120 - 4 * atanSeries (one / 239) (-1) 40

/-- Σ of the sine or cosine series from a first term: t_(i) = -t_(i-1) * y² / ((i+1)(i+2)). -/
def trigGo (y2 : Int) : Nat → Nat → Int → Int → Int
  | 0, _, _, acc => acc
  | n + 1, i, t, acc => let t' := -(t * y2) / (one * ((i + 1) * (i + 2) : Nat)); trigGo y2 n (i + 2) t' (acc + t')

def sinFix (y : Int) : Int := trigGo (y * y / one) 80 1 y y
def cosFix (y : Int) : Int := trigGo (y * y / one) 80 0 one one

/-- m * 2^e as fixed point, rounded down. -/
def toFix (s : Bool) (m : Nat) (e : Int) : Int :=
  let v : Int := if 0 ≤ e + prec then (m * 2 ^ (e + prec).toNat : Nat) else (m / 2 ^ (-(e + prec)).toNat : Nat)
  if s then -v else v

/-- A fixed-point approximation as a value with a sticky bit below it. -/
def sticky (i : Int) (e : Int) : Val := ofInt (2 * i + 1) (e - prec - 1)

/-- 2^x. -/
def ex2 : Val → Val
  | .nan => .nan
  | .inf s => if s then .fin false 0 0 else .inf false
  | .fin s m e =>
    if m = 0 then .fin false 1 0
    else if magGt m e 1 10 then (if s then .fin false 1 (-2000) else .fin false 1 2000)
    else
      let y := toFix s m e
      let n := y / one
      let f := y % one
      if f = 0 then .fin false 1 n else sticky (expFix (f * ln2 / one)) n

/-- log₂ x. -/
def lg2 : Val → Val
  | .nan => .nan
  | .inf s => if s then .nan else .inf false
  | .fin s m e =>
    if m = 0 then .inf true
    else if s then .nan
    else
      let l := log2 m
      let n : Int := e + l
      if m = 2 ^ l then ofInt n 0
      else
        let a : Int := (m * 2 ^ prec / 2 ^ l : Nat)
        let z := (a - one) * one / (a + one)
        sticky (n * one + 2 * atanSeries z 1 170 * one / ln2) 0

/-- sin or cos of a finite value, by quadrant. -/
def sinCos (s : Bool) (m : Nat) (e : Int) (cosine : Bool) : Val :=
  let y := toFix s m e
  let half := piFix / 2
  let k := y / half
  let r := y - k * half
  let q := (k + (if cosine then 1 else 0)) % 4
  if q = 0 then sticky (sinFix r) 0
  else if q = 1 then sticky (cosFix r) 0
  else if q = 2 then sticky (-(sinFix r)) 0
  else sticky (-(cosFix r)) 0

def sin : Val → Val
  | .nan => .nan
  | .inf _ => .nan
  | .fin s m e => if m = 0 then .fin s 0 0 else sinCos s m e false

def cos : Val → Val
  | .nan => .nan
  | .inf _ => .nan
  | .fin s m e => if m = 0 then .fin false 1 0 else sinCos s m e true

/-- tanh x. -/
def tanh : Val → Val
  | .nan => .nan
  | .inf s => .fin s 1 0
  | .fin s m e =>
    if m = 0 then .fin s 0 0
    else
      let y := if magGt m e 20 0 then none else some (expFix (2 * toFix false m e))
      let v := match y with
        | none => .fin false (2 ^ 64 - 1) (-64)
        | some t => sticky ((t - one) * one / (t + one)) 0
      if s then neg v else v

/-- The special-function unit's operation (R182), on FP32 bits. -/
def special (op : Nat) (a b : Nat) : Nat :=
  let x := ofBits f32 a
  let r := match op with
    | 0 => div (.fin false 1 0) x
    | 1 => rsqrt x
    | 2 => sqrt x
    | 3 => div x (ofBits f32 b)
    | 4 => ex2 x
    | 5 => lg2 x
    | 6 => sin x
    | 7 => cos x
    | _ => tanh x
  round f32 .rne false r

/-! ### Merges (R97) -/

/-- One merge of a reduction on floating bits: add, min or max; a NaN makes the result the canonical NaN (R97). DESIGN CHOICE (log entry
84): R228 lets REDUCE's min and max follow R177, which would return the other operand; R97 is the rule of the reduction itself. -/
def mergeFloat (f : Fmt) (op : RedOp) (a b : Nat) : Nat :=
  if isNan (ofBits f a) || isNan (ofBits f b) then f.nan
  else match op with
  | .min => minmaxBits f false a b
  | .max => minmaxBits f true a b
  | _ => round f .rne false (add false (ofBits f a) (ofBits f b))

/-- One merge on integers of width w. -/
def mergeInt (signed : Bool) (w : Nat) (op : RedOp) (a b : Nat) : Nat :=
  let less := if signed then toSigned a w < toSigned b w else a % 2 ^ w < b % 2 ^ w
  match op with
  | .add => (a + b) % 2 ^ w
  | .min => if less then a else b
  | .max => if less then b else a
  | .and => a &&& b
  | .or => a ||| b
  | .xor => a ^^^ b

/-- Folds a list by slices of z elements: partial results left to right, then the partials left to right (R97). -/
def sliceFold {α : Type} (merge : α → α → α) (z : Nat) : List α → Nat → Option α → Option α → Option α
  | [], _, part, res =>
    match part, res with
    | some p, some r => some (merge r p)
    | some p, none => some p
    | none, r => r
  | x :: xs, n, part, res =>
    match part with
    | none => sliceFold merge z xs 1 (some x) res
    | some p =>
      if n < z then sliceFold merge z xs (n + 1) (some (merge p x)) res
      else sliceFold merge z xs 1 (some x) (match res with | none => some p | some r => some (merge r p))

/-- The reduction of R97 with slice size z. -/
def reduce {α : Type} (merge : α → α → α) (z : Nat) (ident : α) (xs : List α) : α :=
  (sliceFold merge z xs 0 none none).getD ident

end Sys2Proof.Exact
end

