-- ==== Sys2Proof/Machine/Home.lean ====
section
/-! DEFINITION. What a home core does, and how replies and fences end: the arrival log (R211 to R213), wait lists (R151),
aged requests (R156 to R158), replies (R145), first refusals (R215) and fences (R166). -/

namespace Sys2Proof.Machine
open Bits Tables

/-! ### The special-function queue (R183) -/

/-- Requests of a booth's share in the queue of a core: those made from its slot groups. -/
def Core.sfuShare (c : Core) (booth : Nat) : Nat :=
  (c.sfuQ.filter (fun r => c.owners.toList[r.group]? == some (some booth))).length

/-- Two entries for each slot group that the booth owns on the core. -/
def Core.sfuRoom (c : Core) (booth : Nat) : Nat := 2 * (c.owners.toList.filter (· == some booth)).length

/-- Marks a register pending and puts the request at the tail of the queue (R183 item 1). -/
def State.sfuEnter (s : State) (cid : Nat) (r : SfuReq) : State :=
  let c := s.core cid
  (s.setCore cid { c with sfuQ := c.sfuQ ++ [r] }).modThread r.uid (fun t => { t with sfuPend := t.sfuPend ||| (1#16 <<< r.d.val) })

/-! ### Ends of bundles -/

/-- A result that waited for the bundle's end is written. A special-function request that finds its share full waits outside the
queue (R183 item 2). -/
def State.applyResult (s : State) (uid : Nat) (h : Writeback) : State :=
  match h, s.thread uid with
  | .sfu r, some t =>
    let cid := cidOf t.key
    let c := s.core cid
    if c.sfuRoom t.booth ≤ c.sfuShare t.booth then
      (s.setCore cid { c with sfuWait := c.sfuWait ++ [r] }).modThread uid (fun t => { t with wait := .sfuQueue })
    else s.sfuEnter cid r
  | .sfu _, none => s
  | h, _ => s.applyHeld uid h

/-- A thread's C word has ended: the held results are written and the thread may issue, or the beats of its bundle go on (R65 items 3
and 4). -/
def State.finish (s : State) (uid : Nat) : State :=
  match s.thread uid with
  | none => s
  | some t =>
    if t.beats = 0 then t.held.foldl (fun s h => s.applyResult uid h) (s.setThread uid { t.woken s.cycle with held := [], aRan := false })
    else s.setThread uid (t.woken s.cycle)

/-- The word that completes is the C word: a lone one, or one whose A word stands held. -/
def State.complete (s : State) (uid : Nat) (d : GReg) (w : Option Word) : State :=
  match w with
  | none => s.finish uid
  | some v => (s.writeGOf uid d v).finish uid

/-! ### First refusals (R215) -/

/-- The narrowest scope within which a home lies, seen from a core (R38). -/
def scopeCode (cid home : Nat) : Nat :=
  if cid = home then 0
  else if engOf cid = engOf home then 1
  else if pkgOf cid ≠ pkgOf home then 4
  else if dieOf cid = dieOf home then 2 else 3

def State.refuse (s : State) (uid va home : Nat) : State :=
  s.modThread uid (fun t =>
    let c := scopeCode (cidOf t.key) home
    { t with refusal := match t.refusal with
      | none => some ⟨va, c, 0⟩
      | some r => some { r with code := min r.code c, count := min 4095 (r.count + 1) } })

/-! ### Fences (R166) -/

def coresOf (eng : Nat) : List Nat := (List.range 16).map (fun i => eng * 16 + i)

/-- The engine numbers of a die's clusters whose TBM bit is set. -/
def probedClusters (tbm : Word) (pkg die : Nat) : List Nat :=
  ((List.range 128).filter (fun c => tbm.getLsbD (c % 64))).map (fun c => engOf (mkCid false pkg die c 0))

/-- Core 0 of each edge group of a die whose bit is set. -/
def probedEdges (tbm : Word) (pkg die : Nat) : List Nat :=
  ((List.range 4).filter (fun g => tbm.getLsbD g)).map (fun g => mkCid true pkg die g 0)

/-- The cores that a fence of a scope probes (R166 step 3). -/
def probes (cid : Nat) (tbm : Word) (scope : Nat) : List Nat :=
  let p := pkgOf cid
  if scope = 0 then (if tbm.getLsbD (tbmBit cid) then [cid] else [])
  else if scope = 1 then (if tbm.getLsbD (tbmBit cid) then coresOf (engOf cid) else [])
  else if scope = 2 then
    (probedClusters tbm p (dieOf cid)).flatMap coresOf ++ probedEdges tbm p (dieOf cid)
  else (List.range 4).flatMap (fun d => (probedClusters tbm p d).flatMap coresOf ++ probedEdges tbm p d)

/-- Steps 1 and 2 of R166 have nothing to wait for. -/
def Thread.settled (t : Thread) (scope : Nat) : Bool := t.spray.isEmpty && (scope < 4 || t.offPkg.isEmpty)

/-- Step 3: the probes travel in the ordered class. -/
def State.sendProbes (s : State) (uid : Nat) (t : Thread) (ps : List Nat) : State :=
  ps.foldl (fun s c => s.inject (s.newMsg (cidOf t.key) c t.booth uid (tidOf t.key) 0 .probe)) s

/-- Whether the first-refusal record is covered by a fence of a scope (R166 step 6, R215). -/
def Thread.covered (t : Thread) (scope : Nat) : Option NackRec :=
  match t.refusal with
  | none => none
  | some r => if r.code ≤ scope then some r else none

/-- A fence's echoes are all in: TBM is cleared at scopes 3 and 4, a covered refusal traps, and the instruction completes
or its bundle is issued again. -/
def State.fenceEnd (s : State) (uid scope : Nat) (cont : FenceCont) : State :=
  match s.thread uid with
  | none => s
  | some t =>
    match t.covered scope with
    | some r =>
      (s.setThread uid { t with refusal := none }).lateTrap uid Cause.remoteNack.code (BitVec.ofNat 64 (tvV 0 r.va))
    | none =>
      let s1 := s.setThread uid { t with ctx := if 3 ≤ scope then { t.ctx with tbm := 0 } else t.ctx }
      match cont with
      | .complete => s1.finish uid
      | .again | .depart => s1.modThread uid (fun t => t.woken s.cycle)

/-- Moves a waiting fence on when its acknowledgements are in. -/
def State.fenceAdvance (s : State) (uid : Nat) : State :=
  match s.thread uid with
  | none => s
  | some t =>
    match t.wait with
    | .fence scope false _ cont =>
      if t.settled scope then
        let ps := probes (cidOf t.key) t.ctx.tbm scope
        if ps.isEmpty then s.fenceEnd uid scope cont
        else (s.sendProbes uid t ps).modThread uid (fun t => { t with wait := .fence scope true ps cont })
      else s
    | _ => s

/-- A fence as the current word or as its first step (R15, R166, R171, R300): with nothing outstanding and no bit set it
passes at once; a covered refusal traps. -/
def State.fenceStep (s : State) (scope : Nat) (cont : FenceCont) (k : State → Step) : Step :=
  let t := s.th
  let ps := probes s.cid t.ctx.tbm scope
  if t.settled scope && ps.isEmpty then
    match t.covered scope with
    | some r => .trapAt (s.modMe (fun t => { t with refusal := none })) Cause.remoteNack.code (tvV 0 r.va)
    | none => k (if 3 ≤ scope then s.modCtx (fun c => { c with tbm := 0 }) else s)
  else
    let s1 := s.modMe (fun t => { t with
      wait := .fence scope false [] cont
      ctx := if cont = .complete then t.ctx else { t.ctx with pc := BitVec.ofNat 48 s.bun.pc } })
    if cont = .complete then .park (s1.fenceAdvance s.uid) else .fenced (s1.fenceAdvance s.uid)

/-! ### The arrival log (R211 to R213) -/

/-- Which OPS bit an operation code falls under (R211, R212): engine reads and writes as loads and stores. -/
def logKind (op : Nat) : Nat := if op = 0 || op = 9 then 0 else if op = 1 || op = 10 then 1 else if op ≤ 3 then 2 else 3

/-- One log entry's facts. -/
structure LogRec where
  op : Nat
  size : Nat
  cls : Nat
  comb : Bool
  va : Nat
  srck : Nat
  src : Nat
  data : Nat
  deriving DecidableEq, Repr

/-- Whether an access matches an entry of a booth's WATCH table. DESIGN CHOICE (log entry 85): of a booth on several packages, the table of
the home's package (R211). -/
def State.watched (s : State) (pkg booth va op : Nat) : Bool :=
  (List.range 16).any (fun i =>
    let e := getD s.watch (pkg * 1024 + booth * 16 + i) (0, 0)
    wbit e.1 63 && wfld e.1 47 16 ≤ fld va 47 16 && fld va 47 16 ≤ wfld e.2 47 16 && wbit e.2 (logKind op))

/-- The home appends an access to the booth's ring, if the ring exists and the access is watched. -/
def State.log (s : State) (home booth : Nat) (r : LogRec) : State :=
  match find s.rings (home * 64 + booth) with
  | none => s
  | some g =>
    if s.watched (pkgOf home) booth r.va r.op then
      let a := g.base + 32 * ((g.seq - 1) % 2 ^ g.k)
      let w1 := r.op * 2 ^ 60 + r.size * 2 ^ 58 + r.cls * 2 ^ 57 + b2n r.comb * 2 ^ 56 + r.va % 2 ^ 48
      let v := g.seq % 2 ^ 64 + w1 * 2 ^ 64 + (r.srck * 2 ^ 62 + r.src) * 2 ^ 128 + r.data % 2 ^ 64 * 2 ^ 192
      let s1 := s.modMem (fun m => (m.under a (s.boothKey (pkgOf home) booth) true).write a 32 v)
      { s1 with rings := put s1.rings (home * 64 + booth) { g with seq := g.seq + 1, count := g.count + 1 } }
    else s

def sizeLog (n : Nat) : Nat := if n = 1 then 0 else if n = 2 then 1 else if n = 4 then 2 else 3

/-- The log entry of an access (R212): a thread's or the host's own operation, or an engine's read (9) or write (10). -/
def Msg.logRec (m : Msg) (op n : Nat) (data : Nat) : LogRec :=
  let eng := if logKind op = 0 || op = 7 then 9 else 10
  let x := match m.party with
    | .core => (op, 0)
    | .copy _ => (eng, 1)
    | .net _ => (eng, 2)
    | .host _ => (op, 3)
  ⟨x.1, sizeLog n, m.chan % 2, false, m.va, x.2, m.tid, data⟩

/-! ### Performing accesses at the home -/

def Answer.value (w : Word) : Answer := ⟨some w, none, none, 0, 0⟩
def Answer.none : Answer := ⟨Option.none, Option.none, Option.none, 0, 0⟩

/-- The value of a load: n bytes, extended (R147). -/
def loadValue (m : Memory) (ga n : Nat) (signed : Bool) : Word :=
  if signed then sext (m.read ga n) (8 * n) else BitVec.ofNat 64 (m.read ga n)

/-- The new value of an atomic at width w bits (R161). -/
def amoValue (op : AmoOp) (w m x : Nat) : Nat :=
  match op with
  | .add => (m + x) % 2 ^ w
  | .and => m &&& x
  | .or => m ||| x
  | .xor => m ^^^ x
  | .min => if toSigned x w < toSigned m w then x else m
  | .max => if toSigned m w < toSigned x w then x else m
  | .minz => min m x
  | .maxz => max m x
  | .swap => x
  | .fadd => Exact.round Exact.f32 .rne false (Exact.add false (Exact.ofBits Exact.f32 m) (Exact.ofBits Exact.f32 x))

/-- Whether the home still maps the page of a request for its booth (R149). -/
def State.stillMapped (s : State) (m : Msg) : Bool :=
  match s.pageFor m.pkg m.booth m.va with
  | none => false
  | some p => p.home == m.dst && p.base + (m.va - p.va) == m.ga

/-- Whether a scratchpad word lies in a bank of another booth by now (R24, R142). -/
def State.foreignBank (s : State) (m : Msg) : Bool := 2 ^ 64 ≤ m.ga && !s.ownsOff m.dst m.booth (m.ga % 2 ^ 17)

/-- Whether the home refuses a request: it is lost, or no longer maps the page (R149), or the bank has another owner (R142), or the
address lies beyond installed CXL memory (R141). -/
def State.refuses (s : State) (m : Msg) (n : Nat) : Bool :=
  (s.core m.dst).lost || !s.stillMapped m || s.foreignBank m || !s.installed m.ga n

/-- A posted access of a thread is performed, or refused: a link pop that waits for it may go on (R267). -/
def State.oneLess (s : State) (uid : Nat) : State :=
  match s.thread uid with
  | some t => if t.wait == .retry .stores then s.setThread uid (t.woken s.cycle) else s
  | none => s

/-- The refusal of an access: a trap for a waited-for one, a refusal message for a posted one (R141, R149). -/
def State.sendRefusal (s : State) (m : Msg) (n : Nat) : State :=
  if m.posted then (s.oneLess m.uid).answer m (.refusal m.va)
  else if s.installed m.ga n then s.answer m (.trapReply Cause.remoteNack.code (tvV 0 m.va))
  else s.answer m (.trapReply Cause.access.code (tvV 3 m.va))

/-- What a posted access sends back once performed: an acknowledgement, or a place in a credit (R344). -/
def State.settle (s0 : State) (m : Msg) : State :=
  let s := s0.oneLess m.uid
  if m.ack then s.answer m .ack
  else
    let key := m.dst * 2 ^ 32 + m.src * 64 + m.booth
    let u := getD s.uncredited key (0, false, s.cycle)
    let c := (u.1 + 1, u.2.1 || m.mark, u.2.2)
    if c.1 < 8 then { s with uncredited := put s.uncredited key c }
    else { s with uncredited := del s.uncredited key }.answer { m with mark := c.2.1 } (.credit c.1)

/-! ### Full/empty wait lists (R151, R152) -/

/-- Delivers an answer: to a waiting thread of the own core at once, else by a reply message. -/
def State.reply (s : State) (m : Msg) (v : Option Word) : State :=
  if m.src = m.dst && m.ga ≥ 2 ^ 64 then
    match s.thread m.uid with
    | none => s
    | some t => if t.wait == .reply m.mid then s.complete m.uid m.d v else s
  else s.answer m (.reply ⟨v, none, none, 0, 0⟩)

/-- A trap for a parked request. -/
def State.replyTrap (s : State) (m : Msg) (cause tval : Nat) : State :=
  if m.src = m.dst && m.ga ≥ 2 ^ 64 then
    match s.thread m.uid with
    | none => s
    | some t => if t.wait == .reply m.mid then s.lateTrap m.uid cause (BitVec.ofNat 64 tval) else s
  else s.answer m (.trapReply cause tval)

/-- Performs a synchronising access: effect, log entry, answer. -/
def State.syncPerform (s : State) (m : Msg) (op : SyncOp) (data : Word) : State :=
  let s0 := s.underKey m (!op.isLoad)
  let r := op.perform s0.mem m.ga data
  let s1 := s0.modMem (fun _ => r.1)
  let s2 := if m.ga ≥ 2 ^ 64 then s1
    else s1.log m.dst m.booth (m.logRec (if op.isLoad then 4 else 5) 8 (if op.isLoad then 0 else data.toNat))
  s2.reply m r.2

/-- One walk of the requests parked on a word, in order of arrival: each is tried once (R151). One that has been tried
FERETRY + 1 times is tried no more and waits for its trap (R152). -/
def State.walkGo (s : State) (ga : Nat) : List Parked → State
  | [] => s
  | p :: ps =>
    match p.msg.body with
    | .req (.sync op data retry _) =>
      if p.msg.ga = ga then
        if retry ≠ 0 && retry < p.tries then { s with feWait := s.feWait ++ [p] }.walkGo ga ps
        else if op.ready (s.mem.isFull ga) then (s.syncPerform p.msg op data).walkGo ga ps
        else { s with feWait := s.feWait ++ [{ p with tries := p.tries + 1 }] }.walkGo ga ps
      else { s with feWait := s.feWait ++ [p] }.walkGo ga ps
    | _ => s.walkGo ga ps

def State.walkWord (s : State) (ga : Nat) : State :=
  { s with feWait := [] }.walkGo (ga - ga % 8) s.feWait

/-- Writes a word and sets it full, by a gate or a term (R230, R234): a change of state walks its list. -/
def State.fillWord (s : State) (ga v : Nat) : State :=
  let was := s.mem.isFull ga
  let s1 := s.modMem (fun m => (m.write ga 8 v).setFull ga true)
  if was then s1 else s1.walkWord ga

/-- A synchronising access reaches its word (R151): performed, with a walk if the state changed, or parked. -/
def State.syncArrive (s : State) (m : Msg) (op : SyncOp) (data : Word) : State :=
  let was := s.mem.isFull m.ga
  if op.ready was then
    let s1 := s.syncPerform m op data
    if s1.mem.isFull m.ga == was then s1 else s1.walkWord m.ga
  else { s with feWait := s.feWait ++ [⟨m, s.cycle, 1⟩] }

/-! ### Aged blocks (R156 to R158, R207) -/

/-- Whether a block's age meets a lag (R44). -/
def lagMet (age lag it : Nat) : Bool := it ≤ age + lag

def inStopList (s : State) (home booth tid : Nat) : Bool := (getD s.stops (home * 64 + booth) []).contains tid

/-- The answer of a satisfied aged request: the word, or the block with its full/empty bits. -/
def agedAnswer (m : Memory) (ga : Nat) (r : Req) (age : Nat) : Answer :=
  match r with
  | .lda w _ _ _ _ => ⟨some (m.word (ga - ga % 512 + w)), some age, none, 0, 0⟩
  | .fetcha f _ _ _ _ =>
    ⟨none, some age, some f, m.read (ga - ga % 512) 512, m.fulls (ga - ga % 512) 64⟩
  | _ => Answer.none

/-- Lag, mode, iteration and limit of an aged request. -/
def agedParams : Req → Option (Nat × Bool × Nat × Nat)
  | .lda _ p l i t => some (l, p, i, t)
  | .fetcha _ p l i t => some (l, p, i, t)
  | _ => none

def agedOp : Req → Nat
  | .fetcha _ _ _ _ _ => 7
  | _ => 6

/-- One try of an aged request (R156): satisfied, trapped, or still unmet. -/
def State.agedTry (s : State) (m : Msg) (r : Req) : Option State :=
  match agedParams r with
  | none => none
  | some (lag, park, it, _) =>
    let b := s.mem.block m.ga
    if lagMet b.age lag it then
      let va := if agedOp r = 7 then m.va - m.va % 512 else m.va
      let s1 := s.underKey m false
      some ((s1.log m.dst m.booth { m.logRec (agedOp r) 8 0 with va := va }).answer m
        (.reply (agedAnswer s1.mem m.ga r b.age)))
    else if !park then some (s.answer m (.trapReply Cause.lagUnmet.code b.age))
    else if inStopList s m.dst m.booth b.writer then
      some (s.answer m (.trapReply Cause.lagWriterStopped.code (b.age * 2 ^ 32 + b.writer)))
    else none

/-- Tries the requests parked on a block, in order of arrival (R156, R207). -/
def State.agedGo (s : State) (blk : Nat) : List Parked → State
  | [] => s
  | p :: ps =>
    match p.msg.body with
    | .req r =>
      if p.msg.ga - p.msg.ga % 512 = blk then
        match s.agedTry p.msg r with
        | some s1 => s1.agedGo blk ps
        | none => { s with agedWait := s.agedWait ++ [p] }.agedGo blk ps
      else { s with agedWait := s.agedWait ++ [p] }.agedGo blk ps
    | _ => s.agedGo blk ps

def State.agedWalk (s : State) (blk : Nat) : State := { s with agedWait := [] }.agedGo blk s.agedWait

/-- Walks the wait lists of the n words from an address whose state a publish changed. -/
def State.walkWords (s : State) (a : Nat) : Nat → Nat → State
  | 0, _ => s
  | n + 1, was => (if was % 2 = 1 then s else s.walkWord a).walkWords (a + 8) n (was / 2)

/-- Whether a publish is applied: a stale one is not (R158). -/
def State.pubApplies (s : State) (ga it : Nat) : Bool := (s.mem.block ga).age ≤ it

/-- The publisher is no longer taken as stopped, whether its publish is applied or stale (R157). -/
def State.unstop (s : State) (home booth writer : Nat) : State :=
  { s with stops := put s.stops (home * 64 + booth) ((getD s.stops (home * 64 + booth) []).filter (· != writer)) }

/-- A publish is applied (R158): the block's data, its full words, its age and writer. -/
def Memory.publish (m : Memory) (ga data it writer : Nat) : Memory :=
  let blk := ga - ga % 512
  ((m.write blk 512 data).setFulls blk 64 (2 ^ 64 - 1)).setBlock blk ⟨it, writer⟩

/-- The requests that an applied publish releases: the aged ones of the block, then those of its words (R151, R207). -/
def State.released (s : State) (ga was : Nat) : State :=
  let blk := ga - ga % 512
  (s.agedWalk blk).walkWords blk 64 was

/-! ### Replies reach their threads -/

/-- A tag entry's word (R169). -/
def tagWord (v : Bool) (owner age : Nat) : Word := BitVec.ofNat 64 (b2n v * 2 ^ 63 + owner * 2 ^ 56 + age)

/-- A block enters a frame of a core with its age, owner and full/empty bits (R156). -/
def State.frameIn (s : State) (cid frame va age owner data full : Nat) : State :=
  let at0 := spad cid (frame * 512)
  let was := s.mem.fulls at0 64
  let s1 := s.modMem (fun x => (x.write at0 512 data).setFulls at0 64 full)
  let c := s1.core cid
  (s1.setCore cid { c with tags := put c.tags frame ⟨va / 512, true, age, owner⟩ }).walkWords at0 64 (2 ^ 64 - 1 - (was ^^^ full))

/-- A block enters a frame of a thread's window, wherever the bank stands (R19, R156, R321, R322, R332). -/
def State.frameTo (s : State) (uid : Nat) (t : Thread) (frame va age data full : Nat) : State :=
  let f := frame % 16
  match s.bankAt uid t (frame / 16) with
  | .core => s.frameIn (cidOf t.key) frame va age (slotOf t.key) data full
  | .area p base key =>
    let put (s : State) (off n v : Nat) : State := s.spaceWrite p 0 (base + off) n v true (some (s.keyId p key))
    let s1 := put s (0x1000 + 512 * f) 512 data
    let s2 := put s1 (0xC00 + 8 * f) 8 full
    put s2 (0x800 + 16 * f) 16 ((tagWord true (slotOf t.key) age).toNat + va / 512 * 2 ^ 64)
  | .moved w => s.modMoved w (fun b => { b with
      data := patch b.data (4096 * f) 4096 data, full := patch b.full (64 * f) 64 full
      tags := setAt b.tags f ⟨va / 512, true, age, slotOf t.key⟩ })
  | .blank => s

/-- Whether the thread's booth owns the bank of a frame now: a resize may have freed it (R24, R156). -/
def State.frameOwned (s : State) (t : Thread) (frame : Nat) : Bool :=
  t.place == .area || s.ownsOff (cidOf t.key) t.booth (frame * 512)

/-- The effect of a reply on its thread (R145, R156): the frame of a `fetcha`, AGE, the destination register. -/
def State.deliver (s : State) (m : Msg) (a : Answer) : State :=
  match s.thread m.uid with
  | none => s
  | some t =>
    if t.wait.awaits m.mid then
      match a.frame with
      | none => answered s
      | some f =>
        if s.frameOwned t f then answered (s.frameTo m.uid t f m.va (a.age.getD 0) a.data a.full)
        else s.lateTrap m.uid Cause.storeXlate.code (BitVec.ofNat 64 (tvV 1 (winBase + 512 * f)))
    else s
where
  answered (s1 : State) : State :=
      let s2 := match a.age with
        | none => s1
        | some g => s1.modThread m.uid (fun t => { t with ctx := { t.ctx with age := BitVec.ofNat 24 g } })
      s2.complete m.uid m.d a.val

end Sys2Proof.Machine
end

