-- ==== Sys2Proof/Machine/Control.lean ====
section
/-! DEFINITION. System instructions, control-register access, jumps, calls and branches: majors 0 to 15 (R130 to R139). -/

namespace Sys2Proof.Machine
open Bits

/-! ### Operations shared by the meanings -/

/-- A supervisor instruction in task mode traps PRIV (R74 step 4, R110). -/
def State.supervisor (s : State) (k : Step) : Step := if s.th.ctx.prv then k else s.trapW .priv

/-- The next bundle of the thread is fetched at an address, modulo 2^48 (R130 to R132). -/
def State.goTo (s : State) (pc : BitVec 48) : State := s.modCtx (fun c => { c with pc := pc })

/-- The target of a displacement in words from the bundle address (R68). -/
def State.target {n : Nat} (s : State) (t : BitVec n) : BitVec 48 := BitVec.ofInt 48 (s.bun.pc + 4 * t.toInt)

/-- The address of the bundle after this one (R131). DEDUCED (log entry 56): at the top of the 48-bit space it wraps to 0, as the PC and
a branch target do (R66, R68); R131 names no modulus for the link. -/
def State.link (s : State) : Word := BitVec.ofNat 64 ((s.bun.pc + s.bun.size) % 2 ^ 48)

/-- A jump to the address in a register; a misaligned one traps ALIGN (R132). -/
def State.goReg (s : State) (v : Word) (k : State → Step) : Step :=
  if v.toNat % 4 = 0 then k (s.goTo (v.setWidth 48)) else trap .align (tvV 2 v.toNat)

/-- A comparing branch (R130). -/
def State.branch (s : State) (a b : GReg) (t : BitVec 17) (f : Word → Word → Bool) : Step :=
  s.getG a fun x u => u.getG b fun y v => .next (if f x y then v.goTo (v.target t) else v)

/-! ### Major 0 (R135 to R137) -/

def execNop (s : State) : Host.Outcome State Fault Refusal := runWord s (.next s)
def execEcall (s : State) : Host.Outcome State Fault Refusal := runWord s (s.trapW .ecall)
def execBrk (s : State) : Host.Outcome State Fault Refusal := runWord s (s.trapW .break)
/-- `tret` (R112, R136). -/
def execTret (s : State) : Host.Outcome State Fault Refusal :=
  runWord s (s.supervisor (.next (s.modCtx (fun c => c.trapReturn s.regs.epc))))
/-- `ifence`: a fence of fabric scope (R137). -/
def execIfence (s : State) : Host.Outcome State Fault Refusal := runWord s (s.fenceStep 4 .complete fun t => .next t)

/-! ### Majors 1 to 4 (R138) -/

def execCsrr (d : GReg) (c : BitVec 12) (s : State) : Host.Outcome State Fault Refusal := runWord s (s.csrRead d c)
def execCsrw (c : BitVec 12) (a : GReg) (s : State) : Host.Outcome State Fault Refusal :=
  runWord s (s.csrWrite .write c a)
def execCsrs (c : BitVec 12) (a : GReg) (s : State) : Host.Outcome State Fault Refusal :=
  runWord s (s.csrWrite .set c a)
def execCsrc (c : BitVec 12) (a : GReg) (s : State) : Host.Outcome State Fault Refusal :=
  runWord s (s.csrWrite .clear c a)

/-! ### Majors 5 to 7 (R131, R132) -/

def execJmp (t : BitVec 21) (s : State) : Host.Outcome State Fault Refusal := runWord s (.next (s.goTo (s.target t)))
def execCall (t : BitVec 21) (s : State) : Host.Outcome State Fault Refusal :=
  runWord s ((s.goTo (s.target t)).putG 15 s.link)
def execJr (a : GReg) (s : State) : Host.Outcome State Fault Refusal :=
  runWord s (s.getG a fun v t => t.goReg v fun u => .next u)
def execCallr (a : GReg) (s : State) : Host.Outcome State Fault Refusal :=
  runWord s (s.getG a fun v t => t.goReg v fun u => u.putG 15 s.link)

/-! ### Majors 8 to 15 (R130) -/

def execBeq (a b : GReg) (t : BitVec 17) (s : State) : Host.Outcome State Fault Refusal :=
  runWord s (s.branch a b t fun x y => x == y)
def execBne (a b : GReg) (t : BitVec 17) (s : State) : Host.Outcome State Fault Refusal :=
  runWord s (s.branch a b t fun x y => x != y)
def execBlt (a b : GReg) (t : BitVec 17) (s : State) : Host.Outcome State Fault Refusal :=
  runWord s (s.branch a b t fun x y => x.toInt < y.toInt)
def execBge (a b : GReg) (t : BitVec 17) (s : State) : Host.Outcome State Fault Refusal :=
  runWord s (s.branch a b t fun x y => y.toInt ≤ x.toInt)
def execBlo (a b : GReg) (t : BitVec 17) (s : State) : Host.Outcome State Fault Refusal :=
  runWord s (s.branch a b t fun x y => x.toNat < y.toNat)
def execBhs (a b : GReg) (t : BitVec 17) (s : State) : Host.Outcome State Fault Refusal :=
  runWord s (s.branch a b t fun x y => y.toNat ≤ x.toNat)
def execBkz (k : KReg) (t : BitVec 17) (s : State) : Host.Outcome State Fault Refusal :=
  runWord s (.next (if s.kreg k = 0 then s.goTo (s.target t) else s))
def execBknz (k : KReg) (t : BitVec 17) (s : State) : Host.Outcome State Fault Refusal :=
  runWord s (.next (if s.kreg k = 0 then s else s.goTo (s.target t)))

end Sys2Proof.Machine
end

