-- ==== Sys2Proof/Machine/Crier.lean ====
section
/-! DEFINITION. The Crier: counters, terms, `crcfg` and the pulses of completed commands (R231 to R235). -/

namespace Sys2Proof.Machine
open Bits Tables

/-! ### Terms (R232, R234) -/

def termMask (w : Word) : Nat := wfld w 63 48
def termThresh (w : Word) : Nat := wfld w 47 32
def termAct (w : Word) : Nat := wfld w 31 30
def termAny (w : Word) : Bool := wbit w 29
def termOff (w : Word) : Nat := wfld w 16 0

/-- The keys of the counters that a term selects, in ascending order. -/
def selected (cid : Nat) (w : Word) : List Nat :=
  ((List.range 16).filter (fun n => termMask w / 2 ^ n % 2 == 1)).map (fun n => cid * 16 + n)

def State.count (s : State) (key : Nat) : Nat := (s.slot key).crCnt
def State.setCount (s : State) (key n : Nat) : State := s.setSlot key { s.slot key with crCnt := n }

/-- The condition of a booth's term (R234). DESIGN CHOICE (log entry 82): it does not hold while the term selects a counter of a slot group
that a resize has taken from the booth (R20). -/
def State.termTrue (s : State) (cid booth : Nat) (w : Word) : Bool :=
  termAct w ≠ 0 && (selected cid w).all (fun k => s.ownsGroup cid booth (groupOf k)) &&
    (if termAny w then (selected cid w).any (fun k => termThresh w ≤ s.count k)
     else (selected cid w).all (fun k => termThresh w ≤ s.count k))

/-- The counters that a firing consumes from: every selected one, or the lowest that meets the threshold. -/
def State.consumed (s : State) (cid : Nat) (w : Word) : List Nat :=
  if termAny w then ((selected cid w).find? (fun k => termThresh w ≤ s.count k)).toList else selected cid w

/-- The oldest copy-engine command held for a term. -/
def VQueue.oldest (q : VQueue) (key : Nat) : Option (Nat × HeldCmd) := findIdx (fun h => h.term == key) q.held
/-- The oldest network-engine command held for a term. -/
def NQueue.oldest (q : NQueue) (key : Nat) : Option (Nat × NHeld) := findIdx (fun h => h.term == key) q.held

/-- A released command behaves as though its thread pushed it now (R235): the thread's IT and mode, the limit in force, and the release of
R15, which keeps the thread's accesses so far before it. -/
def State.pushedNow (s : State) (c : Cmd) : Cmd :=
  match s.thread c.uid with
  | none => c
  | some t => { c with
      it := t.ctx.it.toNat, prv := t.ctx.prv, agewait := (s.bc (cidOf c.key) c.booth).agewait.toNat, before := s.storesOut c.uid }
def State.nwPushedNow (s : State) (c : NCmd) : NCmd :=
  match s.thread c.uid with
  | none => c
  | some t => { c with prv := t.ctx.prv, before := s.storesOut c.uid }

/-- Releases the oldest command held for a term of a booth's slot; none is held otherwise (R234). -/
def State.release (s : State) (key booth : Nat) : Option State :=
  let e := engOf (cidOf key)
  let q := s.vq e booth
  let n := s.nq (nqKey (cidOf key) booth)
  let copy (i : Nat) (h : HeldCmd) : State :=
    s.setVq e booth { q with held := dropAt q.held i, released := q.released ++ [s.pushedNow h.cmd] }
  let net (i : Nat) (h : NHeld) : State :=
    s.setNq (nqKey (cidOf key) booth) { n with held := dropAt n.held i, released := n.released ++ [s.nwPushedNow h.cmd] }
  match q.oldest key, n.oldest key with
  | none, none => none
  | some (i, h), none => some (copy i h)
  | none, some (i, h) => some (net i h)
  | some (i, h), some (j, g) => some (if h.stamp ≤ g.stamp then copy i h else net j g)

/-- One evaluation of a term: its firings, up to a bound that the counters cannot pass (R234). -/
def State.fire (s : State) (key booth : Nat) : Nat → State
  | 0 => s
  | n + 1 =>
    let cid := cidOf key
    let x := s.slot key
    if s.termTrue cid booth x.crTerm then
      let released := if termAct x.crTerm = 1 then s.release key booth else some s
      match released with
      | none => s
      | some s1 =>
        let s2 := (s.consumed cid x.crTerm).foldl (fun t k => t.setCount k (t.count k - termThresh x.crTerm)) s1
        let f := (x.crFires + 1) % 2 ^ 16
        let s3 := s2.setSlot key { s2.slot key with crFires := f }
        let s4 := if termAct x.crTerm = 2 && s3.ownsOff cid booth (termOff x.crTerm) then s3.fillWord (spad cid (termOff x.crTerm)) f else s3
        s4.fire key booth n
    else s

/-- Evaluates the term of a slot for the booth that owns it. -/
def State.evalTerm (s : State) (key : Nat) : State :=
  match (s.core (cidOf key)).owners.toList[groupOf key]? with
  | some (some b) => s.fire key b ((selected (cidOf key) (s.slot key).crTerm).foldl (fun n k => n + s.count k) 1)
  | _ => s

/-- A counter has changed: its slot's `ctrwait`s return when it meets their thresholds, then the terms that select it are
evaluated in ascending order (R234). A thread in a tenant's save area waits for its own tenant's counter (R19). -/
def State.countChanged (s : State) (key : Nat) : State :=
  let s1 := s.threads.foldl (fun t e =>
    match e.2.wait with
    | .crier n => if e.2.key = key ∧ e.2.place ≠ Place.area ∧ n ≤ t.count key then t.finish e.1 else t
    | _ => t) s
  ((List.range 16).map (fun n => cidOf key * 16 + n)).foldl (fun t k =>
    if (selected (cidOf key) (t.slot k).crTerm).contains key then t.evalTerm k else t) s1

/-! ### The instructions (R222, R233) -/

/-- Whether a term word breaks a rule of R233 that traps ILLEGAL. -/
def State.badTerm (s : State) (w : Word) : Bool :=
  let act := termAct w
  wfld w 28 17 ≠ 0 || act == 3 || (act ≠ 0 && (termThresh w == 0 || termMask w == 0)) ||
    (act ≠ 2 && termOff w ≠ 0) || (act == 2 && termOff w % 8 ≠ 0) ||
    !(selected s.cid w).all (fun k => s.ownsGroup s.cid s.booth (groupOf k))

/-- `crcfg` (R233). -/
def execCrcfg (a : GReg) (s : State) : Host.Outcome State Fault Refusal :=
  runWord s (s.getG a fun w s =>
    if s.badTerm w then s.trapW .illegal
    else if termAct w = 2 && !s.ownsOff s.cid s.booth (termOff w) then trap .storeXlate (tvV 1 (winBase + termOff w))
    else .next ((s.setSlot s.cur { s.slot s.cur with crTerm := w, crFires := 0 }).evalTerm s.cur))

/-- `crcfg.set` (R233). -/
def execCrcfgSet (a : GReg) (s : State) : Host.Outcome State Fault Refusal :=
  runWord s (s.getG a fun w s =>
    if wfld w 63 16 ≠ 0 then s.trapW .illegal
    else .next ((s.setCount s.cur w.toNat).countChanged s.cur))

/-- `crcfg.add` (R233). -/
def execCrcfgAdd (a : GReg) (s : State) : Host.Outcome State Fault Refusal :=
  runWord s (s.getG a fun w s =>
    if wfld w 63 16 ≠ 0 then s.trapW .illegal
    else .next ((s.setCount s.cur (min (s.count s.cur + w.toNat) 65535)).countChanged s.cur))

/-! ### The pulse event (R231) -/

/-- The n-th pulse under way arrives at its counter, if the slot still belongs to the booth and tenant of the command (R20). -/
def State.pulse (s : State) (n : Nat) : Option State :=
  match s.pulses[n]? with
  | none => none
  | some p =>
    let s1 := { s with pulses := dropAt s.pulses n }
    if s1.ownsGroup (cidOf p.key) p.booth (groupOf p.key) && s1.slotTenant p.booth p.key == p.tenant then
      some ((s1.setCount p.key (min (s1.count p.key + 1) 65535)).countChanged p.key)
    else some s1

def execCrierPulse (n : Nat) (s : State) : Host.Outcome State Fault Refusal := event "CRIER_PULSE" (s.pulse n)

/-- A completed command sends its pulse to the slot that pushed it (R231). -/
def State.sendPulse (s : State) (key booth : Nat) (tenant : Word) (net : Bool) : State :=
  { s with pulses := s.pulses ++ [⟨key, booth, tenant, net⟩] }

/-- A released command enters its queue's tail when it holds fewer than 32 and what the command comes after has been performed (R15, R234):
the copy engine's queue of a key. -/
def State.heldEnterCopy (s : State) (key : Nat) : Option State :=
  let q := getD s.vqs key VQueue.init
  match q.released with
  | [] => none
  | c :: cs => if q.queue.length < 32 && s.performed c.before then
      some ({ s with vqs := put s.vqs key { q with queue := q.queue ++ [c], released := cs } }.wake (fun _ t w =>
        t.booth == key % 64 && engOf (cidOf t.key) == key / 64 && w == Why.port .copy)) else none

def State.heldEnterNet (s : State) (key : Nat) : Option State :=
  let q := s.nq key
  match q.released with
  | [] => none
  | c :: cs => if q.queue.length < 32 && s.performed c.before then
      some ((s.setNq key { q with queue := q.queue ++ [c], released := cs }).wake (fun _ t w =>
        nqKey (cidOf t.key) t.booth == key && w == Why.port .net)) else none

/-- The queue's key is twice a copy-engine key, or twice a network-engine key plus one. -/
def execHeldCmdEnter (eng : Nat) (s : State) : Host.Outcome State Fault Refusal :=
  event "HELD_CMD_ENTER" (if eng % 2 = 0 then s.heldEnterCopy (eng / 2) else s.heldEnterNet (eng / 2))

end Sys2Proof.Machine
end

