-- ==== Sys2Proof/Machine/Copy.lean ====
section
/-! DEFINITION. The copy engine: pushes and their checks, results, the engine's commands and arrival barriers (R218 to R230,
R235 to R238). -/

namespace Sys2Proof.Machine
open Bits Tables

/-! ### Fields of commands (R225, R226) -/

def cmdCode (fn : Nat) : Nat := fld fn 12 9
def cmdNr (fn : Nat) : Bool := bitAt fn 8
def cmdQ (fn : Nat) : Bool := bitAt fn 7
def cmdOb (fn : Nat) : Bool := bitAt fn 6
/-- Bit 5 is part of REDUCE's operation, which has no BE. -/
def cmdBe (fn : Nat) : Bool := bitAt fn 5 && cmdCode fn != 6
def cmdBh (fn : Nat) : Nat := fld fn 4 2
/-- Element size of GATHER and SCATTER. -/
def cmdEs (fn : Nat) : Nat := match fld fn 1 0 with | 0 => 8 | 1 => 64 | _ => 512
def cmdN (wa : Word) : Nat := wfld wa 63 48 + 1
def addrOf (w : Word) : Nat := wfld w 47 0
/-- Element size of a REDUCE type (R228). -/
def redSize (fn : Nat) : Nat := if fld fn 2 0 ≤ 2 then 4 else 8
def redM (wb : Word) : Nat := wfld wb 31 17 + 1

/-- Bytes that a command writes. -/
def cmdBytes (fn : Nat) (wa : Word) : Nat :=
  match cmdCode fn with
  | 0 | 3 => 8 * cmdN wa
  | 1 | 2 => cmdN wa * cmdEs fn
  | 4 | 5 => 512 * cmdN wa
  | 6 => cmdN wa * redSize fn
  | _ => 0

/-! ### The checks of a push (R221, R226) -/

/-- A window range outside the window, or in a bank that the booth does not own (code 4). -/
def State.badWindow (s : State) (a n : Nat) : Bool :=
  isWin a && (2 ^ 48 < a + n ||
    !(List.range 16).all (fun k => let lo := a - winBase
      (lo + n ≤ 8192 * k || 8192 * (k + 1) ≤ lo) || s.ownsOff s.cid s.booth (8192 * k)))

/-- The list of GATHER and SCATTER: entry e. -/
def listEntry (m : Memory) (cid : Nat) (list e : Nat) : Nat := m.read (spad cid (list - winBase + 8 * e)) 8 % 2 ^ 48

/-- The refusal code of a command other than ARM, 0 for none (R221). DESIGN CHOICE (log entry 86): a FETCHA or PUBLISH whose home address is a
window address ends with status 7 (R223) when it runs, whatever bank the address lies in; its push is not refused for it. -/
def State.cmdRefusal (s : State) (fn : Nat) (wa wb : Word) : Nat :=
  let n := cmdN wa
  let a := addrOf wa
  let b := addrOf wb
  match cmdCode fn with
  | 0 =>
    if a % 8 ≠ 0 || b % 8 ≠ 0 then 3
    else if s.badWindow a (8 * n) || s.badWindow b (8 * n) then 4 else 0
  | 1 | 2 =>
    let es := cmdEs fn
    if 524288 < n * es then 2
    else if a % 8 ≠ 0 || b % es ≠ 0 then 3
    else if !isWin a || s.badWindow a (8 * n) || s.badWindow b (n * es) then 4
    else if (List.range n).any (fun e => listEntry s.mem s.cid a e % es ≠ 0) then 3
    else if (List.range n).any (fun e => s.badWindow (listEntry s.mem s.cid a e) es) then 4 else 0
  | 3 =>
    if wfld wb 47 32 ≠ 0 then 1
    else if a % 8 ≠ 0 then 3
    else if s.badWindow a (8 * n) then 4 else 0
  | 4 | 5 =>
    if wfld wb 47 32 ≠ 0 || (cmdCode fn = 5 && wfld wb 31 8 ≠ 0) then 1
    else if 256 < n || 256 < wfld wb 7 0 + n then 2
    else if a % 512 ≠ 0 then 3
    else if s.badWindow (winBase + 512 * wfld wb 7 0) (512 * n) then 4 else 0
  | 6 =>
    let es := redSize fn
    let off := wfld wb 16 0
    if 524288 < redM wb * n * es then 2
    else if a % es ≠ 0 || off % es ≠ 0 then 3
    else if s.badWindow a (redM wb * n * es) || s.badWindow (winBase + off) (n * es) then 4 else 0
  | _ =>
    if wfld wa 63 63 ≠ 0 || wfld wa 31 17 ≠ 0 || wfld wb 47 0 ≠ 0 then 1
    else if wfld wa 62 32 = 0 then 2
    else if wfld wa 16 0 % 16 ≠ 0 then 3
    else if s.badWindow (winBase + wfld wa 16 0) 16 then 4 else 0

/-- A command function that R225 allows to a held command: any but ARM. -/
def heldFn (fn : Nat) : Bool :=
  match decodeWord (encR 26 1 0 0 fn) with
  | .ok _ => cmdCode fn ≠ 8
  | .error _ => false

/-- The words of the image that an ARM names (R235). -/
def State.image (s : State) (wb : Word) : Word × Word :=
  (s.mem.word (spad s.cid (wfld wb 16 0)), s.mem.word (spad s.cid (wfld wb 16 0 + 8)))

/-- The refusal code of an ARM (R221, R235). -/
def State.armRefusal (s : State) (wa wb : Word) : Nat :=
  if wfld wa 63 20 ≠ 0 || wfld wa 15 13 ≠ 0 || wfld wb 63 17 ≠ 0 then 1
  else if wfld wb 16 0 % 16 ≠ 0 then 3
  else if s.badWindow (winBase + wfld wb 16 0) 16 then 4
  else if !heldFn (wfld wa 12 0) then 1
  else
    let i := s.image wb
    let r := s.cmdRefusal (wfld wa 12 0) i.1 i.2
    if r ≠ 0 then r
    else if 16 ≤ (s.vq (engOf s.cid) s.booth).held.length then 5
    else if !s.ownsGroup s.cid s.booth (wfld wa 19 16 / 4) then 6 else 0

/-- ENGINE_REFUSED with a port code and a refusal code (R117, R221). -/
def engineRefused (port code : Nat) : Step := trap .engineRefused (code * 2 ^ 16 + port)

/-! ### Push (R14 to R17, R220 to R224) -/

def State.newCmd (s : State) (fn : Nat) (wa wb : Word) : Cmd :=
  { fn := fn, wa := wa, wb := wb, uid := s.uid, key := s.cur, booth := s.booth, it := s.th.ctx.it.toNat
    agewait := (s.bc s.cid s.booth).agewait.toNat, launch := s.th.job.launch, prv := s.th.ctx.prv, moves := s.th.moves
    tenant := s.th.tenant, before := [] }

/-- The queue has room, no released command waits to enter before the push, and the thread has fewer than 8 commands counted (R218,
R224, R234). -/
def State.copyRoom (s : State) : Bool :=
  let q := s.vq (engOf s.cid) s.booth
  q.queue.length < 32 && q.released.isEmpty && s.th.cpCount < 8

/-- A push to the copy engine: checked, then the release of R15, then into the queue. -/
def State.pushTo (s : State) (fn : Nat) (a b : GReg) : Step :=
  s.getG a fun wa s => s.getG b fun wb s =>
  let r := s.cmdRefusal fn wa wb
  if r ≠ 0 then engineRefused 1 r
  else s.fenceStep 4 .again fun s =>
    if !s.copyRoom then .retry (.port .copy)
    else
      let q := s.vq (engOf s.cid) s.booth
      let s1 := s.setVq (engOf s.cid) s.booth { q with queue := q.queue ++ [s.newCmd fn wa wb] }
      .next (s1.modMe (fun t => { t with cpCount := t.cpCount + 1 }))

/-- `push.arm` (R235): the command is held outside the queue and its term is evaluated. -/
def State.pushArm (s : State) (a b : GReg) : Step :=
  s.getG a fun wa s => s.getG b fun wb s =>
  let r := s.armRefusal wa wb
  if r ≠ 0 then engineRefused 1 r
  else s.fenceStep 4 .again fun s =>
    if 8 ≤ s.th.cpCount then .retry (.port .copy)
    else
      let i := s.image wb
      let q := s.vq (engOf s.cid) s.booth
      let key := s.cid * 16 + wfld wa 19 16
      let h : HeldCmd := ⟨key, s.cycle, s.newCmd (wfld wa 12 0) i.1 i.2⟩
      let s1 := s.setVq (engOf s.cid) s.booth { q with held := q.held ++ [h] }
      .next ((s1.modMe (fun t => { t with cpCount := t.cpCount + 1 })).evalTerm key)

/-- The command function of R225. -/
def cpFn (op : Nat) (o : CpOpt) (low : Nat) : Nat := encCp op 0 0 o low % 2 ^ 13

def execPushCopy (a b : GReg) (o : CpOpt) (r : Bar) (s : State) : Host.Outcome State Fault Refusal :=
  runWord s (s.pushTo (cpFn 0 o (encBar r 0)) a b)
def execPushGather (a b : GReg) (o : CpOpt) (r : Bar) (z : ESize) (s : State) : Host.Outcome State Fault Refusal :=
  runWord s (s.pushTo (cpFn 1 o (encBar r (ESize.code z))) a b)
def execPushScatter (a b : GReg) (o : CpOpt) (r : Bar) (z : ESize) (s : State) : Host.Outcome State Fault Refusal :=
  runWord s (s.pushTo (cpFn 2 o (encBar r (ESize.code z))) a b)
def execPushFill (a b : GReg) (o : CpOpt) (r : Bar) (s : State) : Host.Outcome State Fault Refusal :=
  runWord s (s.pushTo (cpFn 3 o (encBar r 0)) a b)
def execPushFetcha (a b : GReg) (o : CpOpt) (r : Bar) (s : State) : Host.Outcome State Fault Refusal :=
  runWord s (s.pushTo (cpFn 4 o (encBar r 0)) a b)
def execPushPublish (a b : GReg) (o : CpOpt) (r : Bar) (s : State) : Host.Outcome State Fault Refusal :=
  runWord s (s.pushTo (cpFn 5 o (encBar r 0)) a b)
def execPushReduce (a b : GReg) (o : CpOpt) (x : RedOp) (t : RedTy) (s : State) : Host.Outcome State Fault Refusal :=
  runWord s (s.pushTo (cpFn 6 o (RedOp.code x * 8 + RedTy.code t)) a b)
def execPushAbar (a b : GReg) (o : CpOpt) (h : Fin 8) (s : State) : Host.Outcome State Fault Refusal :=
  runWord s (s.pushTo (cpFn 7 o (h.val * 4)) a b)
def execPushArm (a b : GReg) (s : State) : Host.Outcome State Fault Refusal := runWord s (s.pushArm a b)

/-! ### Engine accesses (R223, R227) -/

/-- Where an access of an engine goes: a word of the pusher's window, or a home. -/
inductive EngAt where
  | window (ga : Nat)
  | home (p : Page) (ga : Nat)
  deriving DecidableEq, Repr

/-- The place of an access of an engine for a booth, at its pusher's privilege, or the failure status of R223. A window address is the
scratchpad of core `cid`, the pusher's. -/
def State.place (s : State) (cid booth : Nat) (prv : Bool) (va : Nat) (write aged : Bool) : Except Nat EngAt :=
  if isWin va then
    if aged then .error 7
    else if s.ownsOff cid booth (va - winBase) then .ok (.window (spad cid (va - winBase))) else .error 1
  else
    match s.pageFor (pkgOf cid) booth va with
    | none => .error 1
    | some p =>
      if p.kind = 2 && (!write || aged) then .error 2
      else if (write && !p.wr) || (!write && !p.rd) || (p.sup && !prv) then .error 1
      else if aged && !p.aged then .error 7
      else .ok (.home p (p.base + (va - p.va)))

/-- A spray message of an engine at a node to a home (R219, R342). -/
def State.engMsg (s : State) (src : Nat) (party : Party) (p : Page) (booth uid tid va ga : Nat) (posted : Bool) (r : Req) : Msg :=
  { s.newMsg src p.home booth uid tid 1 (.req r) with
    party := party, que := injectQueue src (sourceUnit party false ga), va := va, ga := ga, posted := posted, ack := posted }

/-- The address in a read list of byte offset o. -/
def listed (addrs : List Nat) (es o : Nat) : Nat := (addrs.getD (o / es) 0 + o % es) % 2 ^ 48

/-- The source address of the word or element at byte offset o, in a row for REDUCE; none for FILL. -/
def Run.source (r : Run) (o row : Nat) : Option Nat :=
  let c := r.cmd
  match cmdCode c.fn with
  | 0 => some ((addrOf c.wa + o) % 2 ^ 48)
  | 1 => some (listed r.addrs (cmdEs c.fn) o)
  | 2 => some ((addrOf c.wb + o) % 2 ^ 48)
  | 6 => some ((addrOf c.wa + row * cmdN c.wa * redSize c.fn + o) % 2 ^ 48)
  | _ => none

/-- The destination address of byte offset o. -/
def Run.dest (r : Run) (o : Nat) : Nat :=
  let c := r.cmd
  match cmdCode c.fn with
  | 2 => listed r.addrs (cmdEs c.fn) o
  | 3 => (addrOf c.wa + o) % 2 ^ 48
  | 6 => winBase + wfld c.wb 16 0 + o
  | _ => (addrOf c.wb + o) % 2 ^ 48

/-- Bytes of one access. -/
def cmdStep (c : Cmd) : Nat := if cmdCode c.fn = 6 then redSize c.fn else 8
def cmdRows (c : Cmd) : Nat := if cmdCode c.fn = 6 then redM c.wb else 1

def redOp (fn : Nat) : RedOp := (RedOp.ofCode (fld fn 5 3)).getD .add

/-- The reduction of R97 on a list of elements of a REDUCE type; a NaN result is the canonical NaN. -/
def redValue (fn z : Nat) (xs : List Nat) : Nat :=
  let op := redOp fn
  let float (f : Exact.Fmt) : Nat :=
    let v := Exact.reduce (Exact.mergeFloat f op) z 0 (xs.map (fun x => x % 2 ^ f.width))
    if Exact.isNan (Exact.ofBits f v) then f.nan else v
  match fld fn 2 0 with
  | 0 => float Exact.f32
  | 1 => Exact.reduce (Exact.mergeInt true 32 op) z 0 xs
  | 2 => Exact.reduce (Exact.mergeInt false 32 op) z 0 xs
  | 3 => Exact.reduce (Exact.mergeInt true 64 op) z 0 xs
  | 4 => Exact.reduce (Exact.mergeInt false 64 op) z 0 xs
  | _ => float Exact.a36

def cmdZ (wb : Word) : Nat := if wfld wb 47 32 = 0 then 2 ^ 32 - 1 else wfld wb 47 32

/-! ### Chunks (R230) -/

/-- Bytes before the first 64-byte boundary of the destination count into the first unit. -/
def cmdSkew (c : Cmd) : Nat :=
  match cmdCode c.fn with
  | 0 | 1 => addrOf c.wb % 64
  | 3 => addrOf c.wa % 64
  | 6 => wfld c.wb 16 0 % 64
  | _ => 0

/-- The pieces of SCATTER, each in one 64-byte unit of the destination, and the unit of one. -/
def Run.pieceSize (r : Run) : Nat := min 64 (cmdEs r.cmd.fn)
def Run.pieces (r : Run) : List Nat := List.range (cmdBytes r.cmd.fn r.cmd.wa / r.pieceSize)
def Run.unit (r : Run) (j : Nat) : Nat := r.dest (j * r.pieceSize) / 64

/-- The byte offsets, as ranges from and to, of chunk k: a block of FETCHA and PUBLISH; the pieces of SCATTER whose destination is the
unit of its piece k; else the k-th 64-byte unit of the destination. -/
def Run.chunkAt (r : Run) (k : Nat) : List (Nat × Nat) :=
  let c := r.cmd
  let total := cmdBytes c.fn c.wa
  match cmdCode c.fn with
  | 2 => (r.pieces.filter (fun j => r.unit j == r.unit k)).map (fun j => (j * r.pieceSize, (j + 1) * r.pieceSize))
  | 4 | 5 => [(512 * k, 512 * (k + 1))]
  | _ => [(64 * k - cmdSkew c, min total (64 * (k + 1) - cmdSkew c))]

/-- The chunks of a command; one of SCATTER is named by its first piece. -/
def Run.allChunks (r : Run) : List Nat :=
  let c := r.cmd
  match cmdCode c.fn with
  | 2 => r.pieces.filter (fun j => r.pieces.find? (fun i => r.unit i == r.unit j) == some j)
  | 4 | 5 => List.range (cmdN c.wa)
  | 7 => []
  | _ => List.range (ceilDiv (cmdSkew c + cmdBytes c.fn c.wa) 64)

def Run.inChunk (r : Run) (k o : Nat) : Bool := (r.chunkAt k).any (fun x => x.1 ≤ o && o < x.2)
/-- The offsets of a chunk's accesses. -/
def Run.offsets (r : Run) (k : Nat) : List Nat :=
  (r.chunkAt k).flatMap (fun x => (List.range ((x.2 - x.1) / cmdStep r.cmd)).map (fun i => x.1 + i * cmdStep r.cmd))
/-- Bytes of one performed access of a command: a word or element, or a block. -/
def cmdUnit (c : Cmd) : Nat := if cmdCode c.fn = 4 || cmdCode c.fn = 5 then 512 else cmdStep c
/-- Bytes of a chunk that have been performed. -/
def Run.written (r : Run) (k : Nat) : Nat := (r.done.filter (r.inChunk k)).length * cmdUnit r.cmd

/-! ### Arrival barriers (R229, R230) -/

/-- Phases complete while ARRIVED reaches EXPECTED: each writes the gate and fills it. -/
def State.phases (s : State) (obj ex : Nat) : Nat → Nat → Nat → State
  | 0, arr, ph => s.modMem (fun m => m.write obj 8 (ph * 2 ^ 63 + ex * 2 ^ 32 + arr))
  | n + 1, arr, ph =>
    let arr1 := arr - ex
    let ph1 := 1 - ph
    let w := ph1 * 2 ^ 63 + ex * 2 ^ 32 + arr1
    ((s.modMem (fun m => m.write obj 8 w)).fillWord (obj + 8) w).phases obj ex n arr1 ph1

/-- Counts n bytes into an object. -/
def State.countBytes (s : State) (obj n : Nat) : State :=
  let w := s.mem.read obj 8
  let ex := fld w 62 32
  let arr := (fld w 31 0 + n) % 2 ^ 32
  s.phases obj ex (if ex = 0 then 0 else arr / ex) arr (fld w 63 63)

/-- The object's bank may have left the booth with a resize: nothing is written there then (R24). -/
def State.countInto (s : State) (r : Run) (n : Nat) : State :=
  match r.obj with
  | none => s
  | some o => if s.ownsOff ((o - 2 ^ 64) / 2 ^ 17) r.cmd.booth ((o - 2 ^ 64) % 2 ^ 17) then s.countBytes o n else s

/-! ### Running commands; a queue is named by engine * 64 + booth, a run by its place in the queue -/

def State.vqAt (s : State) (key : Nat) : VQueue := getD s.vqs key VQueue.init
def State.setVqAt (s : State) (key : Nat) (q : VQueue) : State := { s with vqs := put s.vqs key q }
def State.run (s : State) (key i : Nat) : Option Run := (s.vqAt key).running[i]?
def State.modRun (s : State) (key i : Nat) (f : Run → Run) : State :=
  match s.run key i with
  | none => s
  | some r => s.setVqAt key { s.vqAt key with running := setAt (s.vqAt key).running i (f r) }

/-- A failure at byte offset f: the lowest one decides status and value, and no later place is written (R228). -/
def Run.fail (r : Run) (f status value : Nat) : Run :=
  if r.status = 0 || f < r.limit then { r with status := status, value := value, limit := f } else r

/-- An access at byte offset o is performed. -/
def Run.did (r : Run) (o : Nat) : Run := { r with done := o :: r.done }

/-- Writes the value of the place at offset o, unless a failure lies before it: into the pusher's window at once, to a home by a message as
soon as the queue's window admits it (R344). -/
def State.putValue (s : State) (key i o v : Nat) : State :=
  match s.run key i with
  | none => s
  | some r =>
    let c := r.cmd
    if r.limit ≤ o then s
    else
      match s.place (cidOf c.key) c.booth c.prv (r.dest o) true false with
      | .error e => s.modRun key i (fun r => r.fail o e o)
      | .ok (.window ga) => (s.modMem (fun m => m.write ga (cmdStep c) v)).modRun key i (fun r => r.did o)
      | .ok (.home p ga) =>
        if (s.vqAt key).win.full then s.modRun key i (fun r => { r with vals := r.vals ++ [(o, v)] })
        else
          let m := s.engMsg (key / 64 * 16) (.copy key) p c.booth c.uid (tidOf c.key) (r.dest o) ga true (.store (cmdStep c) v)
          let t := (s.inject m).modRun key i (fun r => { r with wait := r.wait ++ [(m.mid, o, 0, true)] })
          t.setVqAt key { t.vqAt key with win := (t.vqAt key).win.sent }

/-- A value that was read: written on, or, for REDUCE, kept until every row of its place is read (R227, R228). -/
def State.gotValue (s : State) (key i o row v : Nat) : State :=
  match s.run key i with
  | none => s
  | some r =>
    if cmdCode r.cmd.fn ≠ 6 then s.putValue key i o v
    else
      let got := r.got ++ [(o, row, v)]
      let mine := got.filter (fun x => x.1 == o)
      if mine.length < cmdRows r.cmd then s.modRun key i (fun r => { r with got := got })
      else
        let xs := (List.range (cmdRows r.cmd)).map (fun j => ((mine.find? (fun x => x.2.1 == j)).map (·.2.2)).getD 0)
        (s.modRun key i (fun r => { r with got := got.filter (fun x => x.1 != o) })).putValue key i o
          (redValue r.cmd.fn (cmdZ r.cmd.wb) xs)

/-- Reads the place at offset o, in a row for REDUCE; FILL has its value at hand. -/
def State.readValue (s : State) (key i o row : Nat) : State :=
  match s.run key i with
  | none => s
  | some r =>
    let c := r.cmd
    if r.limit ≤ o then s
    else
      match r.source o row with
      | none => s.putValue key i o (wfld c.wb 31 0 * 2 ^ 32 + wfld c.wb 31 0)
      | some va =>
        match s.place (cidOf c.key) c.booth c.prv va false false with
        | .error e => s.modRun key i (fun r => r.fail o e o)
        | .ok (.window ga) => s.gotValue key i o row (s.mem.read ga (cmdStep c))
        | .ok (.home p ga) =>
          let m := s.engMsg (key / 64 * 16) (.copy key) p c.booth c.uid (tidOf c.key) va ga false (.load (cmdStep c) false)
          (s.inject m).modRun key i (fun r => { r with wait := r.wait ++ [(m.mid, o, row, false)] })

/-- Issues the request of block k: FETCHA parks at the home until its lag is met; PUBLISH carries the frame as it stands now (R227). A frame that has left the booth with
a resize fails as a window address outside its banks (R24). -/
def State.issueBlock (s : State) (key i k : Nat) (r : Run) : State :=
  let c := r.cmd
  let va := addrOf c.wa + 512 * k
  let pub := cmdCode c.fn == 5
  let f := wfld c.wb 7 0 + k
  if !s.ownsOff (cidOf c.key) c.booth (512 * f) then s.modRun key i (fun r => r.fail (512 * k) 1 (512 * k))
  else match s.place (cidOf c.key) c.booth c.prv va pub true with
  | .error e => s.modRun key i (fun r => r.fail (512 * k) e (512 * k))
  | .ok (.window _) => s
  | .ok (.home p ga) =>
    let q : Req :=
      if pub then .pub (s.mem.read (spad (cidOf c.key) (f * 512)) 512) c.it else .fetcha f true (wfld c.wb 31 8) c.it c.agewait
    let m := s.engMsg (key / 64 * 16) (.copy key) p c.booth c.uid (tidOf c.key) va ga false q
    (s.inject m).modRun key i (fun r => { r with wait := r.wait ++ [(m.mid, 512 * k, 0, pub)] })

/-- Issues the requests of a chunk. -/
def State.issueChunk (s : State) (key i k : Nat) (r : Run) : State :=
  let s1 := s.modRun key i (fun r => { r with todo := r.todo.filter (· != k) })
  if cmdCode r.cmd.fn = 4 || cmdCode r.cmd.fn = 5 then (if r.limit ≤ 512 * k then s1 else s1.issueBlock key i k r)
  else
    (r.offsets k).foldl (fun t o => (List.range (cmdRows r.cmd)).foldl (fun t row => t.readValue key i o row) t) s1

/-- Whether a chunk needs no answer any more: its writes are performed, and so are its reads below a failure. -/
def Run.settled (r : Run) (k : Nat) : Bool :=
  !r.wait.any (fun w => r.inChunk k w.2.1 && (w.2.2.2 || w.2.1 < r.limit)) && !r.vals.any (fun v => r.inChunk k v.1)

/-- A settled chunk is counted into the command's barrier, with the bytes performed (R228, R230); requests of blocks beyond a failure are
given up. -/
def State.countChunk (s : State) (key i k : Nat) (r : Run) : State :=
  let gone := (r.wait.filter (fun w => r.inChunk k w.2.1)).map (·.1)
  let s1 := (s.modRun key i (fun r => { r with
    chunks := r.chunks.filter (· != k), wait := r.wait.filter (fun w => !gone.contains w.1)
    done := r.done.filter (fun o => !r.inChunk k o) }))
  let s2 := { s1 with agedWait := s1.agedWait.filter (fun p => !gone.contains p.msg.mid) }
  if r.written k = 0 then s2 else s2.countInto r (r.written k)

/-- Chunk k of the i-th running command of a queue: its requests are issued; once they are settled, it is counted. -/
def State.chunk (s : State) (key i k : Nat) : Option State :=
  match s.run key i with
  | none => none
  | some r =>
    if r.todo.contains k then some (s.issueChunk key i k r)
    else if r.chunks.contains k && r.settled k then some (s.countChunk key i k r)
    else none

/-! ### The arbiter (R219) -/

/-- Bytes that a command costs: those it writes, or those that REDUCE reads. -/
def Cmd.cost (c : Cmd) : Nat :=
  if cmdCode c.fn = 6 then redM c.wb * cmdN c.wa * redSize c.fn else cmdBytes c.fn c.wa

/-- A booth's weight: the slot groups that it owns on the engine's cores. -/
def State.weight (s : State) (eng booth : Nat) : Nat :=
  (List.range 16).foldl (fun n i => n + ((s.core (eng * 16 + i)).owners.toList.filter (· == some booth)).length) 0

/-- A pulse of a command of a queue is under way. -/
def State.pulseFlies (s : State) (eng booth : Nat) : Bool :=
  s.pulses.any (fun p => p.booth == booth && engOf (cidOf p.key) == eng && !p.net)

/-- The command at the head of a queue, if it may start: one with OB waits for every earlier command of its queue, with its pulse
(R237). -/
def State.copyReady (s : State) (eng booth : Nat) : Option Cmd :=
  let q := s.vq eng booth
  match q.queue with
  | [] => none
  | c :: _ => if cmdOb c.fn && (!q.running.isEmpty || s.pulseFlies eng booth) then none else some c

/-- What an arbiter sees of a booth's queue: the cost of its head command if that may start, whether the queue is empty, its deficit and
its weight. -/
structure Bid where
  cost : Option Nat
  empty : Bool
  deficit : Nat
  weight : Nat

/-- Deficit round robin from the queue whose turn it is: it starts a command if its deficit covers the cost; else the next queue with a
command gets its quantum of 4,096 bytes for each slot group. An empty queue keeps no deficit. Answers the booth served. -/
def State.arbitrate (s : State) (bid : State → Nat → Bid) (set : State → Nat → Nat → State) : Nat → Nat → Option (Nat × State)
  | 0, _ => none
  | n + 1, b =>
    let q := bid s b
    let next (t : State) : Option (Nat × State) :=
      let q1 := bid t ((b + 1) % 48)
      let t1 := if q1.cost.isSome then set t ((b + 1) % 48) (q1.deficit + 4096 * max 1 q1.weight) else t
      t1.arbitrate bid set n ((b + 1) % 48)
    match q.cost with
    | none => next (if q.empty && q.deficit ≠ 0 then set s b 0 else s)
    | some c => if c ≤ q.deficit then some (b, set s b (q.deficit - c)) else next s

def State.copyBid (eng : Nat) (s : State) (b : Nat) : Bid :=
  let q := s.vq eng b
  ⟨(s.copyReady eng b).map Cmd.cost, q.queue.isEmpty, q.deficit, s.weight eng b⟩

/-- All of one command's requests are issued before those of another, also the writes that the window holds back. -/
def State.engineIssues (s : State) (eng : Nat) : Bool :=
  s.vqs.any (fun e => e.1 / 64 == eng && e.2.running.any (fun r => !r.todo.isEmpty || !r.vals.isEmpty))

/-- A range of the pusher's window is the booth's still (R24). -/
def State.keeps (s : State) (c : Cmd) (off n : Nat) : Bool :=
  (List.range 16).all (fun k => off + n ≤ 8192 * k || 8192 * (k + 1) ≤ off || s.ownsOff (cidOf c.key) c.booth (8192 * k))

/-- The command at the head of a queue starts: ABAR writes and binds its object; another takes its barrier's binding (R229). A list or
object whose bank has left the booth since the push fails as a window address outside its banks (R24). -/
def State.startCmd (s : State) (key : Nat) (c : Cmd) : State :=
  let q := s.vqAt key
  let bh := cmdBh c.fn
  let bound := (q.handles.toList[bh]?).join
  let abar := cmdCode c.fn = 7
  let obj := spad (cidOf c.key) (wfld c.wa 16 0)
  let idle : Run := ⟨c, [], [], [], [], [], [], none, 0, 0, 0, [], 0, 0⟩
  let listed := cmdCode c.fn = 1 || cmdCode c.fn = 2
  let lost := (abar && !s.keeps c (wfld c.wa 16 0) 16) || (listed && !s.keeps c (addrOf c.wa - winBase) (8 * cmdN c.wa))
  let run : Run :=
    if lost then { idle with status := 1 }
    else if abar then idle
    else if cmdBe c.fn && bound.isNone then { idle with status := 6 }
    else
      let list := if listed then
        (List.range (cmdN c.wa)).map (fun e => listEntry s.mem (cidOf c.key) (addrOf c.wa) e) else []
      let r := { idle with
        addrs := list, obj := if cmdBe c.fn then bound else none, value := cmdBytes c.fn c.wa, limit := cmdBytes c.fn c.wa }
      { r with todo := r.allChunks, chunks := r.allChunks }
  let handles := if abar && !lost then (if h : bh < 8 then q.handles.set bh (some obj) h else q.handles) else q.handles
  let s1 := s.setVqAt key { q with queue := q.queue.tail, running := q.running ++ [run], handles := handles }
  if !abar || lost then s1
  else
    let was := s1.mem.isFull (obj + 8)
    let t := s1.modMem (fun m => ((m.write obj 8 (wfld c.wa 62 32 * 2 ^ 32)).write (obj + 8) 8 0).setFull (obj + 8) false)
    if was then t.walkWord (obj + 8) else t

/-- The arbiter of an engine starts the command at the head of the queue whose turn it is. -/
def State.copyStart (s : State) (key : Nat) : Option State :=
  let eng := key / 64
  if s.engineIssues eng || !(List.range 48).any (fun b => (s.copyReady eng b).isSome) then none
  else
    match s.arbitrate (State.copyBid eng) (fun t b d => t.setVq eng b { t.vq eng b with deficit := d }) 8192 (getD s.turns eng 0) with
    | none => none
    | some (b, t0) =>
      let t := { t0 with turns := put t0.turns eng b }
      match (t.vqAt key).queue with
      | [] => none
      | c :: _ =>
        if b ≠ key % 64 then none
        else some ((t.startCmd key c).wake (fun _ x w => x.booth == b && engOf (cidOf x.key) == eng && w == .port .copy))

/-! ### Answers to an engine's requests -/

/-- The run that waits for a message, with its place, and the request's offset, row and kind. -/
def State.runOfMsg (s : State) (key mid : Nat) : Option (Nat × Run × Nat × Nat × Bool) :=
  ((s.vqAt key).running.zipIdx.findSome? (fun x => (x.1.wait.find? (fun w => w.1 == mid)).map (fun w => (x.2, x.1, w.2))))

def State.answeredRun (s : State) (key i mid : Nat) : State :=
  s.modRun key i (fun r => { r with wait := r.wait.filter (fun w => w.1 != mid) })

/-- Values that the window kept back go on while it has room. -/
def State.windowOpens (s : State) (key : Nat) : Nat → State
  | 0 => s
  | n + 1 =>
    if (s.vqAt key).win.full then s
    else
      match findIdx (fun r => !r.vals.isEmpty) (s.vqAt key).running with
      | none => s
      | some (i, r) =>
        let v := r.vals.headD (0, 0)
        ((s.modRun key i (fun r => { r with vals := r.vals.tail })).putValue key i v.1 v.2).windowOpens key n

/-- A credit of the queue's window (R345). -/
def State.copyCredit (s : State) (key c : Nat) (mark : Bool) : State :=
  let t := s.credit (.copy key) 0 0 c mark
  t.windowOpens key (((t.vqAt key).running.map (fun r => r.vals.length)).foldl (· + ·) 0)

/-- A reply to an engine's request: a word, a block for a frame, or the age that a publish met; its mark adjusts the window. DESIGN CHOICE
(log entry 86): a FETCHA block leaves the AGE of the thread that pushed it as it is; it is the thread's own fetcha that sets AGE (R156,
R227). -/
def State.copyReply (s : State) (key : Nat) (m : Msg) (a : Answer) : State :=
  let s0 := s.copyCredit key 0 m.mark
  match s0.runOfMsg key m.mid with
  | none => s0
  | some (i, r, o, row, _) =>
    let s1 := s0.answeredRun key i m.mid
    match cmdCode r.cmd.fn, a.frame with
    | 4, some f =>
      if s1.ownsOff (cidOf r.cmd.key) r.cmd.booth (512 * f) then
        (s1.frameIn (cidOf r.cmd.key) f m.va (a.age.getD 0) (slotOf r.cmd.key) a.data a.full).modRun key i (fun r => r.did o)
      else s1.modRun key i (fun r => r.fail o 1 o)
    | 5, _ =>
      let age := (a.val.getD 0).toNat
      s1.modRun key i (fun r =>
        if r.cmd.it < age then { r.did o with stale := r.stale + 1, staleAge := max r.staleAge age } else r.did o)
    | _, _ => s1.gotValue key i o row (a.val.getD 0).toNat

/-- The home ends a request: a stopped writer gives status 4, any other refusal status 2 (R223). -/
def State.copyTrapped (s : State) (key : Nat) (m : Msg) (cause tval : Nat) : State :=
  let s0 := s.copyCredit key 0 m.mark
  match s0.runOfMsg key m.mid with
  | none => s0
  | some (i, _, o, _, _) =>
    (s0.answeredRun key i m.mid).modRun key i (fun r =>
      if cause = Cause.lagWriterStopped.code then r.fail o 4 (o / 512 * 2 ^ 24 + tval / 2 ^ 32) else r.fail o 2 o)

/-- A write is performed at its home, or refused there (R223, R230). -/
def State.copyWritten (s : State) (key : Nat) (m : Msg) (refused : Bool) : State :=
  let s1 := match s.runOfMsg key m.mid with
    | none => s
    | some (i, _, o, _, _) =>
      let t := s.answeredRun key i m.mid
      t.modRun key i (fun r => if refused then r.fail o 2 o else r.did o)
  s1.copyCredit key 1 m.mark

/-! ### Completion -/

/-- A result element (R223). -/
def resultElement (tag code status value : Nat) : Word :=
  BitVec.ofNat 64 (tag * 2 ^ 48 + code * 2 ^ 44 + status * 2 ^ 40 + value % 2 ^ 40)

/-- The element of an ended command reaches its thread, unless NR and status 0; one pushed before a migration is discarded, and either way
the place is free (R223, R224). -/
def Thread.copyResult (t : Thread) (c : Cmd) (status value : Nat) : Thread :=
  if (cmdNr c.fn && status = 0) || t.moves ≠ c.moves then { t with cpCount := t.cpCount - 1 }
  else { t with cpOut := t.cpOut ++ [resultElement (wfld c.wb 63 48) (cmdCode c.fn) status value] }

/-- A command ends: its element is delivered, and its pulse is sent unless Q (R223, R224, R231, R236). -/
def State.copyComplete (s : State) (key i : Nat) : Option State :=
  match s.run key i with
  | none => none
  | some r =>
    if !r.chunks.isEmpty then none
    else
      let c := r.cmd
      let status := if r.status ≠ 0 then r.status else if r.stale ≠ 0 then 5 else 0
      let value := if r.status = 0 && r.stale ≠ 0 then r.stale * 2 ^ 24 + r.staleAge else r.value
      let s1 := s.setVqAt key { s.vqAt key with running := dropAt (s.vqAt key).running i }
      let s2 := s1.modThread c.uid (fun t => t.copyResult c status value)
      let s3 := s2.wake (fun u _ w => u == c.uid && (w == .element .copy || w == .port .copy))
      some (if cmdQ c.fn then s3 else s3.sendPulse c.key c.booth c.tenant false)

/-- A FETCHA block has waited AGEWAIT cycles at its home: status 3 for the lowest such block (R223, R227). -/
def State.copyTimeout (s : State) (key i : Nat) : Option State :=
  match s.run key i with
  | none => none
  | some r =>
    let late (p : Parked) : Option (Nat × Nat) :=
      match r.wait.find? (fun w => w.1 == p.msg.mid) with
      | none => none
      | some w =>
        if r.cmd.agewait ≠ 0 && p.since + r.cmd.agewait ≤ s.cycle && w.2.1 < r.limit then
          some (w.2.1, (s.mem.block p.msg.ga).age) else none
    match (s.agedWait.filterMap late).foldl (fun b x => match b with
        | none => some x
        | some y => if x.1 < y.1 then some x else some y) none with
    | none => none
    | some (o, age) => some (s.modRun key i (fun r => r.fail o 3 (o / 512 * 2 ^ 24 + age)))

def execCopyCmdStart (eng : Nat) (s : State) : Host.Outcome State Fault Refusal := event "COPY_CMD_START" (s.copyStart eng)
def execChunkCounted (eng im chunk : Nat) (s : State) : Host.Outcome State Fault Refusal :=
  event "CHUNK_COUNTED" (s.chunk eng im chunk)
def execCopyCmdComplete (eng im : Nat) (s : State) : Host.Outcome State Fault Refusal :=
  event "COPY_CMD_COMPLETE" (s.copyComplete eng im)
def execCopyFetchaTimeout (eng im : Nat) (s : State) : Host.Outcome State Fault Refusal :=
  event "COPY_FETCHA_TIMEOUT" (s.copyTimeout eng im)

end Sys2Proof.Machine
end

