-- ==== Sys2Proof/Machine/Memory.lean ====
section
/-! DEFINITION. Memory instructions: plain, synchronising and aged accesses, publishes, iterations and atomics (majors 16 to
23, R140 to R164, R202 to R205). -/

namespace Sys2Proof.Machine
open Bits Tables

/-! ### Operations shared by the meanings -/

def Size.bytes : Size → Nat
  | .b8 => 1 | .b16 => 2 | .b32 => 4 | .b64 => 8

/-- The address of an access: a register plus a signed byte offset, modulo 2^48 (R147, R156). -/
def effAddr {n : Nat} (x : Word) (o : BitVec n) : Nat := ((x.toNat + o.toInt) % (2 ^ 48 : Int)).toNat

/-- Alignment is checked before translation (R143). -/
def State.alignedTo (s : State) (va n : Nat) (k : State → Step) : Step :=
  if va % n = 0 then k s else trap .align (tvV 2 va)

/-- A frame's window offset; a frame in a bank that the booth does not own traps with the frame's address (R155, R158,
R168). -/
def State.ownFrame (s : State) (c : Cause) (f : Nat) (k : State → Step) : Step :=
  if s.ownsOff s.cid s.booth (f * 512) then
    (if s.bankHeld (s.cid * 16 + f / 16) then .retry .handover else k s)
  else trap c (tvV 1 (winBase + f * 512))

/-- `ld` (R147). -/
def State.load (s : State) (d a : GReg) (n : Nat) (c : Cls) (signed : Bool) (o : BitVec 12) : Step :=
  s.getG a fun x s =>
  let va := effAddr x o
  s.alignedTo va n fun s =>
  s.translate accLoad va fun t =>
  match t with
  | .here off => s.putG d (loadValue s.mem (spad s.cid off) n signed)
  | .home p ga => s.checkDest d fun s => s.waitFor p ga va n c d (.load n signed)

/-- `st` (R147): field a, then the data in field d. A store through a near window goes only to a bank that the booth owns
(R142). -/
def State.store (s : State) (d a : GReg) (n : Nat) (c : Cls) (o : BitVec 12) : Step :=
  s.getG a fun x s =>
  s.getG d fun y s =>
  let va := effAddr x o
  s.alignedTo va n fun s =>
  s.translate accStore va fun t =>
  match t with
  | .here off => .next (s.modMem (fun m => m.write (spad s.cid off) n y.toNat))
  | .home p ga =>
    if p.kind = 2 && !s.ownsOff p.home s.booth (p.half * 65536 + (va - p.va)) then trap .access (tvV 4 va)
    else s.post p ga va n c (.store n (y.toNat % 2 ^ (8 * n)))

/-- A synchronising access reaches its word (R150): in the own scratchpad at once, else by a waited-for message. The
limits are those in force at issue (R152). -/
def State.syncAccess (s : State) (a : Acc) (op : SyncOp) (d : GReg) (va : Nat) (c : Cls) (data : Word) : Step :=
  let b := s.bc s.cid s.booth
  let r := Req.sync op data b.feretry.toNat b.fewait.toNat
  s.alignedTo va 8 fun s =>
  s.translate a va fun t =>
  s.checkDest d fun s =>
  match t with
  | .here off =>
    let m := { s.newMsg s.cid s.cid s.booth s.uid (tidOf s.cur) 0 (.req r) with va := va, ga := spad s.cid off, d := d }
    let s1 := { s with nextMid := s.nextMid + 1 }.modMe (fun t => { t with wait := .reply m.mid })
    let s2 := s1.syncArrive m op data
    if s2.th.wait == .idle then .next s2 else .park s2
  | .home p ga => s.waitFor p ga va 8 c d r

/-- A synchronising load (major 18). -/
def State.syncLoad (s : State) (op : SyncOp) (d a : GReg) (c : Cls) (o : BitVec 12) : Step :=
  s.getG a fun x s => s.syncAccess accSyncLoad op d (effAddr x o) c 0
/-- A synchronising store with data in field d (major 19). -/
def State.syncStore (s : State) (op : SyncOp) (d a : GReg) (c : Cls) (o : BitVec 12) : Step :=
  s.getG a fun x s => s.getG d fun y s => s.syncAccess accSyncStore op 0 (effAddr x o) c y

/-- The lag of an aged access (R44). -/
def State.lag (s : State) (g : Lag) (k : Nat → State → Step) : Step :=
  match g with
  | .count n => k n.val s
  | .reg r => s.getG r fun w s => k (wfld w 23 0) s

/-- The limit of aged waits in force at issue (R139). -/
def State.agewait (s : State) : Nat := (s.bc s.cid s.booth).agewait.toNat

/-- `lda` (R156). -/
def State.agedLoad (s : State) (d a : GReg) (m : AMode) (g : Lag) (o : BitVec 8) : Step :=
  s.getG a fun x s =>
  s.lag g fun lag s =>
  let va := effAddr x o
  s.alignedTo va 8 fun s =>
  s.translate accAgedLoad va fun t =>
  match t with
  | .here _ => trap .loadXlate (tvV 1 va)
  | .home p ga =>
    s.checkDest d fun s =>
    if s.th.sprayHolds (ga - ga % 512) 512 then .retry .spray
    else s.waitFor p ga va 8 .ord d (.lda (ga % 512) (m == .park) lag s.th.ctx.it.toNat s.agewait)

/-- `fetcha` (R155, R156): field d names the register that gives the frame. -/
def State.fetchBlock (s : State) (d a : GReg) (m : AMode) (g : Lag) (o : BitVec 8) : Step :=
  s.getG a fun x s =>
  s.lag g fun lag s =>
  s.getG d fun y s =>
  let va := effAddr x o
  s.alignedTo va 8 fun s =>
  s.translate accAgedLoad va fun t =>
  match t with
  | .here _ => trap .loadXlate (tvV 1 va)
  | .home p ga =>
    s.ownFrame .storeXlate (wfld y 7 0) fun s =>
    if s.th.sprayHolds (ga - ga % 512) 512 then .retry .spray
    else s.waitFor p ga va 8 .ord 0 (.fetcha (wfld y 7 0) (m == .park) lag s.th.ctx.it.toNat s.agewait)

/-- `pub` (R158). -/
def State.pub (s : State) (d a b : GReg) : Step :=
  s.getG a fun x s =>
  s.getG b fun y s =>
  let va := x.toNat % 2 ^ 48
  s.alignedTo va 512 fun s =>
  s.translate accPub va fun t =>
  match t with
  | .here _ => trap .storeXlate (tvV 1 va)
  | .home p ga =>
    s.ownFrame .storeXlate (wfld y 7 0) fun s =>
    s.checkDest d fun s =>
    s.waitFor p ga va 512 .ord d
      (.pub (s.mem.read (spad s.cid (wfld y 7 0 * 512)) 512) s.th.ctx.it.toNat)

/-- The deadline of the thread's launch has passed (R159, R309). -/
def State.deadlinePassed (s : State) : Bool :=
  match s.th.job.deadline with
  | none => false
  | some c => c ≤ s.cycle

/-- `itinc` (R159). -/
def State.itIncrement (s : State) : Step :=
  let it := s.th.ctx.it.toNat
  if s.deadlinePassed then trap .deadline it
  else if it = 2 ^ 24 - 1 then s.trapW .itOverflow
  else .next (s.modCtx (fun c => { c with it := BitVec.ofNat 24 (it + 1) }))

/-- `amo` (R161, R162): performed at once in the own scratchpad, posted when d is g0, else waited for. -/
def State.amo (s : State) (op : AmoOp) (d a b : GReg) (n : Nat) (c : Cls) : Step :=
  s.getG a fun x s =>
  s.getG b fun y s =>
  let va := x.toNat % 2 ^ 48
  let v := y.toNat % 2 ^ (8 * n)
  s.alignedTo va n fun s =>
  s.translate accAtomic va fun t =>
  match t with
  | .here off =>
    let ga := spad s.cid off
    let old := s.mem.read ga n
    s.checkDest d fun s =>
    .next ((s.modMem (fun m => m.write ga n (amoValue op (8 * n) old v))).result (.g d (BitVec.ofNat 64 old)))
  | .home p ga =>
    let posted := d.val = 0
    let mem : Member := ⟨s.nextMid, s.uid, tidOf s.cur, s.cid, d, posted, c == .spray || pkgOf p.home ≠ pkgOf s.cid, v, coreOf s.cid⟩
    if posted then s.post p ga va n c (.amo op n [mem])
    else s.checkDest d fun s => s.waitFor p ga va n c d (.amo op n [mem])

/-- `cas` (R162): gD is the expected value, read last, and the destination. -/
def State.cas (s : State) (d a b : GReg) (n : Nat) (c : Cls) : Step :=
  s.notBound d fun s =>
  s.getG a fun x s =>
  s.getG b fun y s =>
  s.getG d fun e s =>
  let va := x.toNat % 2 ^ 48
  let new := y.toNat % 2 ^ (8 * n)
  let expect := e.toNat % 2 ^ (8 * n)
  s.alignedTo va n fun s =>
  s.translate accAtomic va fun t =>
  match t with
  | .here off =>
    let ga := spad s.cid off
    let old := s.mem.read ga n
    let s1 := if old = expect then s.modMem (fun m => m.write ga n new) else s
    .next (s1.result (.g d (BitVec.ofNat 64 old)))
  | .home p ga => s.waitFor p ga va n c d (.cas n expect new)

def wideBytes (wide : Bool) : Nat := if wide then 8 else 4

/-! ### Majors 16 and 17 -/

def execLd (d a : GReg) (sz : Size) (c : Cls) (e : Ext) (o : BitVec 12) (s : State) : Host.Outcome State Fault Refusal :=
  runWord s (s.load d a (Size.bytes sz) c (e == .sx) o)
def execSt (d a : GReg) (sz : Size) (c : Cls) (o : BitVec 12) (s : State) : Host.Outcome State Fault Refusal :=
  runWord s (s.store d a (Size.bytes sz) c o)

/-! ### Majors 18 and 19 -/

def execLdf (d a : GReg) (c : Cls) (o : BitVec 12) (s : State) : Host.Outcome State Fault Refusal :=
  runWord s (s.syncLoad .ldf d a c o)
def execLdff (d a : GReg) (c : Cls) (o : BitVec 12) (s : State) : Host.Outcome State Fault Refusal :=
  runWord s (s.syncLoad .ldff d a c o)
def execFetst (d a : GReg) (c : Cls) (o : BitVec 12) (s : State) : Host.Outcome State Fault Refusal :=
  runWord s (s.syncLoad .fetst d a c o)
def execStf (d a : GReg) (c : Cls) (o : BitVec 12) (s : State) : Host.Outcome State Fault Refusal :=
  runWord s (s.syncStore .stf d a c o)
def execStfill (d a : GReg) (c : Cls) (o : BitVec 12) (s : State) : Host.Outcome State Fault Refusal :=
  runWord s (s.syncStore .stfill d a c o)
def execStemp (a : GReg) (c : Cls) (o : BitVec 12) (s : State) : Host.Outcome State Fault Refusal :=
  runWord s (s.getG a fun x s => s.syncAccess accSyncStore .stemp 0 (effAddr x o) c 0)

/-! ### Majors 20 to 22 -/

def execLda (d a : GReg) (m : AMode) (g : Lag) (o : BitVec 8) (s : State) : Host.Outcome State Fault Refusal :=
  runWord s (s.agedLoad d a m g o)
def execFetcha (d a : GReg) (m : AMode) (g : Lag) (o : BitVec 8) (s : State) : Host.Outcome State Fault Refusal :=
  runWord s (s.fetchBlock d a m g o)
def execPub (d a b : GReg) (s : State) : Host.Outcome State Fault Refusal := runWord s (s.pub d a b)
/-- `itset` (R159). -/
def execItset (a : GReg) (s : State) : Host.Outcome State Fault Refusal :=
  runWord s (s.getG a fun x s => .next (s.modCtx (fun c => { c with it := x.setWidth 24 })))
def execItinc (s : State) : Host.Outcome State Fault Refusal := runWord s s.itIncrement

/-! ### Major 23 -/

def execAmo (o : AmoOp) (d a b : GReg) (wide : Bool) (c : Cls) (s : State) : Host.Outcome State Fault Refusal :=
  runWord s (s.amo o d a b (wideBytes wide) c)
def execCas (d a b : GReg) (wide : Bool) (c : Cls) (s : State) : Host.Outcome State Fault Refusal :=
  runWord s (s.cas d a b (wideBytes wide) c)

end Sys2Proof.Machine
end

