-- ==== Sys2Proof/Machine/Migrate.lean ====
section
/-! DEFINITION. Fences, migration and the tag table: majors 24 and 25, and the implicit migration of R76 (R35, R165 to R172,
R185). -/

namespace Sys2Proof.Machine
open Bits Tables

/-! ### Migration (R35, R36, R76, R171, R172) -/

/-- The lowest bound stream. -/
def SlotRegs.lowBound (x : SlotRegs) : Option Nat :=
  if x.streams[0].isSome then some 0 else if x.streams[1].isSome then some 1
  else if x.streams[2].isSome then some 2 else if x.streams[3].isSome then some 3 else none

/-- The context leaves as one message on channel 3 and the slot becomes FREE (R35). Result elements delivered before it are discarded and
free their places; those of commands still running are, when they end (R224). With `carry`, the A word of the pair goes along, and PC
stays at the bundle (R172). -/
def State.depart (s : State) (dst : Nat) (pc : Nat) (carry : Option Nat) : State :=
  let t := s.th
  let key := dst * 16 + slotOf s.cur
  let m := s.newMsg s.cid dst s.booth s.uid (tidOf key) 3 .context
  let t1 := { t with
    key := key, place := .flight, wait := .migrating m.mid, carry := carry, held := [], aRan := false, beats := 0
    cpOut := [], nwOut := [], cpCount := t.cpCount - t.cpOut.length, nwCount := t.nwCount - t.nwOut.length, moves := t.moves + 1
    ctx := { t.ctx with pc := BitVec.ofNat 48 pc } }
  let s2 := (s.inject m).setThread s.uid t1
  s2.setSlot s.cur { s.slot s.cur with phase := .free, run := none }

/-- Moves the current thread to a core: R35's checks, the fence step of R171, the wait of R185, departure. The refusal's
TVAL names the destination for an explicit migration. -/
def State.moveTo (s : State) (dst : Nat) (tval : Nat) (pc : Nat) (carry : Option Nat) : Step :=
  if !s.inRegion s.booth dst then trap .migrateRefused tval
  else
    match s.regs.lowBound with
    | some n => trap .streamFault (4 * 16 + n)
    | none =>
      s.fenceStep 4 .depart fun s =>
      if s.th.sfuPend ≠ 0 then .retry .drain else .gone (s.depart dst pc carry)

/-- `mig` and `migc`: a destination equal to the own core has no effect (R170). -/
def State.migrate (s : State) (dst : Nat) : Step :=
  if dst = s.cid then .next s
  else
    s.moveTo dst (dst * 16) (if s.bun.size = 8 then s.bun.pc else s.bun.pc + 4)
      (if s.bun.size = 8 then some s.bun.aw else none)

/-- The nearer of two cores by switch hops, ties to the lower number (R35). -/
def State.nearer (s : State) (src : Nat) (best : Option Nat) (c : Nat) : Option Nat :=
  match best with
  | none => some c
  | some b =>
    if s.hops src c < s.hops src b || (s.hops src c == s.hops src b && c < b) then some c else some b

/-- The destination of an implicit migration (R35). -/
def State.nearest (s : State) (e : Extension) : Option Nat :=
  ((s.regionCores s.booth).filter (lists e)).foldl (s.nearer s.cid) none

/-- The implicit migration of a bundle whose word needs an absent extension (R76). -/
def State.implicit (s : State) (e : Extension) : Step :=
  match s.nearest e with
  | none => s.trapW .migrateRefused
  | some dst => s.moveTo dst s.wordOf s.bun.pc none

/-- A word of an extension runs on a core that lists it; elsewhere its thread migrates (R74 step 2). -/
def State.needs (s : State) (e : Extension) (k : Step) : Step := if lists e s.cid then k else s.implicit e

/-! ### Major 24 (R165, R166, R170) -/

def Scope.num : Scope → Nat
  | .core => 0 | .cluster => 1 | .die => 2 | .package => 3 | .fabric => 4

def execFence (sc : Scope) (s : State) : Host.Outcome State Fault Refusal :=
  runWord s (s.fenceStep (Scope.num sc) .complete fun t => .next t)

/-- `mig` (R170): to the home core of an address. -/
def execMig (a : GReg) (s : State) : Host.Outcome State Fault Refusal :=
  runWord s (s.getG a fun x s =>
    let va := x.toNat % 2 ^ 48
    if isWin va then .next s
    else s.translate accLoad va fun t =>
      match t with
      | .here _ => .next s
      | .home p _ => s.migrate p.home)

/-- `migc` (R170): to a named core. -/
def execMigc (a : GReg) (s : State) : Host.Outcome State Fault Refusal :=
  runWord s (s.getG a fun x s =>
    if wfld x 31 30 = 0 && wfld x 3 0 = 0 && isCore (wfld x 29 4) then s.migrate (wfld x 29 4)
    else trap .migrateRefused (wfld x 31 0))

/-! ### Major 25 (R167 to R169) -/

def State.tag (s : State) (cid f : Nat) : Tag := getD (s.core cid).tags f ⟨0, false, 0, 0⟩
def State.setTag (s : State) (cid f : Nat) (t : Tag) : State :=
  let c := s.core cid
  s.setCore cid { c with tags := putD c.tags f t ⟨0, false, 0, 0⟩ }

/-- The value that `tage` returns (R169). -/
def Tag.value (t : Tag) : Word := tagWord t.v t.owner t.age

/-- The lowest-numbered frame of the booth with V = 1 and a block address, or all ones (R168). -/
def State.lookTag (s : State) (vba : Nat) : Word :=
  match (s.core s.cid).tags.find? (fun e => e.2.v && e.2.vba == vba && s.ownsOff s.cid s.booth (e.1 * 512)) with
  | none => -1
  | some e => BitVec.ofNat 64 e.1

def execTlook (d a : GReg) (s : State) : Host.Outcome State Fault Refusal :=
  runWord s (s.getG a fun x s =>
    let va := x.toNat % 2 ^ 48
    if isWin va then s.putG d (s.lookTag (va / 512))
    else s.translate accLook va fun _ => s.putG d (s.lookTag (va / 512)))

def execTset (a b : GReg) (s : State) : Host.Outcome State Fault Refusal :=
  runWord s (s.getG a fun x s => s.getG b fun y s =>
    s.ownFrame .storeXlate (wfld x 7 0) fun s =>
    .next (s.setTag s.cid (wfld x 7 0) ⟨wfld y 47 9, true, 0, slotOf s.cur⟩))

def execTinv (a : GReg) (s : State) : Host.Outcome State Fault Refusal :=
  runWord s (s.getG a fun x s =>
    s.ownFrame .storeXlate (wfld x 7 0) fun s =>
    .next (s.setTag s.cid (wfld x 7 0) { s.tag s.cid (wfld x 7 0) with v := false }))

def execTage (d a : GReg) (s : State) : Host.Outcome State Fault Refusal :=
  runWord s (s.getG a fun x s =>
    s.ownFrame .loadXlate (wfld x 7 0) fun s => s.putG d (s.tag s.cid (wfld x 7 0)).value)

end Sys2Proof.Machine
end

