-- ==== Sys2Proof/Machine/Network.lean ====
section
/-! DEFINITION. The network engine: pushes, pops, endpoints, work requests, packets and acknowledgements (R363 to R378). An
engine is numbered package * 4 + die; a port of it engine * 4 + port; a booth's queue engine * 64 + booth. Bytes of memory travel as spray
messages between the engine and the homes (R342). The outside of the fabric is no party: a packet to an address that no port of the fabric has leaves and is never answered. -/

namespace Sys2Proof.Machine
open Bits Tables

/-! ### Push and pop (R365, R366, R375) -/

def nwFn (op : Nat) (o : NwOpt) : Nat := encNw op 0 0 o % 2 ^ 13
def nwHeld (fn : Nat) : Bool := bitAt fn 6

/-- The refusal code of a push to port 2, 0 for none (R366). -/
def State.nwRefusal (s : State) (fn : Nat) (wa wb : Word) : Nat :=
  let block := cmdCode fn < 4
  if (if block then wfld wa 63 48 else wfld wa 63 54) ≠ 0 || wfld wb 47 0 ≠ 0 then 1
  else if block && addrOf wa % 64 ≠ 0 then 3
  else if block && (!isWin (addrOf wa) || s.badWindow (addrOf wa) 64) then 4
  else if nwHeld fn && 16 ≤ (s.nq (nqKey s.cid s.booth)).held.length then 5
  else if nwHeld fn && !s.ownsGroup s.cid s.booth (fld fn 3 0 / 4) then 6 else 0

/-- A push to the network engine: on an edge core, checked, the release of R15, then queued or held (R365, R366). During a handover that
gives up the die's last edge cores the engine is one tenant's; a thread of the other waits as R322 says for a bank (log entry 65). -/
def State.nwPush (s : State) (fn : Nat) (a b : GReg) : Step :=
  s.needs .n <|
  s.getG a fun wa s => s.getG b fun wb s =>
  let r := s.nwRefusal fn wa wb
  if s.netForeign then .retry .handover
  else if r ≠ 0 then engineRefused 2 r
  else s.fenceStep 4 .again fun s =>
    let k := nqKey s.cid s.booth
    let q := s.nq k
    let c : NCmd := ⟨fn, wa, wb, s.uid, s.cur, s.booth, s.th.job.launch, s.th.ctx.prv, s.th.moves, s.th.tenant, []⟩
    if 8 ≤ s.th.nwCount then .retry (.port .net)
    else if nwHeld fn then
      let key := s.cid * 16 + fld fn 3 0
      let s1 := s.setNq k { q with held := q.held ++ [⟨key, s.cycle, c⟩] }
      .next ((s1.modMe (fun t => { t with nwCount := t.nwCount + 1 })).evalTerm key)
    else if 32 ≤ q.queue.length || !q.released.isEmpty then .retry (.port .net)
    else .next ((s.setNq k { q with queue := q.queue ++ [c] }).modMe (fun t => { t with nwCount := t.nwCount + 1 }))

def execPushEpopen (a b : GReg) (o : NwOpt) (s : State) : Host.Outcome State Fault Refusal :=
  runWord s (s.nwPush (nwFn 0 o) a b)
def execPushWsend (a b : GReg) (o : NwOpt) (s : State) : Host.Outcome State Fault Refusal :=
  runWord s (s.nwPush (nwFn 1 o) a b)
def execPushWwrite (a b : GReg) (o : NwOpt) (s : State) : Host.Outcome State Fault Refusal :=
  runWord s (s.nwPush (nwFn 2 o) a b)
def execPushWread (a b : GReg) (o : NwOpt) (s : State) : Host.Outcome State Fault Refusal :=
  runWord s (s.nwPush (nwFn 3 o) a b)
def execPushCtrset (a b : GReg) (o : NwOpt) (s : State) : Host.Outcome State Fault Refusal :=
  runWord s (s.nwPush (nwFn 4 o) a b)
def execPushCtrwait (a b : GReg) (o : NwOpt) (s : State) : Host.Outcome State Fault Refusal :=
  runWord s (s.nwPush (nwFn 5 o) a b)

/-- `pop` (R222, R375): the oldest element, or the thread parks until one arrives. -/
def State.popFrom (s : State) (d : GReg) (p : Port) : Step :=
  match p with
  | .copy =>
    match s.th.cpOut with
    | [] => .retry (.element .copy)
    | w :: ws => (s.modMe (fun t => { t with cpOut := ws, cpCount := t.cpCount - 1 })).putG d w
  | .net => s.needs .n <|
    match s.th.nwOut with
    | [] => .retry (.element .net)
    | w :: ws => (s.modMe (fun t => { t with nwOut := ws, nwCount := t.nwCount - 1 })).putG d w

def execPop (d : GReg) (p : Port) (s : State) : Host.Outcome State Fault Refusal := runWord s (s.popFrom d p)

/-- The value of a completion counter (R374). -/
def NQueue.ctr (q : NQueue) (c : Nat) : Nat := getD q.ctrs c 0

/-- `ctrwait`: on the slot's Crier counter (R235), or on a completion counter (R375). -/
def State.ctrWait (s : State) (a : GReg) (p : Port) : Step :=
  match p with
  | .copy =>
    s.getG a fun w s =>
    if wfld w 15 0 ≤ s.count s.cur then .next s
    else .park (s.modMe (fun t => { t with wait := .crier (wfld w 15 0) }))
  | .net => s.needs .n <|
    s.getG a fun w s =>
    if wfld w 63 54 ≠ 0 then engineRefused 2 1
    else if s.netForeign then .retry .handover
    else if wfld w 47 0 ≤ (s.nq (nqKey s.cid s.booth)).ctr (wfld w 53 48) then .next s
    else .park (s.modMe (fun t => { t with wait := .counter (wfld w 53 48) (wfld w 47 0) }))

def execCtrwait (a : GReg) (p : Port) (s : State) : Host.Outcome State Fault Refusal := runWord s (s.ctrWait a p)

/-! ### Counters and ends of commands (R371, R374, R376) -/

/-- Sets a counter, sticking at 2^48 - 1; the `ctrwait`s that it satisfies return. A thread in a tenant's save area waits for its own
tenant's counter (R19). -/
def State.setCtr (s : State) (k c v : Nat) : State :=
  let q := s.nq k
  let w := min v (2 ^ 48 - 1)
  let s1 := s.setNq k { q with ctrs := putD q.ctrs c w 0 }
  s1.threads.foldl (fun t e =>
    match e.2.wait with
    | .counter h n =>
      if nqKey (cidOf e.2.key) e.2.booth = k ∧ e.2.place ≠ Place.area ∧ h = c ∧ n ≤ w then t.finish e.1 else t
    | _ => t) s1

def State.addCtr (s : State) (k c : Nat) : State := s.setCtr k c ((s.nq k).ctr c + 1)

/-- The element of an ended command, as R224 counts and delivers it (R375). -/
def Thread.nwResult (t : Thread) (c : NCmd) (status value : Nat) : Thread :=
  if (cmdNr c.fn && status = 0) || t.moves ≠ c.moves then { t with nwCount := t.nwCount - 1 }
  else { t with nwOut := t.nwOut ++ [resultElement (wfld c.wb 63 48) (cmdCode c.fn) status value] }

/-- The element and the pulse of a command that has left its queue (R371, R376). -/
def State.nwResult (s : State) (c : NCmd) (status value : Nat) : State :=
  let s1 := s.modThread c.uid (fun t => t.nwResult c status value)
  let s2 := s1.wake (fun u _ w => u == c.uid && (w == .element .net || w == .port .net))
  if cmdQ c.fn then s2 else s2.sendPulse c.key c.booth c.tenant true

/-- A running work request ends: element, LCTR, pulse (R371). -/
def State.nwEnd (s : State) (k : Nat) (r : NRun) (status value : Nat) : State :=
  let q := s.nq k
  let s1 := s.setNq k { q with running := q.running.filter (fun x => x.rid != r.rid) }
  (if r.lc then s1.addCtr k r.lctr else s1).nwResult r.cmd status value

/-! ### Transfers of bytes between an engine and memory (R342, R344, R371, R372) -/

/-- The first edge core of an engine's die. -/
def engCore (eng : Nat) : Nat := mkCid true (eng / 4) (eng % 4) 0 0

/-- The accesses of n bytes from an address: byte offset, address and bytes, each a power of two and aligned. -/
def accesses : Nat → Nat → Nat → Nat → List (Nat × Nat × Nat)
  | 0, _, _, _ => []
  | fuel + 1, va, n, o =>
    if n = 0 then []
    else
      let k := if va % 8 = 0 && 8 ≤ n then 8 else if va % 4 = 0 && 4 ≤ n then 4 else if va % 2 = 0 && 2 ≤ n then 2 else 1
      (o, va % 2 ^ 48, k) :: accesses fuel (va + k) (n - k) (o + k)

/-- Whether a transfer serves an arriving packet: then it is no thread's, and no window address is accepted (R372, R378). -/
def NUse.atTarget : NUse → Bool
  | .place _ | .serve _ => true
  | _ => false
/-- Where a transfer's messages start: at the port that the engine has at the switch of an edge group, a command's own group or the Ethernet
port's (R339). DESIGN CHOICE (log entry 60): the spec does not say which of the four. -/
def NJob.node (j : NJob) : Nat := engOf (cidOf j.cmd.key) * 16
def NJob.src (j : NJob) : Nat := if j.use.atTarget then 0 else tidOf j.cmd.key

/-- The first failing byte of a transfer is the lowest. -/
def NJob.failAt (j : NJob) (o status : Nat) : NJob :=
  match j.fail with
  | none => { j with fail := some (o, status) }
  | some x => if o < x.1 then { j with fail := some (o, status) } else j

/-- Where an access of a transfer goes. -/
def State.jobPlace (s : State) (j : NJob) (va : Nat) (write : Bool) : Except Nat EngAt :=
  if j.use.atTarget && isWin va then .error 1 else s.place (cidOf j.cmd.key) j.cmd.booth j.cmd.prv va write false

/-- One access that reads. -/
def State.jobRead (s : State) (k : Nat) (j : NJob) (x : Nat × Nat × Nat) : State × NJob :=
  match s.jobPlace j x.2.1 false with
  | .error e => (s, j.failAt x.1 e)
  | .ok (.window ga) => (s, { j with got := j.got ++ [(x.1, s.mem.read ga x.2.2)] })
  | .ok (.home p ga) =>
    let m := s.engMsg j.node (.net k) p j.cmd.booth j.cmd.uid j.src x.2.1 ga false (.load x.2.2 false)
    (s.inject m, { j with wait := j.wait ++ [(m.mid, x.1, x.2.2)] })

/-- One access that writes a value: a message to a home goes when the queue's window admits it. -/
def State.jobWrite (s : State) (k : Nat) (j : NJob) (x : Nat × Nat × Nat) (v : Nat) : State × NJob :=
  match s.jobPlace j x.2.1 true with
  | .error e => (s, j.failAt x.1 e)
  | .ok (.window ga) => (s.modMem (fun m => m.write ga x.2.2 v), j)
  | .ok (.home p ga) =>
    if (s.nq k).win.full then (s, { j with vals := j.vals ++ [(x.2.1, x.1, x.2.2, v)] })
    else
      let m := s.engMsg j.node (.net k) p j.cmd.booth j.cmd.uid j.src x.2.1 ga true (.store x.2.2 v)
      let t := s.inject m
      (t.setNq k { t.nq k with win := (t.nq k).win.sent }, { j with wait := j.wait ++ [(m.mid, x.1, x.2.2)] })

/-- The accesses of a transfer that reads, up to the first that fails. -/
def State.jobReads (s : State) (k : Nat) (j : NJob) : List (Nat × Nat × Nat) → State × NJob
  | [] => (s, j)
  | x :: xs =>
    let r := s.jobRead k j x
    if r.2.fail.isSome then r else r.1.jobReads k r.2 xs

/-- The accesses of a transfer that writes a number, up to the first that fails. -/
def State.jobWrites (s : State) (k : Nat) (j : NJob) (v : Nat) : List (Nat × Nat × Nat) → State × NJob
  | [] => (s, j)
  | x :: xs =>
    let r := s.jobWrite k j x (v / 2 ^ (8 * x.1) % 2 ^ (8 * x.2.2))
    if r.2.fail.isSome then r else r.1.jobWrites k r.2 v xs

def NJob.start (use : NUse) (c : NCmd) : NJob := ⟨use, c, [], [], [], none⟩
def NJob.over (j : NJob) : Bool := j.wait.isEmpty && j.vals.isEmpty
/-- The number that a transfer has read. -/
def NJob.data (j : NJob) : Nat := j.got.foldl (fun n x => n + x.2 * 2 ^ (8 * x.1)) 0
def State.addJob (s : State) (k : Nat) (j : NJob) : State := s.setNq k { s.nq k with jobs := (s.nq k).jobs ++ [j] }

/-! ### Descriptors and peer tables (R367 to R369) -/

def payload (pmtu : Nat) : Nat := 1024 * 2 ^ pmtu

/-- Word i of the block that a command names. -/
def State.blockWord (s : State) (c : NCmd) (i : Nat) : Word := s.mem.word (spad (cidOf c.key) (addrOf c.wa - winBase + 8 * i))

/-- Whether a descriptor breaks a rule of R369 that its own words show. -/
def badDesc (w : Nat → Word) : Bool :=
  wfld (w 0) 63 62 = 3 || wfld (w 0) 47 0 % 32 ≠ 0 || wfld (w 1) 26 18 ≠ 0 || wfld (w 1) 15 0 ≠ 0 || wfld (w 2) 61 48 ≠ 0 ||
  wfld (w 2) 47 0 % 64 ≠ 0 || wfld (w 3) 63 48 ≠ 0 || wfld (w 4) 63 7 ≠ 0 || wfld (w 5) 63 40 ≠ 0 ||
  wfld (w 5) 39 32 = 0 || wfld (w 5) 31 0 < 1024 || w 6 ≠ 0 || w 7 ≠ 0

/-- A peer from its 32 bytes. -/
def peerOf (v : Nat) : Peer :=
  ⟨fld v 127 0, fld v (128 + 63) (128 + 40), fld v (128 + 39) (128 + 28), fld v (192 + 63) (192 + 60),
    fld v (192 + 59) (192 + 56), fld v (192 + 47) 192⟩

/-- Whether a peer entry is invalid: a reserved field, or, DESIGN CHOICE (log entry 81), a size or count beyond its limit or a misaligned
ring, which R369's list does not name. -/
def badPeer (v : Nat) : Bool :=
  let p := peerOf v
  fld v (128 + 27) 128 ≠ 0 || fld v (192 + 55) (192 + 48) ≠ 0 || 10 < p.rsz || 12 < p.rcnt ||
    p.rring % 2 ^ (p.rsz + 10) ≠ 0

/-- The endpoint that a descriptor and table describe. -/
def endpointOf (w : Nat → Word) (prv : Bool) (ps : List Peer) : Endpoint :=
  { pmtu := wfld (w 0) 63 62, job := wfld (w 1) 63 40, pid := wfld (w 1) 39 28, port := wfld (w 1) 17 16
    mw := wbit (w 2) 63, mr := wbit (w 2) 62, mbase := wfld (w 2) 47 0, mlen := wfld (w 3) 47 0
    rxc := wbit (w 4) 6, rxctr := wfld (w 4) 5 0, retry := wfld (w 5) 39 32, rto := wfld (w 5) 31 0, peers := ps, pdcs := []
    prv := prv }

/-- The open endpoint of an engine with a job and process identifier: its queue's key and number. -/
def State.endpointAt (s : State) (eng job pid : Nat) : Option (Nat × Nat × Endpoint) :=
  (s.nqs.filter (fun e => e.1 / 64 == eng)).findSome? (fun e =>
    (e.2.eps.find? (fun x => x.2.job == job && x.2.pid == pid)).map (fun x => (e.1, x.1, x.2)))

/-- EPOPEN reads its descriptor (R369): it closes, is refused, or reads the peer table. -/
def State.epopen (s : State) (k : Nat) (c : NCmd) : State :=
  let w := s.blockWord c
  let q := s.nq k
  if wbit (w 1) 27 then (s.setNq k { q with eps := del q.eps (wfld (w 0) 61 56) }).nwResult c 0 0
  else if badDesc w then s.nwResult c 5 0
  else
    let n := 32 * (wfld (w 0) 55 48 + 1)
    let r := s.jobReads k (NJob.start (.table (fun8 w)) c) (accesses n (wfld (w 0) 47 0) n 0)
    r.1.addJob k r.2
where
  /-- The descriptor's words, kept as they were read. -/
  fun8 (w : Nat → Word) : List Word := (List.range 8).map w

/-- EPOPEN has read the peer table: it opens the endpoint, or ends with a status and changes nothing. -/
def State.tableRead (s : State) (k : Nat) (d : List Word) (j : NJob) : State :=
  let w (i : Nat) : Word := d.getD i 0
  let ep := wfld (w 0) 61 56
  match j.fail with
  | some (o, e) => s.nwResult j.cmd e o
  | none =>
    let vs := chunks (wfld (w 0) 55 48 + 1) 256 j.data
    let other := match s.endpointAt (k / 64) (wfld (w 1) 63 40) (wfld (w 1) 39 28) with
      | none => false
      | some (k', ep', _) => k' ≠ k || ep' ≠ ep
    if vs.any badPeer || other then s.nwResult j.cmd 5 0
    else
      let q := s.nq k
      (s.setNq k { q with eps := put q.eps ep (endpointOf w j.cmd.prv (vs.map peerOf)) }).nwResult j.cmd 0 0

/-! ### Packets (R371, R373) -/

/-- The port of the fabric that has an address. -/
def State.portAt (s : State) (addr : Nat) : Option Nat := (s.etherAddrs.find? (fun e => e.2 == addr)).map Prod.fst

/-- Sends a packet of a context from an endpoint to a peer, unless either port is lost; the engine asks for no service but RUD (R363). -/
def State.toPeer (s : State) (eng : Nat) (e : Endpoint) (p : Peer) (psn ctx rid : Nat) (b : EBody) : State :=
  let src := eng * 4 + e.port
  match s.portAt p.addr with
  | none => s
  | some d =>
    if s.etherLost.contains src || s.etherLost.contains d then s
    else
      { s with ether := s.ether ++ [⟨src, getD s.etherAddrs src 0, e.job, e.pid, d, p.job, p.pid, psn, ctx, .rud, rid, b⟩] }

/-- Bytes of packet i. -/
def pktLen (len p i : Nat) : Nat := min len ((i + 1) * p) - i * p

/-- The run of a queue with a number. -/
def State.nrun (s : State) (k rid : Nat) : Option NRun := (s.nq k).running.find? (fun r => r.rid == rid)
def State.modNrun (s : State) (k rid : Nat) (f : NRun → NRun) : State :=
  s.setNq k { s.nq k with running := (s.nq k).running.map (fun r => if r.rid = rid then f r else r) }

/-- A packet is on its way: the first time it joins those not acknowledged. -/
def NRun.sentNow (r : NRun) (i psn cycle : Nat) (again : Bool) : NRun :=
  if again then { r with out := r.out.map (fun x => if x.index = i then { x with sentAt := cycle } else x) }
  else { r with out := r.out ++ [⟨i, psn, cycle, 0, 0⟩], unsent := r.unsent - 1 }

/-- A packet to be sent again has been settled while its source bytes were read: it stays here. -/
def NRun.settledNow (r : NRun) (i : Nat) (again : Bool) : Bool := again && !r.out.any (fun x => x.index == i)

def Endpoint.pdc (e : Endpoint) (peer : Nat) : Pdc := getD e.pdcs peer Pdc.init
def Endpoint.setPdc (e : Endpoint) (peer : Nat) (p : Pdc) : Endpoint := { e with pdcs := put e.pdcs peer p }

/-- Packet i of a send or write goes out when its source bytes have been read; a byte that cannot be read ends the command (R371). -/
def State.packetRead (s : State) (k rid i psn : Nat) (again : Bool) (j : NJob) : State :=
  match s.nrun k rid with
  | none => s
  | some r =>
    match find (s.nq k).eps r.ep with
    | none => s
    | some e =>
      let sz := payload e.pmtu
      if r.settledNow i again then s
      else match j.fail, e.peers[r.peer]? with
      | some (o, st), _ => s.nwEnd k r st (i * sz + o)
      | none, none => s
      | none, some p =>
        (s.modNrun k rid (fun r => r.sentNow i psn s.cycle again)).toPeer (k / 64) e p psn (e.pdc r.peer).id rid
          (.data r.op r.n (r.roff + i * sz) (i * sz) i r.np r.len r.rc r.rctr (pktLen r.len sz i) j.data)

/-- Packet i of a run is sent, or sent again: a read's request at once; else its source bytes are read for it (R371, R377). -/
def State.sendPacket (s : State) (k : Nat) (e : Endpoint) (r : NRun) (again : Bool) (i psn : Nat) : State :=
  let sz := payload e.pmtu
  let n := pktLen r.len sz i
  if r.op = 3 then
    match e.peers[r.peer]? with
    | none => s
    | some p =>
      (s.modNrun k r.rid (fun r => r.sentNow i psn s.cycle again)).toPeer (k / 64) e p psn (e.pdc r.peer).id r.rid
        (.data 3 r.n (r.roff + i * sz) (i * sz) i r.np r.len false 0 n 0)
  else
    let x := s.jobReads k (NJob.start (.send r.rid i psn again) r.cmd) (accesses n (r.laddr + i * sz) n 0)
    x.1.addJob k x.2

/-- Sends packets i, i + 1, … of a run. -/
def State.sendAll (s : State) (k : Nat) (e : Endpoint) (r : NRun) (psn0 : Nat) : Nat → Nat → State
  | 0, _ => s
  | m + 1, i => (s.sendPacket k e r false i (psn0 + i)).sendAll k e r psn0 m (i + 1)

def State.setEp (s : State) (k ep : Nat) (e : Endpoint) : State :=
  let q := s.nq k
  s.setNq k { q with eps := put q.eps ep e }

/-- A work request as its block gives it. -/
def State.request (s : State) (c : NCmd) : NRun :=
  let w := s.blockWord c
  { cmd := c, op := wfld (w 0) 63 60, ep := wfld (w 0) 55 50, peer := wfld (w 1) 63 56, laddr := wfld (w 0) 47 0
    len := wfld (w 1) 31 0, roff := (w 2).toNat, lc := wbit (w 1) 55, lctr := wfld (w 1) 53 48, rc := wbit (w 1) 54
    rctr := wfld (w 1) 47 42, n := 0, np := 1, rid := 0, out := [], missing := 0, unsent := 0, status := 0, value := 0 }

/-- Whether a work request is invalid (R370, R371). -/
def State.badRequest (s : State) (c : NCmd) (r : NRun) (e : Option Endpoint) : Bool :=
  let w := s.blockWord c
  r.op ≠ cmdCode c.fn || wfld (w 0) 59 56 ≠ 0 || wfld (w 0) 49 48 ≠ 0 || wfld (w 1) 41 32 ≠ 0 ||
    [3, 4, 5, 6, 7].any (fun i => w i != 0) || 2 ^ 24 < r.len || (r.rc && r.op ≠ 2) || (r.op = 1 && r.roff ≠ 0) ||
    (match e with | none => true | some x => x.peers.length ≤ r.peer)

/-- A work request starts (R371); its context gets its number on first use (R363). -/
def State.startRequest (s : State) (k : Nat) (c : NCmd) : State :=
  let r := s.request c
  let e := find (s.nq k).eps r.ep
  if s.badRequest c r e then (if r.lc then s.addCtr k r.lctr else s).nwResult c 5 0
  else
    match e with
    | none => s
    | some e =>
      let eng := k / 64
      let d := e.pdc r.peer
      let np := max 1 (ceilDiv r.len (payload e.pmtu))
      let r1 := { r with n := if r.op = 1 then d.sendseq else 0, np := np, rid := s.nextRid, missing := if r.op = 3 then np else 0, unsent := np }
      let d1 := { d with
        psn := d.psn + np, sendseq := if r.op = 1 then (d.sendseq + 1) % 2 ^ 32 else d.sendseq
        id := if d.id = 0 then s.nextRid + 1 else d.id }
      let e1 := e.setPdc r.peer d1
      let s1 := { s with nextRid := s.nextRid + 1 }.setEp k r.ep e1
      if s.etherLost.contains (eng * 4 + e.port) then s1.nwEnd k r1 4 0
      else
        let q := s1.nq k
        (s1.setNq k { q with running := q.running ++ [r1] }).sendAll k e1 r1 d.psn np 0

/-! ### The target (R372, R373) -/

/-- Sequence numbers received: those below `cum` and those listed. -/
def Pdc.has (d : Pdc) (psn : Nat) : Bool := psn < d.cum || d.above.contains psn

/-- Moves the cumulative point over the listed numbers. -/
def Pdc.settle (d : Pdc) : Nat → Pdc
  | 0 => d
  | n + 1 => if d.above.contains d.cum then { d with cum := d.cum + 1, above := remove d.above d.cum }.settle n else d

def Pdc.receive (d : Pdc) (psn : Nat) : Pdc :=
  let e := { d with above := insert d.above psn }
  e.settle (e.above.length)

/-- An acknowledgement's content: the cumulative point, then the numbers above it, and those refused. -/
def Pdc.ackBody (d : Pdc) : EBody := .ack (d.cum :: d.above) (d.refused.map Prod.fst)

/-- The context as a packet finds it: a new context of the sender starts afresh, as an EPOPEN there makes one (R363, R369). -/
def Pdc.facing (d : Pdc) (ctx : Nat) : Pdc :=
  if d.peerId = ctx then d else { d with peerId := ctx, cum := 0, above := [], partials := [], unacked := 0, refused := [] }

/-- The peer that a packet comes from. -/
def Endpoint.peerFrom (e : Endpoint) (p : EPkt) : Option (Nat × Peer) :=
  findIdx (fun x => x.addr == p.srcAddr && x.job == p.srcJob && x.pid == p.srcPid) e.peers

/-- A refusal goes back to the sender's port (R376 reasons). -/
def State.refusePacket (s : State) (p : EPkt) (reason i : Nat) : State :=
  { s with ether := s.ether ++ [⟨p.dst, getD s.etherAddrs p.dst 0, p.dstJob, p.dstPid, p.src, p.srcJob, p.srcPid, p.psn,
      p.ctx, p.service, p.rid, .refused reason i⟩] }

/-- The place of a packet's bytes at the target, or a refusal's reason (R372, R376). P of R371 is the sender's, so the packet names its
place in the message. -/
def targetPlace (e : Endpoint) (p : Peer) (op n off pos len : Nat) : Except Nat Nat :=
  if op = 1 then
    if p.rring = 0 then .error 3
    else if 2 ^ (p.rsz + 10) < len then .error 2
    else .ok (p.rring + n % 2 ^ p.rcnt * 2 ^ (p.rsz + 10) + pos)
  else if (op = 2 && !e.mw) || (op = 3 && !e.mr) then .error 3
  else if e.mlen < off - pos + len then .error 2
  else .ok (e.mbase + off)

/-- An increment for a received message is on its way to its counter: it is not ordered with the acknowledgement (R374, R380). -/
def State.owesCtr (s : State) (k c : Nat) : State := s.setNq k { s.nq k with due := (s.nq k).due ++ [c] }

/-- Counts a packet of a message; the last one counts the message (R372). -/
def State.countMessage (s : State) (k ep peer : Nat) (rid op np : Nat) (rc : Bool) (rctr : Nat) : State :=
  match find (s.nq k).eps ep with
  | none => s
  | some e =>
    let d := e.pdc peer
    let left := getD d.partials rid np - 1
    let d1 := { d with partials := if left = 0 then del d.partials rid else put d.partials rid left }
    let s1 := s.setEp k ep (e.setPdc peer d1)
    if left ≠ 0 then s1
    else if op = 1 then (if e.rxc then s1.owesCtr k e.rxctr else s1)
    else if op = 2 && rc then s1.owesCtr k rctr
    else s1

/-- Records a packet as received and acknowledges as R373 says: at once out of sequence, else every fourth. -/
def State.receivePacket (s : State) (eng k ep peer : Nat) (p : Peer) (psn rid : Nat) : State :=
  match find (s.nq k).eps ep with
  | none => s
  | some e =>
    let d := e.pdc peer
    let inSeq := psn == d.cum && d.above.isEmpty
    let d1 := { d.receive psn with unacked := d.unacked + 1, since := if d.unacked = 0 then s.cycle else d.since }
    if inSeq && d1.unacked < 4 then s.setEp k ep (e.setPdc peer d1)
    else
      let d2 := { d1 with unacked := 0 }
      (s.setEp k ep (e.setPdc peer d2)).toPeer eng e p 0 d2.peerId rid d2.ackBody

/-- A packet is settled for its context and refused: the refusal answers it, also when it comes again (R372, R373). -/
def State.settleRefused (s : State) (k ep peer : Nat) (x : EPkt) (reason i : Nat) : State :=
  match find (s.nq k).eps ep with
  | none => s.refusePacket x reason i
  | some e =>
    let d := e.pdc peer
    (s.setEp k ep (e.setPdc peer { d.receive x.psn with refused := put d.refused x.psn reason })).refusePacket x reason i

/-- A packet is placed: it is settled for its context and counted; or its bytes could not be, and it is settled and refused (R372, R373). -/
def State.placed (s : State) (x : EPkt) (ok : Bool) (f : State → Nat → Endpoint → Peer → State) : State :=
  match s.endpointAt (x.dst / 4) x.dstJob x.dstPid, x.body with
  | some (k, ep, e), .data op _ _ _ i np _ rc rctr _ _ =>
    match e.peerFrom x with
    | none => s
    | some (pi, p) =>
      if (e.pdc pi).peerId ≠ x.ctx then s
      else if ok then f ((s.receivePacket (x.dst / 4) k ep pi p x.psn x.rid).countMessage k ep pi x.rid op np rc rctr) k e p
      else s.settleRefused k ep pi x 4 i
  | _, _ => s

/-- A transfer is over. -/
def State.jobEnd (s : State) (k : Nat) (j : NJob) : State :=
  match j.use with
  | .table d => s.tableRead k d j
  | .send rid i psn again => s.packetRead k rid i psn again j
  | .place x => s.placed x j.fail.isNone (fun t _ _ _ => t)
  | .serve x =>
    s.placed x j.fail.isNone (fun t _ e p =>
      match x.body with
      | .data _ _ _ _ i _ _ _ _ bytes _ => t.toPeer (x.dst / 4) e p x.psn x.ctx x.rid (.response i bytes j.data)
      | _ => t)
  | .fill rid i =>
    match s.nrun k rid with
    | none => s
    | some r =>
      match j.fail with
      | some (o, st) =>
        s.nwEnd k r st (i * ((find (s.nq k).eps r.ep).map (fun e => payload e.pmtu)).getD 0 + o)
      | none =>
        let s1 := s.modNrun k rid (fun r => { r with missing := r.missing - 1 })
        if r.missing ≤ 1 then s1.nwEnd k r 0 r.len else s1

/-- Transfers that need no answer any more end, in order. -/
def State.endJobs (s : State) (k : Nat) : Nat → State
  | 0 => s
  | n + 1 =>
    match findIdx NJob.over (s.nq k).jobs with
    | none => s
    | some (i, j) => ((s.setNq k { s.nq k with jobs := dropAt (s.nq k).jobs i }).jobEnd k j).endJobs k n
def State.sweep (s : State) (k : Nat) : State := s.endJobs k ((s.nq k).jobs.length)

/-- Whether a packet is being placed already: a second copy is discarded (R372). -/
def State.placing (s : State) (k : Nat) (x : EPkt) : Bool :=
  (s.nq k).jobs.any (fun j => match j.use with
    | .place y | .serve y => y.psn == x.psn && y.ctx == x.ctx && y.srcAddr == x.srcAddr && y.srcJob == x.srcJob && y.srcPid == x.srcPid &&
        y.dstJob == x.dstJob && y.dstPid == x.dstPid
    | _ => false)

/-- A data packet arrives at its target engine (R372). One of a context that a later one of its sender has replaced is discarded. DESIGN
CHOICE (log entry 83): an unknown endpoint or peer is the first reason to refuse, the delivery service the next. -/
def State.placePacket (s : State) (x : EPkt) (op n off pos i len bytes data : Nat) : State :=
  let eng := x.dst / 4
  match s.endpointAt eng x.dstJob x.dstPid with
  | none => s.refusePacket x 1 i
  | some (k, ep, e) =>
    match e.peerFrom x with
    | none => s.refusePacket x 1 i
    | some (pi, p) =>
      if x.service ≠ .rud then s.refusePacket x 5 i
      else if x.ctx < (e.pdc pi).peerId then s
      else
        let d := (e.pdc pi).facing x.ctx
        let t := s.setEp k ep (e.setPdc pi d)
        match find d.refused x.psn with
        | some r => t.refusePacket x r i
        | none =>
          if d.has x.psn then t.toPeer eng e p 0 x.ctx x.rid d.ackBody
          else if t.placing k x then t
          else
            match targetPlace e p op n off pos len with
            | .error r => t.settleRefused k ep pi x r i
            | .ok va =>
              let c : NCmd := ⟨0, 0, 0, 0, (engCore eng + 16 * (x.dst % 4)) * 16, k % 64, none, e.prv, 0, 0, []⟩
              let r :=
                if op = 3 then t.jobReads k (NJob.start (.serve x) c) (accesses bytes va bytes 0)
                else t.jobWrites k (NJob.start (.place x) c) data (accesses bytes va bytes 0)
              (r.1.addJob k r.2).sweep k

def State.takePacket (s : State) (n : Nat) : Option (EPkt × State) :=
  (s.ether[n]?).map (fun x => (x, { s with ether := dropAt s.ether n }))

def State.nwPacket (s : State) (n : Nat) : Option State :=
  match s.takePacket n with
  | none => none
  | some (x, t) =>
    match x.body with
    | .data op m off pos i _ len _ _ bytes data => some (t.placePacket x op m off pos i len bytes data)
    | _ => none

def execNwPacketArrival (n : Nat) (s : State) : Host.Outcome State Fault Refusal := event "NW_PACKET_ARRIVAL" (s.nwPacket n)

/-! ### Starting commands (R364, R369, R371, R374) -/

/-- The command at the head of a queue, if it may start: a CTRWAIT whose counter is reached; an EPOPEN whose endpoint no command uses; and
none while an EPOPEN reads its table. -/
def State.nwReady (s : State) (k : Nat) : Option NCmd :=
  let q := s.nq k
  match q.queue with
  | [] => none
  | c :: _ =>
    if q.jobs.any (fun j => match j.use with | .table _ => true | _ => false) then none
    else
      match cmdCode c.fn with
      | 0 => if q.running.any (fun r => r.ep == wfld (s.blockWord c 0) 61 56) then none else some c
      | 5 => if wfld c.wa 47 0 ≤ q.ctr (wfld c.wa 53 48) then some c else none
      | _ => some c

/-- Bytes that a command sends or receives: none for an invalid request. -/
def State.nwCost (s : State) (k : Nat) (c : NCmd) : Nat :=
  let r := s.request c
  if cmdCode c.fn = 0 || 3 < cmdCode c.fn || s.badRequest c r (find (s.nq k).eps r.ep) then 0 else r.len

/-- A booth's weight: the slot groups that it owns on the die's edge cores. -/
def State.nwWeight (s : State) (eng booth : Nat) : Nat :=
  (List.range 4).foldl (fun n g => n + s.weight (engOf (mkCid true (eng / 4) (eng % 4) g 0)) booth) 0

def State.nwBid (eng : Nat) (s : State) (b : Nat) : Bid :=
  let q := s.nq (eng * 64 + b)
  ⟨(s.nwReady (eng * 64 + b)).map (s.nwCost (eng * 64 + b)), q.queue.isEmpty, q.deficit, s.nwWeight eng b⟩

/-- The block that a command names is still in a bank of its booth (R24). -/
def State.keepsBlock (s : State) (c : NCmd) : Bool := s.ownsOff (cidOf c.key) c.booth (addrOf c.wa - winBase)

/-- The arbiter starts the command at the head of the queue whose turn it is. A command whose block has left the booth with a resize fails as
a window address outside its banks. -/
def State.nwStart (s : State) (k : Nat) : Option State :=
  let eng := k / 64
  if !(List.range 48).any (fun b => (s.nwReady (eng * 64 + b)).isSome) then none
  else
    match s.arbitrate (State.nwBid eng) (fun t b d => t.setNq (eng * 64 + b) { t.nq (eng * 64 + b) with deficit := d }) 262144
        (getD s.nturns eng 0) with
    | none => none
    | some (b, t0) =>
      match (t0.nq k).queue with
      | [] => none
      | c :: cs =>
        if b ≠ k % 64 then none
        else
          let t := ({ t0 with nturns := put t0.nturns eng b }.setNq k { t0.nq k with queue := cs }).wake
            (fun _ x w => nqKey (cidOf x.key) x.booth == k && lists .n (cidOf x.key) && w == Why.port .net)
          some (if cmdCode c.fn < 4 && !s.keepsBlock c then t.nwResult c 1 0
            else match cmdCode c.fn with
            | 0 => (t.epopen k c).sweep k
            | 4 => (t.setCtr k (wfld c.wa 53 48) (wfld c.wa 47 0)).nwResult c 0 0
            | 5 => t.nwResult c 0 0
            | _ => (t.startRequest k c).sweep k)

def execNwCmdStart (eng : Nat) (s : State) : Host.Outcome State Fault Refusal := event "NW_CMD_START" (s.nwStart eng)

/-- The oldest increment for a received message reaches its counter (R372, R374). -/
def State.countDue (s : State) (k : Nat) : Option State :=
  match (s.nq k).due with
  | [] => none
  | c :: cs => some ((s.setNq k { s.nq k with due := cs }).addCtr k c)

/-- The target acknowledges a context's packets 512 cycles after the first of them was placed (R373); `i` is endpoint * 256 + peer. -/
def State.nwAckTimer (s : State) (k i : Nat) : Option State :=
  match find (s.nq k).eps (i / 256) with
  | none => none
  | some e =>
    let d := e.pdc (i % 256)
    match e.peers[i % 256]? with
    | none => none
    | some p =>
      if d.unacked = 0 || s.cycle < d.since + 512 then none
      else
        let d1 := { d with unacked := 0 }
        some ((s.setEp k (i / 256) (e.setPdc (i % 256) d1)).toPeer (k / 64) e p 0 d1.peerId 0 d1.ackBody)

/-- The target's two dues: the acknowledgement timer of a context, and, beyond the contexts' numbers, the count of received messages. -/
def execNwAckTimer (eng im : Nat) (s : State) : Host.Outcome State Fault Refusal :=
  event "NW_ACK_TIMER" (if im < 16384 then s.nwAckTimer eng im else s.countDue eng)

/-! ### The sender (R373) -/

/-- Whether an acknowledgement covers a sequence number. -/
def acked (cum : Nat) (above : List Nat) (psn : Nat) : Bool := psn < cum || above.contains psn

/-- One acknowledgement for one run: settled packets leave; a packet that three later ones have passed is resent once. DEDUCED (log
entry 80): a read's packet is settled by its response, and a refused one by its refusal. -/
def State.ackRun (s : State) (k : Nat) (e : Endpoint) (cum : Nat) (above refused : List Nat) (r : NRun) : State :=
  let keep := r.out.filter (fun x => r.op = 3 || refused.contains x.psn || !acked cum above x.psn)
  let late (x : NPkt) : Bool := !acked cum above x.psn && x.passed < 3 && 3 ≤ (above.filter (x.psn < ·)).length
  let out := keep.map (fun x => if late x then { x with passed := 3, tries := x.tries + 1, sentAt := s.cycle } else x)
  let s1 := s.modNrun k r.rid (fun r => { r with out := out })
  if out.isEmpty && r.unsent = 0 && r.op ≠ 3 then s1.nwEnd k r 0 r.len
  else (keep.filter late).foldl (fun t x => t.sendPacket k e r true x.index x.psn) s1

def State.nwAck (s : State) (n : Nat) : Option State :=
  match s.takePacket n with
  | none => none
  | some (x, t) =>
    match x.body with
    | .ack (cum :: above) refused =>
      match t.endpointAt (x.dst / 4) x.dstJob x.dstPid with
      | none => some t
      | some (k, ep, e) =>
        match e.peerFrom x with
        | none => some t
        | some (pi, _) =>
          if (e.pdc pi).id ≠ x.ctx then some t
          else some ((((t.nq k).running.filter (fun r => r.ep == ep && r.peer == pi)).foldl
            (fun u r => u.ackRun k e cum above refused r) t).sweep k)
    | _ => none

def execNwAckArrival (n : Nat) (s : State) : Host.Outcome State Fault Refusal := event "NW_ACK_ARRIVAL" (s.nwAck n)

/-- RTO has passed for a packet: it is sent again, or ends its command (R373). -/
def State.nwRto (s : State) (k i pkt : Nat) : Option State :=
  let q := s.nq k
  match q.running[i]? with
  | none => none
  | some r =>
    match r.out.find? (fun x => x.index == pkt), find q.eps r.ep with
    | some x, some e =>
      if s.cycle < x.sentAt + e.rto then none
      else if e.retry ≤ x.tries then some (s.nwEnd k r 4 pkt)
      else
        let out := r.out.map (fun y => if y.index = pkt then { y with tries := y.tries + 1, sentAt := s.cycle } else y)
        some (((s.modNrun k r.rid (fun r => { r with out := out })).sendPacket k e r true pkt x.psn).sweep k)
    | _, _ => none

def execNwRtoExpiry (eng im pkt : Nat) (s : State) : Host.Outcome State Fault Refusal :=
  event "NW_RTO_EXPIRY" (s.nwRto eng im pkt)

/-- The run that a packet answers. -/
def State.runOf (s : State) (eng rid : Nat) : Option (Nat × NRun) :=
  (s.nqs.filter (fun e => e.1 / 64 == eng)).findSome? (fun e =>
    (e.2.running.find? (fun r => r.rid == rid)).map (fun r => (e.1, r)))

/-- A read response's bytes are written at LADDR (R371); a second response to one request is discarded. -/
def State.nwResponse (s : State) (n : Nat) : Option State :=
  match s.takePacket n with
  | none => none
  | some (x, t) =>
    match x.body with
    | .response i bytes data =>
      match t.runOf (x.dst / 4) x.rid with
      | none => some t
      | some (k, r) =>
        if !r.out.any (fun y => y.index == i) then some t
        else
          let sz := ((find (t.nq k).eps r.ep).map (fun e => payload e.pmtu)).getD 0
          let t1 := t.modNrun k r.rid (fun r => { r with out := r.out.filter (fun y => y.index != i) })
          let w := t1.jobWrites k (NJob.start (.fill r.rid i) r.cmd) data (accesses bytes (r.laddr + i * sz) bytes 0)
          some ((w.1.addJob k w.2).sweep k)
    | _ => none

def execNwReadResponse (n : Nat) (s : State) : Host.Outcome State Fault Refusal := event "NW_READ_RESPONSE" (s.nwResponse n)

/-- A refusal ends the command that sent the packet (R372, R376). -/
def State.nwRefused (s : State) (n : Nat) : Option State :=
  match s.takePacket n with
  | none => none
  | some (x, t) =>
    match x.body with
    | .refused reason i =>
      match t.runOf (x.dst / 4) x.rid with
      | none => some t
      | some (k, r) => some (t.nwEnd k r 3 (reason * 2 ^ 32 + i))
    | _ => none

def execNwRefusal (n : Nat) (s : State) : Host.Outcome State Fault Refusal := event "NW_REFUSAL" (s.nwRefused n)

/-- An Ethernet port is lost: commands on its endpoints end with status 4 (R378), with the index of their first packet not
acknowledged; packets under way at the port are lost. -/
def State.nwPortLost (s : State) (eng port : Nat) : Option State :=
  let p := eng * 4 + port
  if s.etherLost.contains p || 4 ≤ port then none
  else
    let s1 := { s with etherLost := insert s.etherLost p, ether := s.ether.filter (fun x => x.src != p && x.dst != p) }
    some ((s1.nqs.filter (fun e => e.1 / 64 == eng)).foldl (fun t e =>
      (e.2.running.filter (fun r => match find e.2.eps r.ep with | none => false | some x => x.port == port)).foldl
        (fun u r => u.nwEnd e.1 r 4 ((r.out.head?.map NPkt.index).getD 0)) t) s1)

def execNwPortLoss (die port : Nat) (s : State) : Host.Outcome State Fault Refusal :=
  event "NW_PORT_LOSS" (s.nwPortLost die port)

/-! ### Answers to an engine's accesses (R344, R371, R372) -/

/-- Writes that the window kept back go on while it has room. -/
def State.netOpens (s : State) (k : Nat) : Nat → State
  | 0 => s
  | n + 1 =>
    if (s.nq k).win.full then s
    else
      match findIdx (fun j => !j.vals.isEmpty) (s.nq k).jobs with
      | none => s
      | some (i, j) =>
        let v := j.vals.headD (0, 0, 0, 0)
        let r := s.jobWrite k { j with vals := j.vals.tail } (v.2.1, v.1, v.2.2.1) v.2.2.2
        (r.1.setNq k { r.1.nq k with jobs := setAt (r.1.nq k).jobs i r.2 }).netOpens k n

/-- An answer to an access: a value read, a write performed, or a refusal; a credit adjusts the window, and transfers that are over end. -/
def State.netAnswer (s : State) (k : Nat) (m : Msg) (credit : Nat) (val : Option Word) (refused : Bool) : State :=
  let s1 := s.credit (.net k) 0 0 credit m.mark
  let f (j : NJob) : NJob :=
    match j.wait.find? (fun w => w.1 == m.mid) with
    | none => j
    | some w =>
      let j1 := { j with wait := j.wait.filter (fun y => y.1 != m.mid) }
      if refused then j1.failAt w.2.1 2
      else match val with
        | none => j1
        | some v => { j1 with got := j1.got ++ [(w.2.1, v.toNat % 2 ^ (8 * w.2.2))] }
  let s2 := s1.setNq k { s1.nq k with jobs := (s1.nq k).jobs.map f }
  (s2.netOpens k ((s2.nq k).jobs.foldl (fun n j => n + j.vals.length) 0)).sweep k

end Sys2Proof.Machine
end

