-- ==== Sys2Proof/Machine/Events.lean ====
section
/-! DEFINITION. The steps of home cores and of the fabric's end points: requests performed, replies, acknowledgements,
credits, probes, limits, page walks and the special-function unit (R118, R145 to R166, R183, R344, R345). The argument n of a
message event is the message's place among those in flight. -/

namespace Sys2Proof.Machine
open Bits Tables

/-! ### Requests at the home -/

/-- A load is performed and answered (R147). -/
def State.doLoad (s : State) (m : Msg) (n : Nat) (signed : Bool) : State :=
  if s.refuses m n then s.sendRefusal m n
  else
    let s1 := s.underKey m false
    (s1.log m.dst m.booth (m.logRec 0 n 0)).answer m (.reply (Answer.value (loadValue s1.mem m.ga n signed)))

/-- A store is performed, and acknowledged or credited (R147, R344). -/
def State.doStore (s : State) (m : Msg) (n data : Nat) : State :=
  if s.refuses m n then s.sendRefusal m n
  else (((s.underKey m true).modMem (fun x => x.write m.ga n data)).log m.dst m.booth (m.logRec 1 n data)).settle m

/-- The members of a run take effect in order: memory, the log, and the credits of posted members (R163, R347). -/
def State.doMembers (s : State) (m : Msg) (op : AmoOp) (n : Nat) (comb : Bool) : List Member → State
  | [] => s
  | x :: xs =>
    let old := s.mem.read m.ga n
    let s1 := s.modMem (fun y => y.write m.ga n (amoValue op (8 * n) old x.operand))
    let rec0 := { m.logRec 2 n x.operand with comb := comb, src := x.tid }
    let mx := { m with mid := x.mid, src := x.src, uid := x.uid, tid := x.tid, posted := x.posted, ack := x.ack, d := x.d }
    let s2 := s1.log m.dst m.booth rec0
    (if x.posted then s2.settle mx else s2).doMembers m op n comb xs

/-- A refusal of an atomic reaches every member (R347). -/
def State.refuseMembers (s : State) (m : Msg) (ms : List Member) (f : State → Msg → State) : State :=
  ms.foldl (fun s x =>
    f s { m with mid := x.mid, src := x.src, uid := x.uid, tid := x.tid, posted := x.posted, ack := x.ack, d := x.d }) s

/-- The number of an atomic operation on n bytes: AOP of R161, 10 for `cas`, twice, plus the width bit. -/
def lackNo (op n : Nat) : Nat := 2 * op + (if n = 8 then 1 else 0)

/-- Whether the home of a request lacks an operation or format (R164). DESIGN CHOICE (log entry 74): no home does at reset. -/
def State.lacks (s : State) (m : Msg) (op n : Nat) : Bool := s.lacking.contains (m.dst * 64 + lackNo op n)

/-- The answer of a home that lacks the operation: ATOMIC_UNSUP for a waited-for access, a refusal for a posted one (R164). -/
def State.sendUnsup (s : State) (m : Msg) (n : Nat) : State :=
  if m.posted then s.sendRefusal m n else s.answer m (.trapReply Cause.atomicUnsup.code (tvV 0 m.va))

/-- An atomic, or a combined run as one access (R161 to R163, R347). -/
def State.doAmo (s : State) (m : Msg) (op : AmoOp) (n : Nat) (ms : List Member) : State :=
  if s.refuses m n then s.refuseMembers m ms (fun s x => s.sendRefusal x n)
  else if s.lacks m (AmoOp.code op) n then s.refuseMembers m ms (fun s x => s.sendUnsup x n)
  else
    let s0 := s.underKey m true
    let old := s0.mem.read m.ga n
    let s1 := s0.doMembers m op n (1 < ms.length) ms
    match ms with
    | [x] => if x.posted then s1 else s1.answer m (.reply (Answer.value (BitVec.ofNat 64 old)))
    | _ => if ms.all (·.posted) then s1 else s1.answer m (.combReply n ms old)

/-- `cas` at the home (R162). DESIGN CHOICE (log entry 85): its log entry's DATA, "atomic operand" in R212, is the new value gb, also where
the compare fails. -/
def State.doCas (s : State) (m : Msg) (n expect new : Nat) : State :=
  if s.refuses m n then s.sendRefusal m n
  else if s.lacks m 10 n then s.sendUnsup m n
  else
    let s0 := s.underKey m true
    let old := s0.mem.read m.ga n
    let s1 := if old = expect then s0.modMem (fun x => x.write m.ga n new) else s0
    (s1.log m.dst m.booth (m.logRec 3 n new)).answer m (.reply (Answer.value (BitVec.ofNat 64 old)))

/-- An aged request arrives: satisfied, trapped, or parked (R156). -/
def State.agedArrive (s : State) (m : Msg) (r : Req) : State :=
  if s.refuses m 8 then s.sendRefusal m 8
  else
    match s.agedTry m r with
    | some t => t
    | none => { s with agedWait := s.agedWait ++ [⟨m, s.cycle, 1⟩] }

/-- A publish arrives (R158): it is applied or stale, its log entry precedes those of the requests that it releases (R212, R213), and its
answer carries the block's age. DESIGN CHOICE (log entry 85): DATA of an engine's PUBLISH is the low 8 bytes of the block (R212). -/
def State.pubArrive (s : State) (m : Msg) (data it : Nat) : State :=
  if s.refuses m 512 then s.sendRefusal m 512
  else
    let s0 := (s.underKey m true).unstop m.dst m.booth m.tid
    let applies := s0.pubApplies m.ga it
    let age := if applies then it else (s0.mem.block m.ga).age
    let was := s0.mem.fulls (m.ga - m.ga % 512) 64
    let s1 := if applies then s0.modMem (fun x => x.publish m.ga data it m.tid) else s0
    let d := match m.party with
      | .core => b2n applies * 2 ^ 63 + age
      | _ => data % 2 ^ 64
    let s2 := s1.log m.dst m.booth { m.logRec 8 8 d with va := m.va - m.va % 512 }
    (if applies then s2.released m.ga was else s2).answer m (.reply (Answer.value (BitVec.ofNat 64 age)))

/-- Takes the n-th message when it has arrived. -/
def State.take (s : State) (n : Nat) : Option (Msg × State) := (s.arrived n).map (fun m => (m, s.dropMsg n))

/-- Takes the n-th message, if its body is the one wanted. -/
def State.onMsg (s : State) (n : Nat) (f : Msg → State → Option State) : Option State :=
  match s.take n with
  | none => none
  | some (m, t) => f m t

def execHomeLoad (n : Nat) (s : State) : Host.Outcome State Fault Refusal :=
  event "HOME_LOAD" (s.onMsg n fun m t =>
    match m.body with
    | .req (.load k sg) => some (t.doLoad m k sg)
    | _ => none)
def execHomeStore (n : Nat) (s : State) : Host.Outcome State Fault Refusal :=
  event "HOME_STORE" (s.onMsg n fun m t =>
    match m.body with
    | .req (.store k d) => some (t.doStore m k d)
    | _ => none)
def execHomeAtomic (n : Nat) (s : State) : Host.Outcome State Fault Refusal :=
  event "HOME_ATOMIC" (s.onMsg n fun m t =>
    match m.body with
    | .req (.amo op k ms) => some (t.doAmo m op k ms)
    | .req (.cas k e w) => some (t.doCas m k e w)
    | _ => none)
def execHomeSyncAccess (n : Nat) (s : State) : Host.Outcome State Fault Refusal :=
  event "HOME_SYNC_ACCESS" (s.onMsg n fun m t =>
    match m.body with
    | .req (.sync op d _ _) => some (if t.refuses m 8 then t.sendRefusal m 8 else t.syncArrive m op d)
    | _ => none)
def execHomeAgedLoad (n : Nat) (s : State) : Host.Outcome State Fault Refusal :=
  event "HOME_AGED_LOAD" (s.onMsg n fun m t =>
    match m.body with
    | .req (.lda w p l i k) => some (t.agedArrive m (.lda w p l i k))
    | _ => none)
def execHomeFetcha (n : Nat) (s : State) : Host.Outcome State Fault Refusal :=
  event "HOME_FETCHA" (s.onMsg n fun m t =>
    match m.body with
    | .req (.fetcha f p l i k) => some (t.agedArrive m (.fetcha f p l i k))
    | _ => none)
def execHomePublish (n : Nat) (s : State) : Host.Outcome State Fault Refusal :=
  event "HOME_PUBLISH" (s.onMsg n fun m t =>
    match m.body with
    | .req (.pub d i) => some (t.pubArrive m d i)
    | _ => none)

/-! ### Limits of parked requests (R152, R156, R157) -/

/-- The n-th full/empty request has been tried FERETRY + 1 times (R152). -/
def State.feRetry (s : State) (n : Nat) : Option State :=
  match s.feWait[n]? with
  | none => none
  | some p =>
    match p.msg.body with
    | .req (.sync _ _ retry _) =>
      if retry ≠ 0 && retry < p.tries then
        some ({ s with feWait := dropAt s.feWait n }.replyTrap p.msg Cause.feLimit.code (tvV 0 p.msg.va))
      else none
    | _ => none

/-- FEWAIT cycles have passed for the n-th full/empty request (R152): TVAL[59] = 1. -/
def State.feTimeout (s : State) (n : Nat) : Option State :=
  match s.feWait[n]? with
  | none => none
  | some p =>
    match p.msg.body with
    | .req (.sync _ _ _ limit) =>
      if limit ≠ 0 && p.since + limit ≤ s.cycle then
        some ({ s with feWait := dropAt s.feWait n }.replyTrap p.msg Cause.feLimit.code (2 ^ 59 + tvV 0 p.msg.va))
      else none
    | _ => none

/-- AGEWAIT cycles have passed for the n-th aged request, a thread's (R156). -/
def State.lagTimeout (s : State) (n : Nat) : Option State :=
  match s.agedWait[n]? with
  | none => none
  | some p =>
    match p.msg.body with
    | .req r =>
      match agedParams r with
      | none => none
      | some (_, _, _, limit) =>
        if p.msg.party = .core && limit ≠ 0 && p.since + limit ≤ s.cycle then
          some ({ s with agedWait := dropAt s.agedWait n }.answer p.msg
            (.trapReply Cause.lagTimeout.code (s.mem.block p.msg.ga).age))
        else none
    | _ => none

def execFeRetryLimit (n : Nat) (s : State) : Host.Outcome State Fault Refusal := event "FE_RETRY_LIMIT" (s.feRetry n)
def execFeWaitLimit (n : Nat) (s : State) : Host.Outcome State Fault Refusal := event "FE_WAIT_LIMIT" (s.feTimeout n)
def execLagTimeout (n : Nat) (s : State) : Host.Outcome State Fault Refusal := event "LAG_TIMEOUT" (s.lagTimeout n)

/-- A stop notice enters the home's stop list of 32 and releases the aged requests parked on blocks of that writer, in
order (R157). -/
def State.stopArrive (s : State) (m : Msg) (tid : Nat) : State :=
  let key := m.dst * 64 + m.booth
  let l := (tid :: (getD s.stops key []).filter (· != tid)).take 32
  let s1 := { s with stops := put s.stops key l, agedWait := [] }
  s.agedWait.foldl (fun t p =>
    let b := t.mem.block p.msg.ga
    if p.msg.dst = m.dst ∧ p.msg.booth = m.booth ∧ b.writer = tid ∧ tid ≠ 0 then
      t.answer p.msg (.trapReply Cause.lagWriterStopped.code (b.age * 2 ^ 32 + b.writer))
    else { t with agedWait := t.agedWait ++ [p] }) s1

def execStopNotice (n : Nat) (s : State) : Host.Outcome State Fault Refusal :=
  event "STOP_NOTICE" (s.onMsg n fun m t =>
    match m.body with
    | .stop tid => some (t.stopArrive m tid)
    | _ => none)

/-! ### Answers at the requester -/

/-- The party of a message gets its reply, and the mark adjusts the party's window (R345). A host reads the value it asked for. -/
def State.replied (s : State) (m : Msg) (a : Answer) : State :=
  match m.party with
  | .core => (s.credit .core m.dst m.booth 0 m.mark).deliver m a
  | .copy k => s.copyReply k m a
  | .net k => s.netAnswer k m 0 a.val false
  | .host _ => s

/-- The home ends an access with a trap (R145): a thread's traps. -/
def State.replyTraps (s : State) (m : Msg) (cause tval : Nat) : State :=
  match m.party with
  | .core =>
    let u := s.credit .core m.dst m.booth 0 m.mark
    match u.thread m.uid with
    | none => u
    | some th => if th.wait.awaits m.mid then u.lateTrap m.uid cause (BitVec.ofNat 64 tval) else u
  | .copy k => s.copyTrapped k m cause tval
  | .net k => s.netAnswer k m 0 none true
  | .host _ => s

/-- A reply to a waited-for access arrives (R145). -/
def execRemoteReply (n : Nat) (s : State) : Host.Outcome State Fault Refusal :=
  event "REMOTE_REPLY" (s.onMsg n fun m t =>
    match m.body with
    | .reply a => some (t.replied m a)
    | .trapReply c v => some (t.replyTraps m c v)
    | _ => none)

/-- A thread's access is settled: its window place and its acknowledgement (R145, R146, R344). -/
def State.acknowledged (s : State) (m : Msg) : State :=
  let s1 := (s.credit .core m.dst m.booth 1 m.mark).modThread m.uid (fun t => { t with
    spray := t.spray.filter (fun x => x.1 != m.mid)
    offPkg := t.offPkg.filter (· != m.mid) })
  let s2 := (s1.wakeWindow m.dst m.booth).wake (fun u _ w => u == m.uid && w == .spray)
  s2.fenceAdvance m.uid

/-- A posted access is performed, or refused, for its party (R146, R149, R215, R344). An engine's is not recorded against any thread's
fences (R238). -/
def State.settled (s : State) (m : Msg) (refused : Bool) : State :=
  match m.party, m.body with
  | .core, .refusal va => (s.refuse m.uid va m.src).acknowledged m
  | .core, _ => s.acknowledged m
  | .copy k, _ => s.copyWritten k m refused
  | .net k, _ => s.netAnswer k m 1 none refused
  | .host _, _ => s

def execAcknowledgement (n : Nat) (s : State) : Host.Outcome State Fault Refusal :=
  event "ACKNOWLEDGEMENT" (s.onMsg n fun m t =>
    match m.body with
    | .ack => some (t.settled m false)
    | _ => none)

def execOrderedCredit (n : Nat) (s : State) : Host.Outcome State Fault Refusal :=
  event "ORDERED_CREDIT" (s.onMsg n fun m t =>
    match m.body with
    | .credit c => some ((t.credit .core m.dst m.booth c m.mark).wakeWindow m.dst m.booth)
    | _ => none)

/-- A home credits what it has performed for one source, 32 cycles after the first (R344): the n-th such pair. -/
def State.creditTimer (s : State) (n : Nat) : Option State :=
  match s.uncredited[n]? with
  | none => none
  | some (key, c, mark, since) =>
    if s.cycle < since + 32 then none
    else
      let m := { s.newMsg (key / 2 ^ 32) (key % 2 ^ 32 / 64) (key % 64) 0 0 2 (.credit c) with mark := mark }
      some ({ s with uncredited := dropAt s.uncredited n }.inject m)

def execCreditTimer (n : Nat) (s : State) : Host.Outcome State Fault Refusal := event "CREDIT_TIMER" (s.creditTimer n)

/-- A refusal of a posted access (R149, R215): the access is settled, the record is set. -/
def execPostedRefusal (n : Nat) (s : State) : Host.Outcome State Fault Refusal :=
  event "POSTED_REFUSAL" (s.onMsg n fun m t =>
    match m.body with
    | .refusal _ => some (t.settled m true)
    | _ => none)

/-! ### Fences (R166) -/

/-- An earlier ordered access of the n-th message's source to its home still waits, be it at the CXL bridge's port (R145, R339). -/
def State.accessBefore (s : State) (n : Nat) (m : Msg) : Bool :=
  (s.net.take n).any (fun x => x.chan == 0 && x.dst == m.dst && x.sources.contains m.src)

/-- A probe is echoed once every earlier ordered access of its source is performed. -/
def execFenceProbe (n : Nat) (s : State) : Host.Outcome State Fault Refusal :=
  event "FENCE_PROBE" (s.onMsg n fun m t =>
    match m.body with
    | .probe => if s.accessBefore n m then none else some (t.answer m .echo)
    | _ => none)

/-- A refusal of one of the thread's posted accesses is under way: an echo sent after it waits, so that the fence sees the refusal (R149,
R215). -/
def State.refusalFlies (s : State) (uid : Nat) : Bool :=
  s.net.any (fun m => m.uid == uid && m.party == .core && (match m.body with | .refusal _ => true | _ => false))

/-- An echo returns; the last one ends the fence. -/
def State.echoed (s : State) (m : Msg) : State :=
  match s.thread m.uid with
  | none => s
  | some t =>
    match t.wait with
    | .fence scope true left cont =>
      let l := left.erase m.src
      if l.isEmpty then s.fenceEnd m.uid scope cont
      else s.setThread m.uid { t with wait := .fence scope true l cont }
    | _ => s

def execFenceEcho (n : Nat) (s : State) : Host.Outcome State Fault Refusal :=
  event "FENCE_ECHO" (s.onMsg n fun m t =>
    match m.body with
    | .echo => if t.refusalFlies m.uid then none else some (t.echoed m)
    | _ => none)

/-! ### Page walks (R118) -/

/-- An entry enters a buffer of n entries; the oldest leaves a full one. -/
def cached (n : Nat) (t : List (Nat × Page)) (b : Nat) (p : Page) : List (Nat × Page) :=
  if t.contains (b, p) then t else ((b, p) :: t).take n

/-- Whether a wait is for a walk. -/
def Walk.awaited (w : Walk) (x : Why) : Bool :=
  match x with
  | .walk c b va _ _ => c == w.cluster && b == w.booth && va == w.va
  | _ => false

/-- The trap of a thread whose walk found no page (R119). -/
def Walk.trapOf (w : Walk) (t : Thread) : Option (Nat × Nat) :=
  match t.wait with
  | .retry (.walk c b va cause tval) => if c = w.cluster ∧ b = w.booth ∧ va = w.va then some (cause, tval) else none
  | _ => none

/-- A walk ends: its page enters the cluster's buffer and those of the cores whose threads waited, and they issue again; where the
booth maps no page there, they trap. A cluster runs the four oldest of its walks. -/
def State.walkEnd (s : State) (n : Nat) : Option State :=
  match s.walks[n]? with
  | none => none
  | some w =>
    if 4 ≤ ((s.walks.take n).filter (fun x => x.cluster == w.cluster)).length then none
    else
      let s1 := { s with walks := dropAt s.walks n }
      let waiting := s1.threads.filter (fun e => (w.trapOf e.2).isSome)
      match s1.pageFor (w.cluster / 2 ^ 9 % 2 ^ 12) w.booth w.va with
      | none => some (waiting.foldl (fun t e =>
          match w.trapOf e.2 with
          | some (c, v) => t.lateTrap e.1 c (BitVec.ofNat 64 v)
          | none => t) s1)
      | some p =>
        let l2 := put s1.l2 w.cluster (cached 2048 (getD s1.l2 w.cluster []) w.booth p)
        let s2 := waiting.foldl (fun t e =>
          let cid := cidOf e.2.key
          t.setCore cid { t.core cid with tlb := cached 32 (t.core cid).tlb w.booth p }) { s1 with l2 := l2 }
        some (s2.wake (fun _ _ x => w.awaited x))

def execWalkComplete (n : Nat) (s : State) : Host.Outcome State Fault Refusal := event "WALK_COMPLETE" (s.walkEnd n)

/-! ### The special-function unit (R183 to R185) -/

/-- The first deferred request whose share has room enters; its bundle completes. -/
def State.sfuEnqueue (s : State) (cid : Nat) : Option State :=
  let c := s.core cid
  let room (r : SfuReq) : Bool :=
    match (c.owners.toList[r.group]?).join with
    | none => true
    | some b => c.sfuShare b < c.sfuRoom b
  match findIdx room c.sfuWait with
  | none => none
  | some (i, r) =>
    let s1 := (s.setCore cid { c with sfuWait := dropAt c.sfuWait i }).sfuEnter cid r
    some (s1.modThread r.uid (fun t => if t.wait == .sfuQueue then t.woken s.cycle else t))

/-- A push to a bound out-stream from outside the bundle stays when a later trap of the bundle puts the bindings of its issue back
(R66, R111, R185). -/
def State.pushKept (s : State) (uid : Nat) (r : GReg) : State :=
  match streamNo r with
  | none => s
  | some n =>
    if h : n < 4 then
      s.modThread uid (fun t => { t with issued := { t.issued with streams := t.issued.streams.set n ((s.regsOf uid).stream r) h } })
    else s

/-- The head request finishes: its result is written unless its thread has ended (R185). -/
def State.sfuResult (s : State) (cid : Nat) : Option State :=
  let c := s.core cid
  match c.sfuQ with
  | [] => none
  | r :: rs =>
    let s1 := s.setCore cid { c with sfuQ := rs }
    let v := BitVec.ofNat 64 (Exact.special r.op r.x.toNat r.y.toNat)
    let s2 := ((s1.writeGOf r.uid r.d v).pushKept r.uid r.d).modThread r.uid
      (fun t => { t with sfuPend := t.sfuPend &&& ~~~(1#16 <<< r.d.val) })
    some (s2.wake (fun u t w =>
      (u == r.uid && (w == .pending || w == .drain)) || (cidOf t.key == cid && w == .sfuFull)))

def execSfuEnqueue (cid : Nat) (s : State) : Host.Outcome State Fault Refusal := event "SFU_ENQUEUE" (s.sfuEnqueue cid)
def execSfuResult (cid : Nat) (s : State) : Host.Outcome State Fault Refusal := event "SFU_RESULT" (s.sfuResult cid)

end Sys2Proof.Machine
end

