-- ==== Sys2Proof/Machine/Hash.lean ====
section
/-! DEFINITION. The hashes that the spec names, SHA-256 (R392) and SHA-384 (R326, R384, R387, R390), over byte strings. PRESUMED:
the functions are those of FIPS 180-4; the spec names them and does not write them out. -/

namespace Sys2Proof.Machine
open Bits

/-- The first eighty primes, whose roots give the constants. -/
def hashPrimes : List Nat := ((List.range 410).drop 2).filter (fun p => ((List.range 21).drop 2).all (fun d => p % d != 0 || p == d))

/-- The integer k-th root of n, by its bits from bit b - 1 down, above a part already found. -/
def intRoot (k n : Nat) : Nat → Nat → Nat
  | 0, r => r
  | b + 1, r => intRoot k n b (if (r + 2 ^ b) ^ k ≤ n then r + 2 ^ b else r)

/-- The first w bits of the fraction of the k-th root of a prime. -/
def rootBits (w k p : Nat) : BitVec w := BitVec.ofNat w (intRoot k (p * 2 ^ (k * w)) (w + 5) 0)

/-- What tells SHA-256 and SHA-384 apart: rounds, initial words, the round constants and the six rotations (the third amount
of each small sigma is a shift). -/
structure HashKind (w : Nat) where
  rounds : Nat
  init : List (BitVec w)
  big0 : Nat × Nat × Nat
  big1 : Nat × Nat × Nat
  small0 : Nat × Nat × Nat
  small1 : Nat × Nat × Nat

def rot3 {w : Nat} (t : Nat × Nat × Nat) (x : BitVec w) : BitVec w :=
  x.rotateRight t.1 ^^^ x.rotateRight t.2.1 ^^^ x.rotateRight t.2.2
def rot2 {w : Nat} (t : Nat × Nat × Nat) (x : BitVec w) : BitVec w :=
  x.rotateRight t.1 ^^^ x.rotateRight t.2.1 ^^^ x >>> t.2.2

/-- The message schedule: the last sixteen words move on by one each round; the list is oldest first. -/
def hashNext {w : Nat} (h : HashKind w) (m : List (BitVec w)) : List (BitVec w) :=
  m.drop 1 ++ [m.getD 0 0 + rot2 h.small0 (m.getD 1 0) + m.getD 9 0 + rot2 h.small1 (m.getD 14 0)]

/-- The rounds over one block: working words a to h, the schedule, and the constants of the rounds left. -/
def hashRounds {w : Nat} (h : HashKind w) : List (BitVec w) → List (BitVec w) → List (BitVec w) → List (BitVec w)
  | [], _, v => v
  | c :: cs, m, v =>
    let g (i : Nat) : BitVec w := v.getD i 0
    let t1 := g 7 + rot3 h.big1 (g 4) + (g 4 &&& g 5 ^^^ ~~~ g 4 &&& g 6) + c + m.getD 0 0
    let t2 := rot3 h.big0 (g 0) + (g 0 &&& g 1 ^^^ g 0 &&& g 2 ^^^ g 1 &&& g 2)
    hashRounds h cs (hashNext h m) [t1 + t2, g 0, g 1, g 2, g 3 + t1, g 4, g 5, g 6]

/-- A string cut into pieces of n, with fuel. -/
def pieces (n : Nat) : Nat → List Byte → List (List Byte)
  | 0, _ => []
  | k + 1, l => if l.isEmpty then [] else l.take n :: pieces n k (l.drop n)

/-- The padded string: a one bit, zeroes, and the length in bits as a number of w / 4 bytes, highest byte first. -/
def hashPad (w : Nat) (l : List Byte) : List Byte :=
  let block := 2 * w
  let n := l.length + 1 + w / 4
  l ++ [0x80] ++ List.replicate ((block - n % block) % block) 0 ++ (bytesOf (w / 4) (8 * l.length)).reverse

/-- The hash of a string: its eight words. -/
def hashWords {w : Nat} (h : HashKind w) (l : List Byte) : List (BitVec w) :=
  let p := hashPad w l
  let cs := (hashPrimes.take h.rounds).map (rootBits w 3)
  (pieces (2 * w) (p.length / (2 * w)) p).foldl
    (fun v b =>
      let m := (pieces (w / 8) 16 b).map (fun x => BitVec.ofNat w (ofBytes x.reverse))
      List.zipWith (· + ·) v (hashRounds h cs m v))
    h.init

/-- SHA-256: 32 bytes in output order. -/
def sha256 (l : List Byte) : List Byte :=
  (hashWords (w := 32) ⟨64, (hashPrimes.take 8).map (rootBits 32 2), (2, 13, 22), (6, 11, 25), (7, 18, 3), (17, 19, 10)⟩ l).flatMap
    (fun x => (bytesOf 4 x.toNat).reverse)

/-- SHA-384: 48 bytes in output order. -/
def sha384 (l : List Byte) : List Byte :=
  ((hashWords (w := 64) ⟨80, ((hashPrimes.drop 8).take 8).map (rootBits 64 2), (28, 34, 39), (14, 18, 41), (1, 8, 7), (19, 61, 6)⟩
    l).take 6).flatMap (fun x => (bytesOf 8 x.toNat).reverse)

/-- A byte string stored in order from byte 0 of the first of n words (R3). -/
def wordsOf (n : Nat) (l : List Byte) : List Word := (chunks n 64 (ofBytes l)).map (BitVec.ofNat 64)

end Sys2Proof.Machine
end

