-- ==== Sys2Proof/Machine/Names.lean ====
section
/-! DEFINITION. The registers that a word names: general registers read and written (R64, R184), and the vector and mask
registers written (R64). -/

namespace Sys2Proof

def Lag.reads : Lag → List GReg
  | .count _ => []
  | .reg r => [r]

/-- The old value of gD is read under `.rs` (R175). -/
def Rnd.old (r : Rnd) (d : GReg) : List GReg := if r == .rs then [d] else []

/-- `send` reads four registers from gB (R308). -/
def four (b : GReg) : List GReg := [b, b + 1, b + 2, b + 3]

/-- The general registers named as sources, in the order of their pops. DEDUCED (log entry 57): R65 orders field a before field b; a
source in field d comes after field a, and a lag register last. -/
def Instr.reads : Instr → List GReg
  | .csrw _ a | .csrs _ a | .csrc _ a | .jr a | .callr a => [a]
  | .beq a b _ | .bne a b _ | .blt a b _ | .bge a b _ | .blo a b _ | .bhs a b _ => [a, b]
  | .ld _ a _ _ _ _ | .ldf _ a _ _ | .ldff _ a _ _ | .fetst _ a _ _ | .stemp a _ _ => [a]
  | .st d a _ _ _ | .stf d a _ _ | .stfill d a _ _ => [a, d]
  | .lda _ a _ g _ => a :: g.reads
  | .fetcha d a _ g _ => a :: d :: g.reads
  | .pub _ a b => [a, b]
  | .itset a => [a]
  | .amo _ _ a b _ _ => [a, b]
  | .cas d a b _ _ => [a, b, d]
  | .mig a | .migc a => [a]
  | .tlook _ a | .tinv a | .tage _ a => [a]
  | .tset a b => [a, b]
  | .pushCopy a b _ _ | .pushGather a b _ _ _ | .pushScatter a b _ _ _ | .pushFill a b _ _ | .pushFetcha a b _ _
  | .pushPublish a b _ _ | .pushReduce a b _ _ _ | .pushAbar a b _ _ | .pushArm a b => [a, b]
  | .pushEpopen a b _ | .pushWsend a b _ | .pushWwrite a b _ | .pushWread a b _ | .pushCtrset a b _
  | .pushCtrwait a b _ => [a, b]
  | .ctrwait a _ | .crcfg a | .crcfgSet a | .crcfgAdd a => [a]
  | .spawn a b | .post a b => [a, b]
  | .send a b => a :: four b
  | .chset _ a b | .chclr _ a b => [a, b]
  | .resid a | .launch _ a => [a]
  | .mcfg a b | .mma _ a b _ _ | .mst _ a b | .mcmp a b _ | .mrot _ a b _ _ | .msmp _ a b _ _
  | .mstop a b => [a, b]
  | .mnorm d a b => [a, b, d]
  | .malias a | .lwr _ a => [a]
  | .vld _ a b _ _ | .vst _ a b _ _ | .sbind _ a b => [a, b]
  | .add _ _ a b | .sub _ _ a b | .mul _ _ a b | .mulh _ _ a b | .mulhz _ _ a b | .div _ _ a b | .divz _ _ a b
  | .rem _ _ a b | .remz _ _ a b | .and _ _ a b | .or _ _ a b | .xor _ _ a b | .andn _ _ a b | .shl _ _ a b
  | .shr _ _ a b | .sar _ _ a b | .slt _ _ a b | .sltz _ _ a b | .min _ _ a b | .max _ _ a b | .minz _ _ a b
  | .maxz _ _ a b => [a, b]
  | .clz _ _ a | .ctz _ _ a | .popc _ _ a => [a]
  | .sel _ _ a b c => [a, b, c]
  | .bfx _ a _ _ _ => [a]
  | .bfi d a _ _ => [a, d]
  | .addi _ a _ | .andi _ a _ | .ori _ a _ | .xori _ a _ | .slti _ a _ => [a]
  | .shli _ a _ | .shri _ a _ | .sari _ a _ => [a]
  | .fadd d a b r _ _ | .fsub d a b r _ _ | .fmul d a b r _ _ => [a, b] ++ r.old d
  | .fmin _ a b | .fmax _ a b | .feq _ a b | .flt _ a b | .fle _ a b | .fsgn _ a b _ => [a, b]
  | .fcls _ a => [a]
  | .ffma d a b c r _ _ => [a, b, c] ++ r.old d
  | .fcvt d a _ _ _ r => [a] ++ r.old d
  | .srnd _ a b _ _ _ _ | .cadd _ a b | .fdiv _ a b => [a, b]
  | .frcp _ a | .frsq _ a | .fsqrt _ a | .fex2 _ a | .flg2 _ a | .fsin _ a | .fcos _ a | .ftanh _ a => [a]
  | .vadd _ _ _ b a | .vsub _ _ _ b a | .vmul _ _ _ b a | .vfma _ _ _ b a | .vcvt _ _ b a | .vbcast _ b a => [a, b]
  | .vmin _ _ _ b | .vmax _ _ _ b | .vcmp _ _ _ b | .vsel _ _ _ b | .vred _ _ b | .vscan _ _ b | .vperm _ _ _ b => [b]
  | .kset _ a | .vput _ a _ => [a]
  | _ => []

/-- The general registers written, `call` and `callr` writing g15. -/
def Instr.writes : Instr → List GReg
  | .csrr d _ => [d]
  | .call _ | .callr _ => [15]
  | .ld d _ _ _ _ _ | .ldf d _ _ _ | .ldff d _ _ _ | .fetst d _ _ _ | .lda d _ _ _ _ | .pub d _ _ => [d]
  | .amo _ d _ _ _ _ | .cas d _ _ _ _ | .tlook d _ | .tage d _ | .pop d _ => [d]
  | .chset d _ _ | .chclr d _ _ | .launch d _ => [d]
  | .mcnt d _ _ | .mlink d _ | .mvar d _ | .lrd d _ | .lrf d _ _ => [d]
  | .add _ d _ _ | .sub _ d _ _ | .mul _ d _ _ | .mulh _ d _ _ | .mulhz _ d _ _ | .div _ d _ _ | .divz _ d _ _
  | .rem _ d _ _ | .remz _ d _ _ | .and _ d _ _ | .or _ d _ _ | .xor _ d _ _ | .andn _ d _ _ | .shl _ d _ _
  | .shr _ d _ _ | .sar _ d _ _ | .slt _ d _ _ | .sltz _ d _ _ | .min _ d _ _ | .max _ d _ _ | .minz _ d _ _
  | .maxz _ d _ _ => [d]
  | .clz _ d _ | .ctz _ d _ | .popc _ d _ => [d]
  | .sel _ d _ _ _ => [d]
  | .bfx d _ _ _ _ | .bfi d _ _ _ => [d]
  | .addi d _ _ | .andi d _ _ | .ori d _ _ | .xori d _ _ | .slti d _ _ | .lui d _ => [d]
  | .shli d _ _ | .shri d _ _ | .sari d _ _ => [d]
  | .fadd d _ _ _ _ _ | .fsub d _ _ _ _ _ | .fmul d _ _ _ _ _ => [d]
  | .fmin d _ _ | .fmax d _ _ | .feq d _ _ | .flt d _ _ | .fle d _ _ | .fsgn d _ _ _ | .fcls d _ => [d]
  | .ffma d _ _ _ _ _ _ | .fcvt d _ _ _ _ _ | .srnd d _ _ _ _ _ _ | .cadd d _ _ | .fdiv d _ _ => [d]
  | .frcp d _ | .frsq d _ | .fsqrt d _ | .fex2 d _ | .flg2 d _ | .fsin d _ | .fcos d _ | .ftanh d _ => [d]
  | .vget d _ _ | .vbusy d | .kpop d _ => [d]
  | _ => []

/-- The registers whose pending special-function result makes a bundle park (R184): those that its words name as source or destination,
and the register that a stream instruction binds or frees (R189). DEDUCED (log entry 57): `vbusy` names none, since R198 says that it
never parks. -/
def Instr.names (i : Instr) : List GReg :=
  match i with
  | .vbusy _ => []
  | .sbind n _ _ | .sfree n => ⟨8 + n.val, by omega⟩ :: i.reads
  | _ => i.reads ++ i.writes

/-- The stream instructions that change or reread bindings (R189). -/
def Instr.rebinds : Instr → Bool
  | .sbind _ _ _ | .sfree _ | .ssync => true
  | _ => false

/-- The general source fields in the order of the restart record (R318): a and b of a C word; a, b and c of an A word. -/
def Instr.fields (i : Instr) : List (Option GReg) :=
  match i with
  | .vmin _ _ _ b | .vmax _ _ _ b | .vcmp _ _ _ b | .vsel _ _ _ b | .vred _ _ b | .vscan _ _ b | .vperm _ _ _ b => [none, some b, none]
  | .sel _ _ a b c | .ffma _ a b c _ _ _ => [some a, some b, some c]
  | .bfi _ a _ _ | .fcvt _ a _ _ _ _ | .st _ a _ _ _ | .stf _ a _ _ | .stfill _ a _ _ => [some a]
  | .fetcha _ a _ g _ => some a :: g.reads.map some
  | _ => (i.reads.take 2).map some

/-- The number of beats on a compute core or an edge core (R191). -/
def Instr.beats (edge : Bool) : Instr → Nat
  | .vld _ _ _ _ _ | .vst _ _ _ _ _ | .vadd _ _ _ _ _ | .vsub _ _ _ _ _ | .vmul _ _ _ _ _ | .vfma _ _ _ _ _ | .vmin _ _ _ _
  | .vmax _ _ _ _ | .vcmp _ _ _ _ | .vsel _ _ _ _ | .vcvt _ _ _ _ | .vperm _ _ _ _ | .vbcast _ _ _ => if edge then 1 else 4
  | .vred _ _ _ | .vscan _ _ _ => if edge then 2 else 5
  | _ => 1

/-- The vector register written. -/
def Instr.writesV : Instr → Option VReg
  | .vld v _ _ _ _ | .vput v _ _ | .vbcast v _ _ => some v
  | .vadd d _ _ _ _ | .vsub d _ _ _ _ | .vmul d _ _ _ _ | .vfma d _ _ _ _ | .vmin d _ _ _ | .vmax d _ _ _
  | .vsel d _ _ _ | .vperm d _ _ _ => some d
  | .vred d _ _ | .vscan d _ _ | .vcvt d _ _ _ => some d
  | _ => none

/-- The mask register written. -/
def Instr.writesK : Instr → Option KReg
  | .vcmp d _ _ _ | .kand d _ _ | .kor d _ _ | .kxor d _ _ => some d
  | .knot d _ | .kset d _ => some d
  | _ => none

/-- Whether two words of a pair write the same register (R64): g0 is not counted. -/
def Instr.clash (c a : Instr) : Bool :=
  c.writes.any (fun r => r != 0 && a.writes.contains r) ||
  (match c.writesV, a.writesV with | some x, some y => x == y | _, _ => false) ||
  (match c.writesK, a.writesK with | some x, some y => x == y | _, _ => false)

/-- A supervisor instruction, told by the word alone (R74 step 4, R136). -/
def Instr.supervisor : Instr → Bool
  | .tret => true
  | _ => false

/-- `mig` and `migc` carry their A word along (R172). -/
def Instr.carries : Instr → Bool
  | .mig _ | .migc _ => true
  | _ => false

end Sys2Proof
end

