-- ==== Sys2Proof/Machine/Launch.lean ====
section
/-! DEFINITION. Launch records: the acceptance of R294, the placement of R293, and the completion record of R296 and R311
(R26 to R28, R291 to R296, R311, R327). -/

namespace Sys2Proof.Machine
open Bits Tables

/-! ### The record (R291, R292) -/

/-- Word i of a level descriptor. -/
def dw (w : List Word) (i : Nat) : Word := w.getD i 0

def recCount (w : List Word) : Nat := wfld (dw w 0) 63 32
def recDomain (w : List Word) : Nat := wfld (dw w 0) 31 29
def recScope (w : List Word) : Nat := wfld (dw w 0) 28 26
def recLast (w : List Word) : Bool := wbit (dw w 0) 25
def recPrio (w : List Word) : Nat := wfld (dw w 0) 24 23
def recReplay (w : List Word) : Nat := wfld (dw w 0) 22 20
def recRcpt (w : List Word) : Bool := wbit (dw w 0) 19
def recIdx (w : List Word) : Bool := wbit (dw w 0) 16
def recPlace (w : List Word) : Nat := wfld (dw w 0) 15 8
def recEntry (w : List Word) : Nat := wfld (dw w 2) 47 0
def recDeadline (w : List Word) : Nat := wfld (dw w 3) 47 0
def recArgs (w : List Word) : List Word := [dw w 4, dw w 5, dw w 6, dw w 7]
def recFds (w : List Word) : List Word := [dw w 8, dw w 9, dw w 10]
def recRop (w : List Word) : Nat := wfld (dw w 11) 49 48
def recRarea (w : List Word) : Nat := wfld (dw w 11) 47 0
def recSlice (w : List Word) : Nat := wfld (dw w 12) 31 0
def recCompl (w : List Word) : Nat := wfld (dw w 13) 47 0

def recLevel (w : List Word) : Level := ⟨recCount w, recDomain w, recScope w, recPlace w, dw w 1⟩

def readWords (m : Memory) (ga : Nat) : Nat → List Word
  | 0 => []
  | n + 1 => m.word ga :: readWords m (ga + 8) n

/-- The n words of a number, lowest first. -/
def splitWords (n v : Nat) : List Word := (chunks n 64 v).map (BitVec.ofNat 64)

/-- The descriptors of a record up to the one with LAST, at most n, or none where a byte cannot be read (R294 item 1). -/
def State.readRecord (s : State) (p b va : Nat) (sup : Bool) : Nat → Option (List (List Word))
  | 0 => some []
  | n + 1 =>
    if s.dispRange p b va 128 sup false false then
      let w := splitWords 16 (s.spaceRead p b va 128 sup none)
      if recLast w then some [w]
      else (s.readRecord p b ((va + 128) % 2 ^ 48) sup n).map (fun ws => w :: ws)
    else none

/-! ### The checks of R294 -/

/-- Implied scope of each domain (R26). -/
def impliedScope (d : Nat) : Nat := [0, 0, 1, 2, 2, 3, 4, 4].getD d 4

/-- The reserved fields of a descriptor are zero (R291). -/
def recClear (w : List Word) : Bool :=
  wfld (dw w 0) 18 17 == 0 && wfld (dw w 0) 7 0 == 0 && wfld (dw w 2) 63 48 == 0 && wfld (dw w 3) 63 48 == 0 &&
  (recFds w).all (fun x => wfld x 63 48 == 0) && wfld (dw w 11) 63 50 == 0 && wfld (dw w 12) 63 32 == 0 &&
  wfld (dw w 13) 63 48 == 0 && dw w 15 == 0

/-- The placement codes that a domain takes, and the bits that PARG may have set (R293). -/
def placeOk (d place : Nat) (parg : Word) : Bool :=
  match place with
  | 0 => parg == 0
  | 1 => d != 0 && wfld parg 63 30 == 0 && wfld parg 3 0 == 0
  | 2 => (d == 1 || d == 2) && wfld parg 63 38 == 0 && wfld parg 35 35 == 0 && wfld parg 31 29 == 0 &&
      wfld parg 23 22 == 0 && wfld parg 15 13 == 0 && wfld parg 7 6 == 0 && wfld parg 34 32 ≤ 4
  | 3 => d == 0 && wfld parg 63 16 == 0
  | _ => false

/-- One level against level 0 and its place in the record (R26, R292, R293). -/
def levelOk (w0 w : List Word) (first : Bool) : Bool :=
  recClear w && recScope w ≤ 4 && impliedScope (recDomain w) ≤ recScope w && recReplay w ≤ 1 &&
  placeOk (recDomain w) (recPlace w) (dw w 1) &&
  recPrio w == recPrio w0 && recReplay w == recReplay w0 && recRcpt w == recRcpt w0 && recDeadline w == recDeadline w0 &&
  (first || (dw w 11 == 0 && dw w 12 == 0 && dw w 13 == 0 && dw w 14 == 0)) &&
  (recLast w || (recEntry w == 0 && !recIdx w && (recArgs w).all (· == 0) && (recFds w).all (· == 0)))

/-- Domain codes fall strictly, and the last level has domain 0 and LAST (R26). -/
def domainsFall : List (List Word) → Bool
  | [] => false
  | [w] => recDomain w == 0 && recLast w
  | w :: v :: ws => recDomain v < recDomain w && domainsFall (v :: ws)

/-- LAUNCH_SHAPE holds off: R26, R291 to R293. -/
def shapeOk (raw : List (List Word)) : Bool :=
  match raw with
  | [] => false
  | w0 :: ws =>
    let inner := raw.getLastD []
    domainsFall raw && levelOk w0 w0 true && ws.all (fun w => levelOk w0 w false) &&
    (raw.filter (fun w => recPlace w == 2)).length ≤ 1 &&
    recCompl w0 != 0 && recCompl w0 % 64 == 0 && recEntry inner % 4 == 0 && recRarea w0 % 128 == 0 &&
    recRop w0 != 3 && (recRop w0 == 0) == (recRarea w0 == 0)

def recTotal (raw : List (List Word)) : Nat := raw.foldl (fun n w => n * recCount w) 1

/-- LAUNCH_RANGE holds off (R27). -/
def rangeOk (raw : List (List Word)) : Bool := raw.all (fun w => recCount w ≤ 65536) && recTotal raw ≤ 2 ^ 48

/-! ### Placement (R8, R26, R293) -/

/-- The lowest package of a pod: packages whose lowest common switch is at level 4 (R26, R400). -/
def State.podOf (s : State) (p : Nat) (ps : List Nat) : Nat :=
  ps.foldl (fun m q => if getD (s.pkg p).levels q 4 = 4 then min m q else m) p

/-- The number of the unit of a domain that holds a core (R26); edge cores lie in no quadrant. -/
def State.unitOf (s : State) (d cid : Nat) (ps : List Nat) : Option Nat :=
  match d with
  | 1 => some cid
  | 2 => some (engOf cid)
  | 3 => if isEdge cid then none else some (pkgOf cid * 32 + dieOf cid * 8 + quadOf cid)
  | 4 => some (pkgOf cid * 4 + dieOf cid)
  | 5 => some (pkgOf cid)
  | 6 => some (s.podOf (pkgOf cid) ps)
  | _ => some 0

/-- The cores of a RECT placement, from its north-west corner, in rows (R263, R293). -/
def rectCores (pkg : Nat) (g : Word) : List Nat :=
  let x0 := wfld g 5 0
  let y0 := wfld g 12 8
  (List.range (wfld g 28 24 + 1)).flatMap (fun y =>
    (List.range (wfld g 21 16 + 1)).map (fun x => coreAt pkg (wfld g 37 36) (x0 + x) (y0 + y)))

/-- A RECT lies inside its die's grid. -/
def rectInDie (g : Word) : Bool := wfld g 5 0 + wfld g 21 16 < 64 && wfld g 12 8 + wfld g 28 24 < 32

/-- The units of a level inside a parent unit, in ascending number; with RECT, those that hold cores of the rectangle. -/
def State.unitsIn (s : State) (l : Level) (pkg : Nat) (ps parent : List Nat) : List Nat :=
  let r := rectCores pkg l.parg
  let cs := if l.place = 2 then parent.filter (fun c => r.contains c || l.domain == 2 && (r.map engOf).contains (engOf c))
    else parent
  cs.foldl (fun us c => match s.unitOf l.domain c ps with | none => us | some u => insert us u) []

/-- The cores of one unit inside a parent. -/
def State.unitCores (s : State) (d : Nat) (ps parent : List Nat) (u : Nat) : List Nat :=
  parent.filter (fun c => s.unitOf d c ps == some u)

/-- The place of the first unit of a level among the units of its parent (R293). -/
def State.firstUnit (s : State) (l : Level) (ps us : List Nat) : Option Nat :=
  if l.place = 1 then
    match s.unitOf l.domain (wfld l.parg 29 4) ps with
    | none => none
    | some u => (findIdx (· == u) us).map Prod.fst
  else some 0

/-- The units that a level gives each of its coordinates, where the level above left a choice among `alts`; none where it names a unit
outside (R293, R294 item 4). An ANY level may take any unit of its domain, and each parent that may be chosen must hold one. DESIGN
CHOICE (log entry 63): below an ANY level, BASE and RECT name their units inside those of its units that hold them, one at least. -/
def State.childUnits (s : State) (l : Level) (pkg : Nat) (ps : List Nat) (alts : List (List Nat)) : Option (List (List (List Nat))) :=
  if l.count = 0 then some []
  else if l.place = 0 then
    let kids := alts.map (fun a => (s.unitsIn l pkg ps a).map (s.unitCores l.domain ps a))
    if kids.any List.isEmpty then none else some [kids.flatten]
  else
    let fits := alts.filterMap (fun a =>
      let us := s.unitsIn l pkg ps a
      match s.firstUnit l ps us with
      | none => none
      | some i => if us.length < i + l.count then none else some (((us.drop i).take l.count).map (s.unitCores l.domain ps a)))
    if fits.isEmpty then none else some ((List.range l.count).map (fun c => fits.filterMap (fun f => f[c]?)))

/-- The units that the levels above the last leave for its slots, or none where a placement fails. -/
def State.innerUnits (s : State) (pkg : Nat) (ps : List Nat) : List Level → List (List (List Nat)) → Option (List (List (List Nat)))
  | [], us => some us
  | [_], us => some us
  | l :: ls, us =>
    match us.mapM (s.childUnits l pkg ps) with
    | none => none
    | some vs => s.innerUnits pkg ps ls vs.flatten

/-- The cores on which a launch of these levels may place a unit. -/
def State.placedOn (s : State) (pkg : Nat) (ls : List Level) (region : List Nat) : Option (List Nat) :=
  (s.innerUnits pkg (region.foldl (fun l c => insert l (pkgOf c)) []) ls [[region]]).map (fun us => us.flatten.flatten)

/-- The slots of a thread level: its mask, or every slot (R293). -/
def slotAllowed (l : Level) (slot : Nat) : Bool := l.place != 3 || wbit l.parg slot

def packagesOf (cs : List Nat) : List Nat := cs.foldl (fun ps c => insert ps (pkgOf c)) []

/-- LAUNCH_PLACE holds off (R293, R294 item 4). -/
def State.placesOk (s : State) (pkg booth : Nat) (ls : List Level) : Bool :=
  let region := s.regionCores booth
  let inner := ls.getLastD ⟨0, 0, 0, 0, 0⟩
  (ls.all (fun l => l.place != 2 || (rectInDie l.parg && (rectCores pkg l.parg).all region.contains))) &&
  (match s.placedOn pkg ls region with
    | none => false
    | some cs => cs.all (fun c => (List.range 16).any (fun i => slotAllowed inner i && s.ownsGroup c booth (i / 4)))) &&
  (inner.place != 3 ||
    (inner.parg != 0 && (List.range 16).all (fun i => !wbit inner.parg i || s.ownsGroup (region.headD 0) booth (i / 4))))

/-- What each level asks of the coordinate of a packet for a core: one value, or any (R293); none where no packet of the
launch goes to the core. -/
def State.pattern (s : State) (pkg : Nat) (ps : List Nat) (cid : Nat) :
    List Level → List Nat → Option (List (Nat × Option Nat))
  | [], _ => some []
  | [l], _ => some [(l.count, none)]
  | l :: ls, parent =>
    let us := s.unitsIn l pkg ps parent
    match s.unitOf l.domain cid ps with
    | none => none
    | some u =>
      match findIdx (· == u) us with
      | none => none
      | some (k, _) =>
        let below := s.pattern pkg ps cid ls (s.unitCores l.domain ps parent u)
        if l.place = 0 then below.map (fun t => (l.count, none) :: t)
        else
          match s.firstUnit l ps us with
          | none => none
          | some i =>
            if i ≤ k && k < i + l.count && i + l.count ≤ us.length then below.map (fun t => (l.count, some (k - i)) :: t) else none

/-- The pattern of a launch for a core and slot of its region. -/
def State.launchPattern (s : State) (l : Launch) (cid slot : Nat) : Option (List (Nat × Option Nat)) :=
  let region := s.regionCores l.booth
  if region.contains cid && s.ownsGroup cid l.booth (slot / 4) && slotAllowed (l.levels.getLastD ⟨0, 0, 0, 0, 0⟩) slot then
    s.pattern l.pkg (packagesOf region) cid l.levels region
  else none

/-- COORD of a linear index: the coordinate of level j in bits [16j+15:16j] (R28, R297). -/
def coordOf : List Nat → Nat → Nat → Nat
  | [], _, _ => 0
  | c :: cs, j, i =>
    let w := cs.foldl (· * ·) 1
    i / w % c * 2 ^ (16 * j) + coordOf cs (j + 1) (i % w)

/-- Product of the counts of a pattern. -/
def patTotal (pat : List (Nat × Option Nat)) : Nat := pat.foldl (fun n x => n * x.1) 1

/-- The least linear index from n on whose coordinates meet a pattern (R28). -/
def leastFrom : List (Nat × Option Nat) → Nat → Option Nat
  | [], n => if n = 0 then some 0 else none
  | (cnt, some c) :: rest, n =>
    let w := patTotal rest
    if cnt ≤ c then none
    else if n ≤ c * w then (leastFrom rest 0).map (c * w + ·)
    else if n < (c + 1) * w then (leastFrom rest (n - c * w)).map (c * w + ·)
    else none
  | (cnt, none) :: rest, n =>
    let w := patTotal rest
    let q := n / w
    if cnt ≤ q then none
    else
      match leastFrom rest (n - q * w) with
      | some r => some (q * w + r)
      | none => if q + 1 < cnt then (leastFrom rest 0).map ((q + 1) * w + ·) else none

/-- The least index of a pattern from n on that is not among the started ones. -/
def leastFree (pat : List (Nat × Option Nat)) (ahead : List Nat) : Nat → Nat → Option Nat
  | 0, _ => none
  | k + 1, n =>
    match leastFrom pat n with
    | none => none
    | some i => if ahead.contains i then leastFree pat ahead k (i + 1) else some i

/-- Whether an index meets a pattern. -/
def meets (pat : List (Nat × Option Nat)) (i : Nat) : Bool := leastFrom pat i == some i

/-! ### Acceptance (R294, R295) -/

/-- The residual area's entries are zero (R294). -/
def Memory.zero (m : Memory) (a n : Nat) : Memory := { m with bytes := m.bytes.filter (fun c => c.1 < a || a + n ≤ c.1) }

def State.zeroArea (s : State) (p b va n : Nat) (sup : Bool) : State :=
  (s.pagesOf p b).foldl (fun t q =>
    let lo := max va q.va
    let hi := min (va + n) (q.va + q.size)
    let ga := q.base + (lo - q.va)
    if lo < hi && q.kind != 2 && q.wr && (sup || !q.sup) then
      t.modMem (fun m => (m.underAll ga (s.keyId p q.key) true (blocksOf ga (hi - lo))).zero ga (hi - lo))
    else t) s

/-- Launches of a booth at a package that have not completed. -/
def State.launchesOf (s : State) (p b : Nat) : List (Nat × Launch) :=
  s.launches.filter (fun e => e.2.pkg == p && e.2.booth == b)

/-- The first failing check of R294: its kind, 0 when accepted. -/
def State.launchKind (s : State) (p b va : Nat) (sup : Bool) (raw : Option (List (List Word))) : Nat :=
  match raw with
  | none => 4
  | some ws =>
    if va % 128 ≠ 0 || !s.dispRange p b (recCompl (ws.headD [])) 64 sup true true then 4
    else if !shapeOk ws then 1
    else if !rangeOk ws then 2
    else if !s.placesOk p b (ws.map recLevel) then 3
    else if 64 ≤ ((s.launchesOf p b).filter (fun e => e.2.prio == recPrio (ws.headD []))).length then 5
    else 0

/-- The accepted launch. -/
def newLaunch (p b seq : Nat) (tenant : Word) (sup byThread : Bool) (cycle : Nat) (ws : List (List Word)) : Launch :=
  let w0 := ws.headD []
  let wi := ws.getLastD []
  { pkg := p, booth := b, seq := seq, levels := ws.map recLevel, prio := recPrio w0, replay := recReplay w0,
    rcpt := recRcpt w0, nonce := dw w0 14, entry := recEntry wi, args := recArgs wi, idx := recIdx wi,
    fds := recFds wi, rop := recRop w0, rarea := recRarea w0, slice := recSlice w0, compl := recCompl w0, sup := sup,
    deadline := if recDeadline w0 = 0 then none else some (cycle + recDeadline w0), expired := false,
    total := recTotal ws, next := 0, ahead := [], live := 0, ndone := 0, nskip := 0, nfault := 0, first := none,
    lowit := none, spawned := 0, byThread := byThread, torn := false, tenant := tenant, strays := [] }

/-! ### Completion (R296, R311) -/

/-- The launch's deadline has passed (R309). -/
def Launch.past (l : Launch) (cycle : Nat) : Bool :=
  l.expired || (match l.deadline with | none => false | some d => d ≤ cycle)

/-- STATUS takes the highest code (R296). -/
def Launch.status (l : Launch) (cycle : Nat) : Nat := if l.torn then 3 else if l.nfault ≠ 0 then 2 else if l.past cycle then 1 else 0

/-- The residual element of an index for the sweep L: a value, the identity, or none for an overwritten slot (R311). -/
def residElem (w : Word) (sweep ident : Nat) : Option Nat :=
  if !wbit w 63 || wfld w 55 32 < sweep then some ident
  else if wfld w 55 32 = sweep then some (wfld w 31 0)
  else none

/-- The residual area's word for an index. -/
def State.residWord (s : State) (l : Launch) (i sweep : Nat) : Word :=
  BitVec.ofNat 64 (s.spaceRead l.pkg l.booth (l.rarea + 8 * (16 * i + sweep % 16)) 8 l.sup none)

/-- Word 3 of the completion record: RV, RL and RESID (R311). -/
def State.residual (s : State) (l : Launch) : Nat :=
  match l.lowit with
  | none => 0
  | some sweep =>
    if l.nskip ≠ 0 || l.rop = 0 then 0
    else
      let ident := if l.rop = 2 then 0xFF800000 else 0
      let op := if l.rop = 2 then RedOp.max else RedOp.add
      match (List.range l.total).mapM (fun i => residElem (s.residWord l i sweep) sweep ident) with
      | none => 2 ^ 62
      | some xs =>
        let v := Exact.reduce (Exact.mergeFloat Exact.f32 op) (if l.slice = 0 then 2 ^ 32 - 1 else l.slice) ident xs
        2 ^ 63 + (if Exact.isNan (Exact.ofBits Exact.f32 v) then Exact.f32.nan else v)

/-- The completion record of R296. -/
def State.complWords (s : State) (l : Launch) : List Nat :=
  let f := l.first.getD (0, 0, 0)
  [l.status s.cycle * 2 ^ 60 + l.ndone % 2 ^ 48, l.seq,
    (match l.lowit with | none => 0 | some n => 2 ^ 63 + n),
    s.residual l, l.nskip % 2 ^ 48, l.nfault % 2 ^ 48, f.1 * 2 ^ 56 + f.2.1, f.2.2 % 2 ^ 48]

/-- Numbers below 2^64 joined, the first lowest. -/
def joinNats : List Nat → Nat
  | [] => 0
  | w :: ws => w + 2 ^ 64 * joinNats ws

/-- A launch completes: its record, word 0 last, its journal entry, and a FAULT entry where the record cannot be written (R296). -/
def State.finishLaunch (s : State) (h : Nat) (l : Launch) : State :=
  let s1 := { s with launches := del s.launches h }
  let ws := s.complWords l
  let s2 := match s.dispPage l.pkg l.booth l.compl 64 l.sup true true with
    | some q =>
      let ga := q.base + (l.compl - q.va)
      ((s1.modMem (fun m => m.under ga (s.keyId l.pkg q.key) true)).modMem (fun m => m.write (ga + 8) 56 (joinNats (ws.drop 1)))).fillWord
        ga (ws.headD 0)
    | none => s1.deviceEvent l.pkg l.booth 9 0 [BitVec.ofNat 64 l.seq, BitVec.ofNat 64 l.compl, 0, 0]
  s2.jstate l.pkg l.seq 3

/-- An accepted launch is queued, its residual area cleared; one with no packet completes at once (R27, R294, R295). -/
def State.enqueueLaunch (s : State) (p b seq : Nat) (sup byThread : Bool) (ws : List (List Word)) : State :=
  let l := newLaunch p b seq (s.tenantOf p b) sup byThread s.cycle ws
  let s1 := if l.rop = 0 then s else s.zeroArea p b l.rarea (128 * l.total) sup
  let h := s1.nextLaunch
  let s2 := { s1 with launches := put s1.launches h l, nextLaunch := h + 1 }
  if l.total = 0 then s2.finishLaunch h l else s2

/-- The record at an address, if it can be read. -/
def State.recordAt (s : State) (p b va : Nat) (sup : Bool) : Option (List (List Word)) :=
  if va % 128 = 0 then s.readRecord p b va sup 8 else none

/-- SHA-256 of the launch descriptors, as four words (R392). -/
def launchDigest (raw : Option (List (List Word))) : List Word :=
  match raw with
  | none => [0, 0, 0, 0]
  | some r => wordsOf 4 (sha256 (r.flatten.flatMap (fun w => bytesOf 8 w.toNat)))

/-- The dispatcher's whole acceptance of a record by R294: the state, the kind code and the journal sequence number. -/
def State.submit (s : State) (p b va : Nat) (sup byThread : Bool) (tag : Word) (parent : Nat) (cmd digest : List Word) :
    State × Nat × Nat :=
  let raw := s.recordAt p b va sup
  let kind := s.launchKind p b va sup raw
  let ws := raw.getD []
  let seq := (s.pkg p).jseq
  let s1 := s.journal p (fun q =>
    { seq := q, state := if kind = 0 then 0 else 1, booth := b, kind := kind, origin := b2n byThread, rpl := 0, tag := tag,
      time := s.cycle, digest := if byThread then launchDigest raw else digest, cmd := cmd, parent := parent,
      fence := kind == 0 && recReplay (ws.headD []) == 1 })
  (if kind ≠ 0 then s1 else s1.enqueueLaunch p b seq sup byThread ws, kind, seq)

/-! ### Receipts (R327) -/

/-- The cores on which a launch places a unit. -/
def State.launchCores (s : State) (l : Launch) : List Nat := (s.placedOn l.pkg l.levels (s.regionCores l.booth)).getD []

/-- A launch with RCPT waits for a receipt of its nonce that covers its cores (R327). -/
def State.held (s : State) (l : Launch) : Bool :=
  l.rcpt && !s.receipts.any (fun r => r.written && r.nonce == l.nonce && (s.launchCores l).all r.cores.contains)

end Sys2Proof.Machine
end

