-- ==== Sys2Proof/Machine/Mesh.lean ====
section
/-! DEFINITION. The near mesh: stitching a rectangle into a shape, and the partner of a link end (R22, R263). -/

namespace Sys2Proof.Machine
open Bits Tables

def noEnds : List (Option Nat) := [none, none, none, none]

/-- Partners of a logical position, in the order n, e, s, w, as indices y·C + x of the rectangle (R263). -/
def shapeEnds (shape c h x y : Nat) : List (Option Nat) :=
  let q := y * c + x
  match shape with
  | 1 => [if 0 < y then some (q - c) else none, if x + 1 < c then some (q + 1) else none,
      if y + 1 < h then some (q + c) else none, if 0 < x then some (q - 1) else none]
  | 2 => [none, some ((q + 1) % (c * h)), none, some ((q + c * h - 1) % (c * h))]
  | 3 => [some ((y + h - 1) % h * c + x), some (y * c + (x + 1) % c), some ((y + 1) % h * c + x),
      some (y * c + (x + c - 1) % c)]
  | 4 =>
    let child (k : Nat) : Option Nat := if 3 * q + k < c * h then some (3 * q + k) else none
    [if q = 0 then none else some ((q - 1) / 3), child 3, child 2, child 1]
  | _ => noEnds

/-- The cores of a RECT with the cores on their link ends. -/
def rectEnds (pkg : Nat) (g : Word) : List (Nat × List (Option Nat)) :=
  let c := wfld g 21 16 + 1
  let h := wfld g 28 24 + 1
  let core (q : Nat) : Nat := coreAt pkg (wfld g 37 36) (wfld g 5 0 + q % c) (wfld g 12 8 + q / c)
  (List.range (c * h)).map (fun q =>
    (core q, (shapeEnds (wfld g 34 32) c h (q % c) (q / c)).map (fun o => o.map core)))

def State.ends (s : State) (cid booth : Nat) : List (Option Nat) := getD s.stitch (cid * 64 + booth) noEnds

/-- The core on a link end, numbered 0 n, 1 e, 2 s, 3 w. -/
def State.partner (s : State) (cid booth dir : Nat) : Option Nat := ((s.ends cid booth)[dir]?).join

/-- The partner's end of a link: the opposite one where it names the core back, else the end that does (R263). -/
def State.partnerEnd (s : State) (cid booth dir p : Nat) : Nat :=
  let es := s.ends p booth
  let opp := (dir + 2) % 4
  if (es[opp]?).join = some cid then opp
  else ((findIdx (· == some cid) es).map Prod.fst).getD opp

/-- A booth's link ends lose the partners that a test excludes: what names a core that leaves a shape has no partner (R22, R263). -/
def State.unstitch (s : State) (booth : Nat) (gone : Nat → Bool) : State :=
  { s with stitch := s.stitch.filterMap (fun e =>
      if e.1 % 64 ≠ booth then some e
      else if gone (e.1 / 64) then none
      else
        let es := e.2.map (fun o => if o.any gone then none else o)
        if es = noEnds then none else some (e.1, es)) }

/-- A booth's link ends of a rectangle take their shape; an older shape's ends lose the rectangle's cores (R263). -/
def State.stitchRect (s : State) (pkg booth : Nat) (g : Word) : State :=
  let es := rectEnds pkg g
  let t := s.unstitch booth (es.map Prod.fst).contains
  { t with stitch := es.foldl (fun l e => putD l (e.1 * 64 + booth) e.2 noEnds) t.stitch }

/-- The RECT placement of a launch. -/
def Launch.rect (l : Launch) : Option Word := (l.levels.find? (fun v => v.place == 2)).map (·.parg)

/-- Some cores, and the booth's cores that a stitching joins to them, one after another. -/
def State.stitchedWith (s : State) (booth : Nat) : Nat → List Nat → List Nat
  | 0, l => l
  | n + 1, l =>
    let more := (s.stitch.filter (fun e => e.1 % 64 == booth && !l.contains (e.1 / 64) && e.2.any (fun o => o.any l.contains))).map
      (fun e => e.1 / 64)
    if more.isEmpty then l else s.stitchedWith booth n (l ++ more)

/-- The shape is in force, or no thread of the booth is resident on the rectangle's cores, nor on those of an older rectangle whose
stitching it changes (R263). -/
def State.stitchable (s : State) (l : Launch) : Bool :=
  match l.rect with
  | none => true
  | some g =>
    let es := rectEnds l.pkg g
    es.all (fun e => s.ends e.1 l.booth == e.2) ||
      let cs := s.stitchedWith l.booth s.stitch.length (es.map Prod.fst)
      !s.threads.any (fun t => t.2.booth == l.booth && t.2.place != .flight && cs.contains (cidOf t.2.key))

end Sys2Proof.Machine
end

