-- ==== Sys2Proof/Machine/Float.lean ====
section
/-! DEFINITION. Scalar floating point, conversions, compensated pairs and special functions: majors 43 to 46 (R173 to
R185). -/

namespace Sys2Proof.Machine
open Bits

/-! ### Operations shared by the meanings -/

/-- The FP32 value of a register's low half (R173). -/
def fval (x : Word) : Exact.Val := Exact.ofBits Exact.f32 (x.toNat % 2 ^ 32)

/-- One rounding to FP32, with random bits from a word (R175, R176). -/
def toF32 (r : Rnd) (u : Word) (n : Nat) (sat : Bool) (x : Exact.Val) : Word :=
  BitVec.ofNat 64 (Exact.round Exact.f32 (Exact.mode r u.toNat n) sat x)

/-- A rounded operation of two sources; `.rs` also reads the old gD (R175, R176). -/
def State.round2 (s : State) (d a b : GReg) (r : Rnd) (sat : Bool) (n : Fin 32)
    (f : Bool → Exact.Val → Exact.Val → Exact.Val) : Step :=
  if r == .rs then s.op2d d a b fun x y o => toF32 r o (n.val + 1) sat (f (r == .rd) (fval x) (fval y))
  else s.op2 d a b fun x y => toF32 r 0 (n.val + 1) sat (f (r == .rd) (fval x) (fval y))

/-- `fcls`: one bit for the class (R177). -/
def classBit (x : Nat) : Nat :=
  let neg := fld x 31 31 == 1
  let ex := fld x 30 23
  let fr := fld x 22 0
  if ex = 255 then
    (if fr = 0 then (if neg then 0 else 7) else if fld x 22 22 = 1 then 9 else 8)
  else if ex = 0 then
    (if fr = 0 then (if neg then 3 else 4) else if neg then 2 else 5)
  else if neg then 1 else 6

/-- `fsgn` (R177). -/
def signOf (m : SgnMode) (x y : Word) : Word :=
  let sx := fld x.toNat 31 31
  let sy := fld y.toNat 31 31
  let b := match m with
    | .j => sy
    | .jn => 1 - sy
    | .jx => (sx + sy) % 2
  BitVec.ofNat 64 (b * 2 ^ 31 + fld x.toNat 30 0)

/-- A converted value as a register holds it (R80, R178). -/
def extCTy (t : CTy) (v : Nat) : Word :=
  match t with
  | .s32 => sext v 32
  | _ => BitVec.ofNat 64 v

/-- `fcvt` (R179): under `.rs`, 32 random bits of the old gD. -/
def convert (t u : CTy) (r : Rnd) (sat : Bool) (x o : Word) : Word :=
  extCTy t (Exact.toCTy t (Exact.mode r o.toNat 32) sat (Exact.ofCTy u x.toNat))

def SrndD.fmt : SrndD → Exact.Fmt
  | .f32 => Exact.f32 | .f16 => Exact.f16 | .bf16 => Exact.bf16
def SrndS.fmt : SrndS → Exact.Fmt
  | .f32 => Exact.f32 | .a36 => Exact.a36

/-- `srnd` (R180). -/
def stochastic (t : SrndD) (u : SrndS) (sat : Bool) (n : Nat) (x r : Word) : Word :=
  BitVec.ofNat 64 (Exact.round (SrndD.fmt t) (.rs (r.toNat % 2 ^ n) n) sat
    (Exact.ofBits (SrndS.fmt u) (x.toNat % 2 ^ (SrndS.fmt u).width)))

/-- `cadd` (R181): the pair rule in both halves. -/
def caddWord (x y : Word) : Word :=
  BitVec.ofNat 64 (Exact.pairAdd (wfld x 63 32) (wfld y 63 32) * 2 ^ 32 + Exact.pairAdd (wfld x 31 0) (wfld y 31 0))

/-- A special-function word (R182, R183): its request enters when the bundle completes; a full share parks the thread. -/
def State.sfuAsk (s : State) (op : Nat) (d : GReg) (x y : Word) : Step :=
  let c := s.core s.cid
  let r : SfuReq := ⟨s.uid, groupOf s.cur, op, x.setWidth 32, y.setWidth 32, d⟩
  s.checkDest d fun s =>
  if c.sfuRoom s.booth ≤ c.sfuShare s.booth then .retry .sfuFull
  else if s.bun.hold then .next (s.modMe (fun t => { t with held := t.held ++ [.sfu r] }))
  else .next (s.sfuEnter s.cid r)

def State.sfu1 (s : State) (op : Nat) (d a : GReg) : Step := s.getG a fun x s => s.sfuAsk op d x 0

/-! ### Majors 43 and 44 -/

def execFadd (d a b : GReg) (r : Rnd) (t : Bool) (n : Fin 32) (s : State) : Host.Outcome State Fault Refusal :=
  runWord s (s.round2 d a b r t n Exact.add)
def execFsub (d a b : GReg) (r : Rnd) (t : Bool) (n : Fin 32) (s : State) : Host.Outcome State Fault Refusal :=
  runWord s (s.round2 d a b r t n Exact.sub)
def execFmul (d a b : GReg) (r : Rnd) (t : Bool) (n : Fin 32) (s : State) : Host.Outcome State Fault Refusal :=
  runWord s (s.round2 d a b r t n fun _ => Exact.mul)
def execFmin (d a b : GReg) (s : State) : Host.Outcome State Fault Refusal :=
  runWord s (s.op2 d a b fun x y => BitVec.ofNat 64 (Exact.minmaxBits Exact.f32 false (wfld x 31 0) (wfld y 31 0)))
def execFmax (d a b : GReg) (s : State) : Host.Outcome State Fault Refusal :=
  runWord s (s.op2 d a b fun x y => BitVec.ofNat 64 (Exact.minmaxBits Exact.f32 true (wfld x 31 0) (wfld y 31 0)))
def execFeq (d a b : GReg) (s : State) : Host.Outcome State Fault Refusal :=
  runWord s (s.op2 d a b fun x y => BitVec.ofNat 64 (b2n (Exact.eq (fval x) (fval y))))
def execFlt (d a b : GReg) (s : State) : Host.Outcome State Fault Refusal :=
  runWord s (s.op2 d a b fun x y => BitVec.ofNat 64 (b2n (Exact.lt (fval x) (fval y))))
def execFle (d a b : GReg) (s : State) : Host.Outcome State Fault Refusal :=
  runWord s (s.op2 d a b fun x y => BitVec.ofNat 64 (b2n (Exact.le (fval x) (fval y))))
def execFcls (d a : GReg) (s : State) : Host.Outcome State Fault Refusal :=
  runWord s (s.op1 d a fun x => BitVec.ofNat 64 (2 ^ classBit (wfld x 31 0)))
def execFsgn (d a b : GReg) (m : SgnMode) (s : State) : Host.Outcome State Fault Refusal :=
  runWord s (s.op2 d a b (signOf m))
/-- `ffma` (R176): x * y + z, rounded once. -/
def execFfma (d a b c : GReg) (r : Rnd) (t : Bool) (n : Fin 32) (s : State) : Host.Outcome State Fault Refusal :=
  runWord s (
    let f (x y z o : Word) := toF32 r o (n.val + 1) t (Exact.add (r == .rd) (Exact.mul (fval x) (fval y)) (fval z))
    if r == .rs then
      s.notBound d fun s => s.getG a fun x s => s.getG b fun y s => s.getG c fun z s => s.getG d fun o s =>
        s.putG d (f x y z o)
    else s.op3 d a b c fun x y z => f x y z 0)

/-! ### Major 45 -/

def execFcvt (d a : GReg) (t : Bool) (dst fr : CTy) (r : Rnd) (s : State) : Host.Outcome State Fault Refusal :=
  runWord s (
    if r == .rs then s.op1d d a (convert dst fr r t)
    else s.op1 d a fun x => convert dst fr r t x 0)
def execSrnd (d a b : GReg) (dst : SrndD) (fr : SrndS) (t : Bool) (n : Fin 32) (s : State) :
    Host.Outcome State Fault Refusal :=
  runWord s (s.op2 d a b (stochastic dst fr t (n.val + 1)))
def execCadd (d a b : GReg) (s : State) : Host.Outcome State Fault Refusal := runWord s (s.op2 d a b caddWord)

/-! ### Major 46 (R182) -/

def execFrcp (d a : GReg) (s : State) : Host.Outcome State Fault Refusal := runWord s (s.sfu1 0 d a)
def execFrsq (d a : GReg) (s : State) : Host.Outcome State Fault Refusal := runWord s (s.sfu1 1 d a)
def execFsqrt (d a : GReg) (s : State) : Host.Outcome State Fault Refusal := runWord s (s.sfu1 2 d a)
def execFdiv (d a b : GReg) (s : State) : Host.Outcome State Fault Refusal :=
  runWord s (s.getG a fun x s => s.getG b fun y s => s.sfuAsk 3 d x y)
def execFex2 (d a : GReg) (s : State) : Host.Outcome State Fault Refusal := runWord s (s.sfu1 4 d a)
def execFlg2 (d a : GReg) (s : State) : Host.Outcome State Fault Refusal := runWord s (s.sfu1 5 d a)
def execFsin (d a : GReg) (s : State) : Host.Outcome State Fault Refusal := runWord s (s.sfu1 6 d a)
def execFcos (d a : GReg) (s : State) : Host.Outcome State Fault Refusal := runWord s (s.sfu1 7 d a)
def execFtanh (d a : GReg) (s : State) : Host.Outcome State Fault Refusal := runWord s (s.sfu1 8 d a)

end Sys2Proof.Machine
end

