-- ==== Sys2Proof/Machine/Vector.lean ====
section
/-! DEFINITION. Streams and the vector unit: majors 31, 47 and 48 (R186 to R199). -/

namespace Sys2Proof.Machine
open Bits

/-! ### The vector mode word (R192) -/

/-- The fields of a vector mode word. -/
structure VMode where
  sub : Nat
  masked : Bool
  k : Nat
  n : Nat
  sat : Bool
  rnd : Rnd
  type : Nat
  deriving DecidableEq, Repr

/-- A mode word, if no RES bit is set and RND and NM1 are allowed (R192). -/
def vmode (w : Word) : Option VMode :=
  match Rnd.ofCode (wfld w 5 3) with
  | none => none
  | some r =>
    if wfld w 63 20 ≠ 0 || wfld w 15 15 ≠ 0 || 5 ≤ wfld w 2 0 || (wfld w 11 7 ≠ 0 && r != .rs) then none
    else some ⟨wfld w 19 16, wbit w 14, wfld w 13 12, wfld w 11 7, wbit w 6, r, wfld w 2 0⟩

/-- Whether lane i is active (R192). -/
def VMode.on (m : VMode) (ks : Vector (BitVec 16) 4) (i : Nat) : Bool :=
  !m.masked || (ks.toList[m.k]?.getD 0).getLsbD i

/-- The random bits of lane i: the low n bits of ga rotated right by 4i (R192). -/
def VMode.random (m : VMode) (g : Word) (i : Nat) : Exact.RMode := Exact.mode m.rnd (g.rotateRight (4 * i)).toNat (m.n + 1)

/-- The integer type of a lane type 1 or 2. -/
def laneInt (type : Nat) : Exact.ITyp := ⟨type == 1, 32⟩
def laneNum (type : Nat) (x : Nat) : Int := if type = 1 then toSigned x 32 else x

/-- An exact integer result in a lane: wrapped, or clamped under SAT (R194). -/
def laneWrap (m : VMode) (i : Int) : Nat :=
  let t := laneInt m.type
  let j := if m.sat then (if i < t.min then t.min else if t.max < i then t.max else i) else i
  (j % (2 ^ 32 : Int)).toNat

/-- An arithmetic lane operation: exact in its type, rounded or wrapped once (R194). -/
def laneArith (m : VMode) (r : Exact.RMode) (f : Bool → Exact.Val → Exact.Val → Exact.Val → Exact.Val)
    (g : Int → Int → Int → Int) (a b d : Nat) : Nat :=
  if m.type = 0 then
    Exact.round Exact.f32 r m.sat (f (m.rnd == .rd) (Exact.ofBits Exact.f32 a) (Exact.ofBits Exact.f32 b) (Exact.ofBits Exact.f32 d))
  else laneWrap m (g (laneNum m.type a) (laneNum m.type b) (laneNum m.type d))

/-- Minimum and maximum of a lane (R194). -/
def laneMinMax (type : Nat) (isMax : Bool) (a b : Nat) : Nat :=
  if type = 0 then Exact.minmaxBits Exact.f32 isMax a b
  else Exact.mergeInt (type == 1) 32 (if isMax then .max else .min) a b

/-- The relations of `vcmp` (R194). -/
def laneCmp (m : VMode) (a b : Nat) : Bool :=
  let x := Exact.ofBits Exact.f32 a
  let y := Exact.ofBits Exact.f32 b
  let eq := if m.type = 0 then Exact.eq x y else a == b
  let lt := if m.type = 0 then Exact.lt x y else decide (laneNum m.type a < laneNum m.type b)
  let gt := if m.type = 0 then Exact.lt y x else decide (laneNum m.type b < laneNum m.type a)
  match m.sub with
  | 0 => eq
  | 1 => !eq
  | 2 => lt
  | 3 => lt || eq
  | 4 => gt
  | _ => gt || eq

/-- A merge of `vred` and `vscan`: SUB 0 add, 1 min, 2 max (R195). -/
def laneMerge (m : VMode) (a b : Nat) : Nat :=
  match m.sub with
  | 0 => laneArith m (Exact.mode m.rnd 0 1) (fun rd x y _ => Exact.add rd x y) (fun x y _ => x + y) a b 0
  | 1 => laneMinMax m.type false a b
  | _ => laneMinMax m.type true a b

/-- The identity of a merge (R97). -/
def laneIdent (m : VMode) : Nat :=
  match m.sub, m.type with
  | 0, _ => 0
  | 1, 0 => 0x7F800000
  | 1, 1 => 0x7FFFFFFF
  | 1, _ => 0xFFFFFFFF
  | _, 0 => 0xFF800000
  | _, 1 => 0x80000000
  | _, _ => 0

/-- One level of the fixed tree of `vred`: neighbours merge, the lower lanes on the left (R195). -/
def pairUp (f : Nat → Nat → Nat) : List Nat → List Nat
  | a :: b :: t => f a b :: pairUp f t
  | t => t

/-- The lane type codes of `vcvt` (R194). -/
def laneCTy (type : Nat) : CTy :=
  match type with
  | 0 => .f32
  | 1 => .s32
  | 2 => .z32
  | 3 => .f16
  | _ => .bf16

/-- `vcvt` of one lane (R194): .s32 and .z32 keep the bits, or clamp under SAT. -/
def laneCvt (m : VMode) (r : Exact.RMode) (a : Nat) : Nat :=
  if (m.type = 1 ∧ m.sub = 2) ∨ (m.type = 2 ∧ m.sub = 1) then laneWrap m (laneNum m.sub a)
  else Exact.toCTy (laneCTy m.type) r m.sat (Exact.ofCTy (laneCTy m.sub) a)

/-! ### Operations shared by the meanings -/

def vlane (v : Vector Half 16) (i : Nat) : Nat := (v.toList[i]?.getD 0).toNat

/-- Sixteen lanes from a function. -/
def lanes (f : Nat → Nat) : Vector Half 16 := Vector.ofFn (fun i => BitVec.ofNat 32 (f i.val))

/-- Sixteen mask bits from a function. -/
def maskOf (f : Nat → Bool) : BitVec 16 :=
  BitVec.ofNat 16 ((List.range 16).foldl (fun n i => n + (if f i then 2 ^ i else 0)) 0)

/-- Reads the mode word, after field a where the operation reads it (R65, R193), and checks it (R192). -/
def State.vop (s : State) (a : Option GReg) (b : GReg) (ok : VMode → Bool) (k : VMode → Word → State → Step) : Step :=
  let go (x : Word) (s : State) : Step :=
    s.getG b fun y s =>
    match vmode y with
    | none => s.trapW .vecConfig
    | some m => if ok m then k m x s else s.trapW .vecConfig
  match a with
  | none => go 0 s
  | some r => s.getG r go

/-- Writes the active lanes of a vector register; the others keep their values (R194). -/
def State.vwrite (s : State) (m : VMode) (d : VReg) (f : Nat → Nat) : Step :=
  .next (s.result (.v d (lanes fun i => if m.on s.bun.k i then f i else vlane (s.vreg d) i)))

/-- An arithmetic operation with random bits in ga (R193, R194). -/
def State.varith (s : State) (d x y : VReg) (b a : GReg) (f : Bool → Exact.Val → Exact.Val → Exact.Val → Exact.Val)
    (g : Int → Int → Int → Int) : Step :=
  s.vop (some a) b (fun m => m.type ≤ 2 && m.sub == 0) fun m u s =>
  s.vwrite m d fun i => laneArith m (m.random u i) f g (vlane (s.vreg x) i) (vlane (s.vreg y) i) (vlane (s.vreg d) i)

/-- The inputs of a reduction: inactive lanes enter as the identity (R195). -/
def State.redIn (s : State) (m : VMode) (x : VReg) (i : Nat) : Nat :=
  if m.on s.bun.k i then vlane (s.vreg x) i else laneIdent m

def redOk (m : VMode) : Bool := m.type ≤ 2 && m.sub ≤ 2 && m.rnd != .rs

/-- The running values of `vscan` (R195). -/
def scanFrom (f : Nat → Nat → Nat) (acc : Nat) : List Nat → List Nat
  | [] => []
  | x :: xs => f acc x :: scanFrom f (f acc x) xs

/-! ### Major 47 (R194) -/

def execVadd (d x y : VReg) (b a : GReg) (s : State) : Host.Outcome State Fault Refusal :=
  runWord s (s.varith d x y b a (fun rd p q _ => Exact.add rd p q) fun p q _ => p + q)
def execVsub (d x y : VReg) (b a : GReg) (s : State) : Host.Outcome State Fault Refusal :=
  runWord s (s.varith d x y b a (fun rd p q _ => Exact.sub rd p q) fun p q _ => p - q)
def execVmul (d x y : VReg) (b a : GReg) (s : State) : Host.Outcome State Fault Refusal :=
  runWord s (s.varith d x y b a (fun _ p q _ => Exact.mul p q) fun p q _ => p * q)
def execVfma (d x y : VReg) (b a : GReg) (s : State) : Host.Outcome State Fault Refusal :=
  runWord s (s.varith d x y b a (fun rd p q r => Exact.add rd (Exact.mul p q) r) fun p q r => p * q + r)
def execVmin (d x y : VReg) (b : GReg) (s : State) : Host.Outcome State Fault Refusal :=
  runWord s (s.vop none b (fun m => m.type ≤ 2 && m.sub == 0) fun m _ s =>
    s.vwrite m d fun i => laneMinMax m.type false (vlane (s.vreg x) i) (vlane (s.vreg y) i))
def execVmax (d x y : VReg) (b : GReg) (s : State) : Host.Outcome State Fault Refusal :=
  runWord s (s.vop none b (fun m => m.type ≤ 2 && m.sub == 0) fun m _ s =>
    s.vwrite m d fun i => laneMinMax m.type true (vlane (s.vreg x) i) (vlane (s.vreg y) i))
def execVcmp (d : KReg) (x y : VReg) (b : GReg) (s : State) : Host.Outcome State Fault Refusal :=
  runWord s (s.vop none b (fun m => m.type ≤ 2 && m.sub ≤ 5) fun m _ s =>
    .next (s.result (.k d (maskOf fun i => m.on s.bun.k i && laneCmp m (vlane (s.vreg x) i) (vlane (s.vreg y) i)))))
/-- `vsel` (R194): all 16 lanes, chosen by the mask. -/
def execVsel (d x y : VReg) (b : GReg) (s : State) : Host.Outcome State Fault Refusal :=
  runWord s (s.vop none b (fun m => m.masked && m.sub == 0) fun m _ s =>
    .next (s.result (.v d (lanes fun i => if m.on s.bun.k i then vlane (s.vreg x) i else vlane (s.vreg y) i))))
def execVred (d x : VReg) (b : GReg) (s : State) : Host.Outcome State Fault Refusal :=
  runWord s (s.vop none b redOk fun m _ s =>
    let f := laneMerge m
    let v := pairUp f (pairUp f (pairUp f (pairUp f ((List.range 16).map (s.redIn m x)))))
    .next (s.result (.v d (lanes fun i => if i = 0 then v.headD 0 else 0))))
/-- `vscan` (R194, R195): inactive lanes of vd keep their values. DEDUCED (log entry 56): out[0] := in[0] copies lane 0 as it stands, a
NaN with its payload too; R79 speaks of a NaN that an operation produces. -/
def execVscan (d x : VReg) (b : GReg) (s : State) : Host.Outcome State Fault Refusal :=
  runWord s (s.vop none b redOk fun m _ s =>
    let v := s.redIn m x 0 :: scanFrom (laneMerge m) (s.redIn m x 0) ((List.range 15).map (fun i => s.redIn m x (i + 1)))
    s.vwrite m d fun i => v[i]?.getD 0)
def execVcvt (d x : VReg) (b a : GReg) (s : State) : Host.Outcome State Fault Refusal :=
  runWord s (s.vop (some a) b (fun m => m.sub ≤ 4 && m.sub != m.type) fun m u s =>
    s.vwrite m d fun i => laneCvt m (m.random u i) (vlane (s.vreg x) i))
def execVperm (d x y : VReg) (b : GReg) (s : State) : Host.Outcome State Fault Refusal :=
  runWord s (s.vop none b (fun m => m.sub == 0) fun m _ s =>
    s.vwrite m d fun i => vlane (s.vreg x) (vlane (s.vreg y) i % 16))
def execVbcast (d : VReg) (b a : GReg) (s : State) : Host.Outcome State Fault Refusal :=
  runWord s (s.vop (some a) b (fun m => m.sub == 0) fun m u s => s.vwrite m d fun _ => wfld u 31 0)

/-! ### The mask group (R196) -/

def execKand (d x y : KReg) (s : State) : Host.Outcome State Fault Refusal :=
  runWord s (.next (s.result (.k d (s.kreg x &&& s.kreg y))))
def execKor (d x y : KReg) (s : State) : Host.Outcome State Fault Refusal :=
  runWord s (.next (s.result (.k d (s.kreg x ||| s.kreg y))))
def execKxor (d x y : KReg) (s : State) : Host.Outcome State Fault Refusal :=
  runWord s (.next (s.result (.k d (s.kreg x ^^^ s.kreg y))))
def execKnot (d x : KReg) (s : State) : Host.Outcome State Fault Refusal :=
  runWord s (.next (s.result (.k d (~~~ s.kreg x))))
def execKset (d : KReg) (a : GReg) (s : State) : Host.Outcome State Fault Refusal :=
  runWord s (s.getG a fun x s => .next (s.result (.k d (x.setWidth 16))))

/-! ### Major 48 (R198) -/

def execVget (d : GReg) (v : VReg) (n : Fin 16) (s : State) : Host.Outcome State Fault Refusal :=
  runWord s (s.putG d (BitVec.ofNat 64 (vlane (s.vreg v) n.val)))
def execVput (v : VReg) (a : GReg) (n : Fin 16) (s : State) : Host.Outcome State Fault Refusal :=
  runWord s (s.getG a fun x s => .next (s.result (.v v ((s.vreg v).set n (x.setWidth 32)))))
/-- The requests of the current thread queued or in service (R198). -/
def State.sfuCount (s : State) : Nat :=
  let c := s.core s.cid
  ((c.sfuQ ++ c.sfuWait).filter (fun r => r.uid == s.uid)).length
def execVbusy (d : GReg) (s : State) : Host.Outcome State Fault Refusal :=
  runWord s (s.putG d (BitVec.ofNat 64 (s.th.sfuPend.toNat * 2 ^ 16 + s.sfuCount % 16)))
def execKpop (d : GReg) (k : KReg) (s : State) : Host.Outcome State Fault Refusal :=
  runWord s (s.putG d (BitVec.ofNat 64 (popcount 16 (s.kreg k).toNat)))

/-! ### Major 31: lanes in memory (R197, R199) -/

/-- The address of lane i. -/
def laneAddr (base stride : Word) (i : Nat) : Nat := (base.toNat + i * stride.toNat) % 2 ^ 48

/-- The first check that an active lane fails: alignment of every lane, then window and bank (R143, R197). -/
def State.laneFault (s : State) (c : Cause) (on : Nat → Bool) (x y : Word) : Option Step :=
  let act := (List.range 16).filter on
  match act.find? (fun i => laneAddr x y i % 4 != 0) with
  | some i => some (trap .align (tvV 2 (laneAddr x y i)))
  | none =>
    match act.find? (fun i => !(isWin (laneAddr x y i) && s.ownsOff s.cid s.booth (laneAddr x y i - winBase))) with
    | some i => some (trap c (tvV 1 (laneAddr x y i)))
    | none =>
      if act.any (fun i => s.bankHeld (s.cid * 16 + (laneAddr x y i - winBase) / 8192)) then some (.retry .handover) else none

def State.laneOn (s : State) (m : Bool) (k : KReg) (i : Nat) : Bool := !m || (s.kreg k).getLsbD i

/-- `vld` of 16 lanes from an address and a stride (R197). -/
def State.vloadAt (s : State) (v : VReg) (x y : Word) (m : Bool) (k : KReg) : Step :=
  match s.laneFault .loadXlate (s.laneOn m k) x y with
  | some r => r
  | none =>
    .next (s.result (.v v (lanes fun i =>
      if s.laneOn m k i then s.mem.read (spad s.cid (laneAddr x y i - winBase)) 4 else vlane (s.vreg v) i)))

def State.vload (s : State) (v : VReg) (a b : GReg) (m : Bool) (k : KReg) : Step :=
  s.getG a fun x s => s.getG b fun y s => s.vloadAt v x y m k

/-- `vst` (R197): lanes in ascending order. -/
def State.vstore (s : State) (v : VReg) (a b : GReg) (m : Bool) (k : KReg) : Step :=
  s.getG a fun x s => s.getG b fun y s =>
  match s.laneFault .storeXlate (s.laneOn m k) x y with
  | some r => r
  | none =>
    .next (s.result (.lanes (((List.range 16).filter (s.laneOn m k)).map
      (fun i => (laneAddr x y i - winBase, vlane (s.vreg v) i)))))

def execVld (v : VReg) (a b : GReg) (m : Bool) (k : KReg) (s : State) : Host.Outcome State Fault Refusal :=
  runWord s (s.vload v a b m k)
def execVst (v : VReg) (a b : GReg) (m : Bool) (k : KReg) (s : State) : Host.Outcome State Fault Refusal :=
  runWord s (s.vstore v a b m k)
/-- `vfence` (R199): parks until the thread has no special-function request. -/
def execVfence (s : State) : Host.Outcome State Fault Refusal :=
  runWord s (if s.sfuCount = 0 then .next s else .retry .pending)

/-! ### Major 31: streams (R186 to R190) -/

def streamReg (n : Fin 4) : GReg := ⟨8 + n.val, by omega⟩

/-- Why a descriptor and base do not make a stream (R188, R190 reason 0). -/
def badStream (base desc : Word) : Bool :=
  let t : Stream := ⟨desc, base, 0, [], []⟩
  wfld desc 23 2 ≠ 0 || t.count == 0 || t.stride % (t.esize : Int) ≠ 0 || base.toNat % t.esize ≠ 0

/-- `sbind` (R189): the register's former value becomes undefined, and an in-stream reads elements 0 to 3. -/
def State.bind (s : State) (n : Fin 4) (base desc : Word) : Step :=
  match s.regs.streams[n] with
  | some _ => streamFault (streamReg n) 5
  | none =>
    if badStream base desc then streamFault (streamReg n) 0
    else
      let t : Stream := ⟨desc, base, 0, [], []⟩
      let t1 := if t.isOut then t else { t with ahead := s.readAhead s.uid s.th t 4 0 }
      let w := s.undef s.booth s.th.tenant 0
      let s1 := (s.drawn s.booth s.th.tenant).modCtx (fun c => { c with g := c.g.set (streamReg n) w })
      .next (s1.modRegs (fun x => x.setStream (streamReg n) t1))

/-- `sfree` (R189): unwritten elements are written, and the register is undefined until it is written. -/
def State.free (s : State) (n : Fin 4) : Step :=
  match s.regs.streams[n] with
  | none => streamFault (streamReg n) 6
  | some t =>
    let w := s.undef s.booth s.th.tenant 0
    let s1 := ((s.flush s.uid s.th t).drawn s.booth s.th.tenant).modCtx (fun c => { c with g := c.g.set (streamReg n) w })
    .next (s1.modRegs (fun x => { x with streams := x.streams.set n none }))

/-- `ssync` (R189). -/
def State.syncStreams (s : State) : Step :=
  let s1 := s.flushRegs s.uid s.th s.regs
  .next (s1.modRegs (fun x => s1.afresh s1.uid s1.th x.unwrittenNone))

def execSbind (n : Fin 4) (a b : GReg) (s : State) : Host.Outcome State Fault Refusal :=
  runWord s (s.getG a fun x s => s.getG b fun y s => s.bind n x y)
def execSfree (n : Fin 4) (s : State) : Host.Outcome State Fault Refusal := runWord s (s.free n)
def execSsync (s : State) : Host.Outcome State Fault Refusal := runWord s s.syncStreams

end Sys2Proof.Machine
end

