-- ==== Sys2Proof/Machine/Packets.lean ====
section
/-! DEFINITION. Packets and starts: what fills a FREE slot, and how a thread enters it (R29, R36, R37, R297, R298, R303,
R306, R315 to R317). -/

namespace Sys2Proof.Machine
open Bits Tables

/-- What may take a slot (R298): a migrated context, a saved context (with the key of its image list), a channel, or a
packet. -/
inductive Source where
  | migrated (u : Nat)
  | saved (list u : Nat)
  | message (n : Nat)
  | packet (p : Packet)
  deriving DecidableEq, Repr

/-- The booth that owns a slot. -/
def State.slotBooth (s : State) (key : Nat) : Option Nat := ((s.core (cidOf key)).owners.toList[groupOf key]?).join

/-! ### Packets (R297, R301, R309, R327) -/

/-- Whether a context of the launch with a lower index is pre-empted and not yet resumed (R37 promise 3). -/
def State.displacedBelow (s : State) (h i : Nat) : Bool :=
  s.threads.any (fun e => e.2.job.launch == some h && e.2.job.index < i && e.2.preempted)

/-- The arguments g1 to g4 of a launch's packet (R291, R298). -/
def Launch.argsOf (l : Launch) (i : Nat) : List Word :=
  if l.idx then l.args.take 3 ++ [l.args.getD 3 0 + BitVec.ofNat 64 i] else l.args

/-- The lowest-index packet of a launch that a slot may take. -/
def State.packetOf (s : State) (h : Nat) (l : Launch) (key : Nat) : Option Packet :=
  if l.past s.cycle || l.torn || s.held l || !s.stitchable l || l.tenant != s.slotTenant l.booth key then none
  else
    let cid := cidOf key
    let own := match s.launchPattern l cid (slotOf key) with
      | none => none
      | some pat => leastFree pat l.ahead (l.ahead.length + 1) l.next
    match own with
    | some i =>
      if s.displacedBelow h i then none
      else some ⟨h, i, l.entry, l.argsOf i, engOf cid, false, coordOf (l.levels.map (·.count)) 0 i⟩
    | none =>
      match s.spawnQ.find? (fun p => p.launch == h && p.eng == engOf cid) with
      | some p =>
        if s.inRegion l.booth cid && s.ownsGroup cid l.booth (groupOf key) && !s.displacedBelow h p.index then some p else none
      | none => none

/-- The packet that a slot of a booth may take first: of the highest priority, then of the launch accepted first
(R295, R298 item 4). -/
def State.packetFor (s : State) (booth key : Nat) : Option (Nat × Packet) :=
  s.launches.foldl (fun best e =>
    if e.2.booth = booth then
      match best, s.packetOf e.1 e.2 key with
      | none, some p => some (e.2.prio, p)
      | some b, some p => if e.2.prio < b.1 then some (e.2.prio, p) else best
      | _, none => best
    else best) none

/-! ### Saved contexts (R298 items 2 and 5, R303, R317) -/

/-- Whether a thread's placement allows a slot (R303): its launch's placement, a spawned thread's cluster, a channel
thread's core. -/
def State.placeAllows (s : State) (t : Thread) (key : Nat) : Bool :=
  let cid := cidOf key
  s.slotBooth key == some t.booth &&
  (match t.job.launch with
    | none => cid == t.job.home
    | some h =>
      match find s.launches h with
      | none => false
      | some l =>
        if l.total ≤ t.job.index then engOf cid == engOf t.job.home
        else
          match s.launchPattern l cid (slotOf key) with
          | none => false
          | some pat => meets pat t.job.index)

/-- Whether a saved context may resume in a slot: of the slot's tenant, the slot from which it was pre-empted, or, after `yield`, one
that its placement allows (R298 item 2, R303, R322). One that brings a bank with it waits until the slot's shadow bank is EMPTY. -/
def State.mayResume (s : State) (im : Image) (t : Thread) (key : Nat) : Bool :=
  t.tenant == s.slotTenant t.booth key && (if im.saved.roam then s.placeAllows t key else im.key == key) &&
    (im.bank.isNone || (s.slot key).shadow == .empty)

/-- Whether one saved context goes before another: priority, linear index, time of saving. -/
def before (a b : Nat × Nat × Nat) : Bool :=
  a.1 < b.1 || (a.1 == b.1 && (a.2.1 < b.2.1 || (a.2.1 == b.2.1 && a.2.2 < b.2.2)))

/-- The saved context of a booth that goes first in a slot, with its rank. -/
def State.savedFor (s : State) (booth key : Nat) : Option ((Nat × Nat × Nat) × Nat × Nat) :=
  s.images.foldl (fun best e =>
    if e.1 % 64 = booth then
      e.2.foldl (fun best im =>
        match s.thread im.saved.uid with
        | none => best
        | some t =>
          if s.mayResume im t key then
            let r := (t.job.prio, t.job.index, im.stamp)
            match best with
            | none => some (r, e.1, im.saved.uid)
            | some b => if before r b.1 then some (r, e.1, im.saved.uid) else best
          else best) best
    else best) none

/-! ### Migrated contexts and messages (R36, R306) -/

/-- Whether a waiting context is for a slot and of its tenant (R36, R322). -/
def State.waitsFor (s : State) (key : Nat) (c : Saved) : Bool :=
  match s.thread c.uid with
  | none => false
  | some t => t.key == key && t.tenant == s.slotTenant t.booth key

/-- The context that waits for a slot: its shadow bank's arrival, then the core's queue. -/
def State.migratedFor (s : State) (key : Nat) : Option Nat :=
  match (s.slot key).shadow with
  | .arrival c => if s.waitsFor key c then some c.uid else none
  | _ => ((s.core (cidOf key)).arrivals.find? (s.waitsFor key)).map (·.uid)

/-- The tenant whose channels a booth has on a core: the incoming one once every handed slot there has been scrubbed (R322, R325). -/
def State.chanTenant (s : State) (cid booth : Nat) : Word :=
  match s.handovers.find? (fun e => e.2.pkg == pkgOf cid && e.2.booth == booth && e.2.cores.contains cid) with
  | none => s.tenantOf (pkgOf cid) booth
  | some e =>
    if e.2.slots.any (fun x => cidOf x.1 == cid && (x.2 == .todo || x.2 == .saved)) then e.2.outT else e.2.inT

/-- Whether a channel spawns its next message (R306). -/
def Chan.spawns (c : Chan) : Bool := c.bound && c.ready && !c.hold && !c.queue.isEmpty

def State.channelFor (s : State) (booth key : Nat) : Option Nat :=
  if s.chanTenant (cidOf key) booth = s.slotTenant booth key then
    (List.range 32).find? (fun n => (s.chan (cidOf key) booth n).spawns)
  else none

/-- The first non-empty source for a slot, in the order of R298. -/
def State.sourceFor (s : State) (booth key : Nat) : Option Source :=
  match s.migratedFor key with
  | some u => some (.migrated u)
  | none =>
    let saved := s.savedFor booth key
    let packet := s.packetFor booth key
    let goes := match saved, packet with
      | some sv, some p => decide (sv.1.1 ≤ p.1)
      | some _, none => true
      | none, _ => false
    match saved, goes with
    | some sv, true => some (.saved sv.2.1 sv.2.2)
    | _, _ =>
      match s.channelFor booth key with
      | some n => some (.message n)
      | none =>
        match packet with
        | some p => some (.packet p.2)
        | none => saved.map (fun sv => .saved sv.2.1 sv.2.2)

/-! ### Entering a slot -/

/-- What a thread finds in the slot's registers when it is dispatched (R103): v and k undefined, no stream bound. -/
def SlotRegs.fresh (x : SlotRegs) (w : Nat → Word) : SlotRegs :=
  { x with v := undefV w, k := undefK w, streams := Vector.replicate 4 none }

/-- Reserved bits read zero, and narrow registers hold their width, whatever value they take (R2, R107, R188, R244 to R247, R271). -/
def SlotRegs.clean (x : SlotRegs) : SlotRegs :=
  { x with
    epc := x.epc &&& 0xFFFFFFFFFFFC, cause := x.cause &&& 0xFF, mthr := x.mthr &&& 0xFFFF, mrs := x.mrs &&& 0xF101FF
    mda := x.mda &&& 0xF000FFFFFFFF0000, mdb := x.mdb &&& 0xF000FFFFFFFF0000
    streams := Vector.ofFn (fun i => (x.streams[i]).map (fun t => { t with desc := t.desc &&& 0xFFFFFFFFFF000003 }))
    sampled := { x.sampled with
      scfg := x.sampled.scfg &&& 0xFFFFFFFFFFF00FFF, snr := x.sampled.snr &&& 0xFFFFFFFFFFFF
      stb := x.sampled.stb &&& 0xFFFFFFFFFFFF, sk := x.sampled.sk % 8192, scnt := x.sampled.scnt % 512 } }

/-- After a migration the engine's state of the slot is undefined too (R36, R243, R271). -/
def SlotRegs.migrated (x : SlotRegs) (w : Nat → Word) : SlotRegs :=
  let y (i : Nat) : Word := w (200 + i)
  { x.fresh w with
    mda := y 0, mdb := y 1, mrs := y 2, mthr := y 3,
    sampled := ⟨y 4, y 5, y 6, y 7, (y 8).toNat, (y 9).setWidth 32, wbit (y 10) 0, (y 11).toNat, wbit (y 12) 0,
      (y 13).setWidth 32, (y 14).setWidth 32⟩ }.clean

/-- The context of a dispatched thread (R29, R103). -/
def newCtx (entry : Nat) (args fds : List Word) : Ctx :=
  { Ctx.zero with
    g := Vector.ofFn (fun (i : Fin 16) => if 1 ≤ i.val && i.val ≤ 4 then args.getD (i.val - 1) 0 else 0)
    pc := BitVec.ofNat 48 entry
    fda := (fds.getD 0 0 &&& 0xFFFFFFFFFFFF)
    fdb := (fds.getD 1 0 &&& 0xFFFFFFFFFFFF)
    fdc := (fds.getD 2 0 &&& 0xFFFFFFFFFFFF) }

/-- A new thread enters a slot. DESIGN CHOICE (log entry 28): what R103 leaves undefined for opa and opb stays as the slot held it. -/
def State.startThread (s : State) (key booth : Nat) (c : Ctx) (j : Job) : State :=
  let x := s.slot key
  let u := s.nextUid
  let n := s.slotTenant booth key
  let t := { Thread.init booth key with ctx := c, job := j, tenant := n }
  let s1 := { s with nextUid := u + 1, threads := put s.threads u t }
  (s1.setSlot key { x with phase := .live, run := some u, regs := x.regs.fresh (s.undef booth n) }).drawn booth n

/-- The started prefix of a launch absorbs the indices that follow it. -/
def absorb : Nat → Nat → List Nat → Nat × List Nat
  | 0, n, l => (n, l)
  | k + 1, n, l => if l.contains n then absorb k (n + 1) (remove l n) else (n, l)

/-- The dispatcher commits a packet to a slot (R309): it counts as started. -/
def State.commit (s : State) (p : Packet) : State :=
  match find s.launches p.launch with
  | none => s
  | some l =>
    let l1 := { l with live := l.live + 1 }
    let l2 :=
      if p.spawned then l1
      else
        let a := absorb (l.ahead.length + 1) l.next (insert l.ahead p.index)
        { l1 with next := a.1, ahead := a.2 }
    let s1 := match l.rect with
      | none => s
      | some g => s.stitchRect l.pkg l.booth g
    let s2 := { s1 with launches := put s1.launches p.launch l2, spawnQ := s1.spawnQ.filter (· != p) }
    s2.jstate l.pkg l.seq 2

/-- A committed packet becomes a thread (R29, R298). -/
def State.startPacket (s : State) (key booth : Nat) (p : Packet) : State :=
  match find s.launches p.launch with
  | none => s
  | some l => s.startThread key booth (newCtx p.entry p.args l.fds) ⟨some p.launch, p.index, l.prio, l.deadline, p.coord, cidOf key⟩

/-- A place of a channel's queue is free: the oldest blocked sender's message enters and its sender is answered (R308). -/
def State.chanRefill (s : State) (cid booth n : Nat) : State :=
  let c := s.chan cid booth n
  match c.senders with
  | [] => s
  | m :: ms =>
    if 8 ≤ c.queue.length then s
    else
      match m.body with
      | .chan _ ws => (s.setChan cid booth n { c with queue := c.queue ++ [ws], senders := ms }).answer m (.reply Answer.none)
      | _ => s

/-- A queued message becomes a thread (R306). -/
def State.startMessage (s : State) (key booth n : Nat) : State :=
  let c := s.chan (cidOf key) booth n
  let s1 := s.setChan (cidOf key) booth n { c with queue := c.queue.tail }
  (s1.startThread key booth (newCtx c.entry (c.queue.headD []) []) { Job.none with home := cidOf key }).chanRefill (cidOf key) booth n

/-- A context enters a slot; a trap kept for it is taken now (R19). -/
def State.enterSlot (s : State) (key uid : Nat) (regs : SlotRegs) : State :=
  match s.thread uid with
  | none => s
  | some t =>
    let s1 := (s.setThread uid { t with key := key, place := .slot, pendTrap := none, preempted := false }).setSlot key
      { s.slot key with phase := .live, run := some uid, regs := regs }
    match t.pendTrap with
    | none => s1
    | some (c, v) => s1.enterTrap uid t.issued.pc c v

/-- A saved context enters a slot: its in-streams read afresh (R186). -/
def State.enterAfresh (s : State) (key uid : Nat) (regs : SlotRegs) : State :=
  match s.thread uid with
  | none => s
  | some t => s.enterSlot key uid (s.afresh uid { t with key := key, place := .slot } regs)

/-- A migrated context enters the slot that it waits for, and is no longer parked (R36). -/
def State.enterMigrated (s : State) (key uid : Nat) : State :=
  let x := s.slot key
  let b := ((s.thread uid).map (·.booth)).getD 0
  let n := ((s.thread uid).map (·.tenant)).getD 0
  let sh := match x.shadow with
    | .arrival c => if c.uid = uid then Shadow.empty else x.shadow
    | y => y
  let c := s.core (cidOf key)
  let s1 := (s.setSlot key { x with shadow := sh }).setCore (cidOf key)
    { c with arrivals := c.arrivals.filter (fun a => a.uid != uid) }
  let s2 := s1.modThread uid (fun t => t.woken s.cycle)
  (s2.enterSlot key uid (x.regs.migrated (s.undef b n))).drawn b n

/-- What a slot holds for its threads and a spill image does not: opb, lanes and Crier state (R110). -/
def Slot.keeps (x : Slot) : Slot :=
  { Slot.init with crCnt := x.crCnt, crTerm := x.crTerm, crFires := x.crFires, lanes := x.lanes, opb := x.opb }
/-- A slot takes them back. -/
def Slot.takes (x y : Slot) : Slot :=
  { x with crCnt := y.crCnt, crTerm := y.crTerm, crFires := y.crFires, lanes := y.lanes, opb := y.opb }

/-- Requests that wait on words of a bank go with it, and keep their places (R19, R153). -/
def State.moveWaits (s : State) (a b : Nat) : State :=
  { s with feWait := s.feWait.map (fun w =>
      if a ≤ w.msg.ga && w.msg.ga < a + 8192 then { w with msg := { w.msg with ga := b + (w.msg.ga - a) } } else w) }

/-- The bank of a slot as it stands. -/
def State.bankOf (s : State) (key waits : Nat) : Bank :=
  let a := spad (cidOf key) (8192 * slotOf key)
  ⟨s.mem.read a 8192, s.mem.fulls a 1024,
    (List.range 16).map (fun f => s.tag (cidOf key) (16 * slotOf key + f)), (s.slot key).keeps, waits⟩

/-- Requests that wait on words of a bank which changed while the bank was away are tried (R19, R151). -/
def State.retryBank (s : State) (a : Nat) : State :=
  ((s.feWait.filter (fun w => a ≤ w.msg.ga && w.msg.ga < a + 8192 && (match w.msg.body with
    | .req (.sync op _ _ _) => op.ready (s.mem.isFull w.msg.ga)
    | _ => false))).map (·.msg.ga)).foldl (fun t ga => t.walkWord ga) s

/-- A bank comes to a slot. -/
def State.putBank (s : State) (key : Nat) (b : Bank) : State :=
  let cid := cidOf key
  let i := slotOf key
  let a := spad cid (8192 * i)
  let s1 := (s.modMem (fun m => (m.write a 8192 b.data).setFulls a 1024 b.full)).moveWaits b.waits a
  let s2 := (List.range 16).foldl (fun t f => t.setTag cid (16 * i + f) (b.tags.getD f ⟨0, false, 0, 0⟩)) s1
  (s2.setSlot key ((s2.slot key).takes b.keep)).retryBank a

/-- The bank that came with a saved context takes the slot, and the images that share it find it there; the bank that the slot held until
then goes with the slot's own images (R332). -/
def State.swapBank (s : State) (key list : Nat) (b : Bank) : State :=
  let w := 2 ^ 130 + s.nextUid * 8192
  let old := s.bankOf key w
  let own (im : Image) : Bool := im.bank.isNone && im.key == key && !im.saved.roam
  let s1 := { s with
    nextUid := s.nextUid + 1
    images := putD s.images list ((getD s.images list []).map (fun (im : Image) =>
      match im.bank with
      | some c => if c.waits = b.waits then { im with bank := Option.none } else im
      | none => if own im then { im with bank := some old } else im)) [] }
  let s2 := if (getD s.images list []).any own then s1.moveWaits (spad (cidOf key) (8192 * slotOf key)) w else s1
  s2.putBank key b

/-- A saved context is read back, with the bank that came with it: its in-streams read afresh (R186, R317, R332). -/
def State.restore (s : State) (key list uid : Nat) : State :=
  let is := getD s.images list []
  match is.find? (fun im => im.saved.uid == uid) with
  | none => s
  | some im =>
    let s1 := { s with images := putD s.images list (is.filter (fun im => im.saved.uid != uid)) [] }
    let s2 := match im.bank with
      | none => s1
      | some b => s1.swapBank key list b
    let s3 := s2.modThread uid (fun t =>
      { t with wait := match t.wait with
        | .migrating _ => .idle
        | w => w })
    s3.enterAfresh key uid im.saved.regs

/-- The source takes the slot. -/
def State.fill (s : State) (key booth : Nat) : Source → State
  | .migrated u => s.enterMigrated key u
  | .saved l u => s.restore key l u
  | .message n => s.startMessage key booth n
  | .packet p => (s.commit p).startPacket key booth p

/-- The booth of a FREE slot that a source may take now. A slot held for a committed packet takes only a migrated context that waits for
it: that goes first (R36, R298 item 1). -/
def State.opens (s : State) (key : Nat) : Option Nat :=
  if (s.slot key).phase ≠ .free || (s.core (cidOf key)).lost || (s.preempts.any (fun p => p.key == key) && (s.migratedFor key).isNone)
  then none
  else
    match s.slotBooth key with
    | none => none
    | some b => if (s.boothPkg (pkgOf (cidOf key)) b).frozen then none else some b

/-- SLOT_FILL (R298): a FREE slot of a booth takes its first source. -/
def State.slotFill (s : State) (key : Nat) : Option State :=
  match s.opens key with
  | none => none
  | some b => (s.sourceFor b key).map (s.fill key b)

/-- A channel's queued messages spawn while slots of the booth on its core are free for them (R306, R307). -/
def State.spawnFrom (s : State) (cid booth n : Nat) : State :=
  (List.range 16).foldl (fun t i =>
    let key := cid * 16 + i
    if t.opens key = some booth && t.sourceFor booth key = some (.message n) then t.startMessage key booth n else t) s

def execSlotFill (key : Nat) (s : State) : Host.Outcome State Fault Refusal := event "SLOT_FILL" (s.slotFill key)

/-! ### Arrival of a migrated context (R36) -/

/-- Places taken in the arrival queue of a booth on a core. -/
def State.arrivalsOf (s : State) (cid booth : Nat) : Nat :=
  ((s.core cid).arrivals.filter (fun c => match s.thread c.uid with | none => false | some t => t.booth == booth)).length

/-- Whether a context waits for a slot in its core's arrival queue. -/
def State.queuedFor (s : State) (key : Nat) : Bool :=
  (s.core (cidOf key)).arrivals.any (fun c => match s.thread c.uid with | none => false | some t => t.key == key)

/-- MIGRATION_ARRIVAL: slot, shadow bank, queue; a message that finds no place waits in the fabric. A context never passes one that
waits for the same slot. -/
def State.migrationArrive (s : State) (n : Nat) : Option State :=
  match s.arrived n with
  | none => none
  | some m =>
    match m.body, s.thread m.uid with
    | .context, some t =>
      let key := t.key
      let x := s.slot key
      let s1 := s.dropMsg n
      let c := s.core (cidOf key)
      let sv : Saved := ⟨m.uid, x.regs, false⟩
      let first := !s.queuedFor key
      let shadowed := match x.shadow with | .arrival _ => true | _ => false
      if x.phase = .free && t.tenant == s.slotTenant t.booth key && first && !shadowed && s.slotBooth key == some t.booth then
        some (s1.enterMigrated key m.uid)
      else if x.shadow = .empty && first then
        some ((s1.setSlot key { x with shadow := .arrival sv }).modThread m.uid (fun t => { t with place := .shadow }))
      else if s.arrivalsOf (cidOf key) t.booth < 2 then
        some ((s1.setCore (cidOf key) { c with arrivals := c.arrivals ++ [sv] }).modThread m.uid
          (fun t => { t with place := .arrival }))
      else none
    | .context, none => some (s.dropMsg n)
    | _, _ => none

end Sys2Proof.Machine
end

