-- ==== Sys2Proof/Machine/Spawn.lean ====
section
/-! DEFINITION. The dispatcher instructions, major 28 (R299 to R310), and the arrival and limit of channel messages (R308). -/

namespace Sys2Proof.Machine
open Bits Tables

/-- The fence step with which a dispatcher instruction begins (R300). -/
def State.fencedFirst (s : State) (k : State → Step) : Step := s.fenceStep 4 .again k

/-- The thread asks a dispatcher or a channel's core, and parks as for a remote reply (R21, R299, R342). -/
def State.asks (s : State) (dst chan va : Nat) (d : GReg) (a : Ask) : Step :=
  let m := { s.newMsg s.cid dst s.booth s.uid (tidOf s.cur) chan (.ask a) with va := va, d := d }
  .park ((s.inject m).modMe (fun t => { t with wait := .reply m.mid }))

/-! ### `spawn`, `resid`, `yield`, `done` -/

/-- `spawn` (R301). -/
def State.spawn (s : State) (a b : GReg) : Step :=
  s.fencedFirst fun s =>
  s.getG a fun x s => s.getG b fun y s =>
  match s.th.job.launch with
  | none => s.trapW .illegal
  | some h =>
    let entry := x.toNat % 2 ^ 48
    let va := y.toNat % 2 ^ 48
    if entry % 4 ≠ 0 then trap .align (tvV 2 entry)
    else if va % 32 ≠ 0 then trap .align (tvV 2 va)
    else if !isWin va || !s.ownsOff s.cid s.booth (va - winBase) then trap .loadXlate (tvV 1 va)
    else
      s.asks (pkgNode (pkgOf s.cid)) 4 0 0 (.spawn
        ⟨h, 0, entry, readWords s.mem (spad s.cid (va - winBase)) 4, engOf s.cid, true, s.th.job.coord⟩)

/-- A spawned packet enters its cluster's queue with the next ordinal, and the spawner goes on; of a launch whose deadline has passed it is
skipped (R301, R309). -/
def State.spawnAsked (s : State) (m : Msg) (p : Packet) : State :=
  (match find s.launches p.launch with
    | none => s
    | some l => { s with
      launches := put s.launches p.launch { l with spawned := l.spawned + 1, nskip := l.nskip + b2n l.expired }
      spawnQ := if l.expired then s.spawnQ else s.spawnQ ++ [{ p with index := l.total + l.spawned }] }).answer m (.reply Answer.none)

def execSpawn (a b : GReg) (s : State) : Host.Outcome State Fault Refusal := runWord s (s.spawn a b)

/-- The residual area's page is reached by a plain store, as no near window is (R142, R310). -/
def accResid : Acc := { accStore with near := false }

/-- `resid` (R310). -/
def State.resid (s : State) (a : GReg) : Step :=
  s.getG a fun x s =>
  match s.th.job.launch with
  | none => .next s
  | some h =>
    match find s.launches h with
    | none => .next s
    | some l =>
      if l.rop = 0 || l.total ≤ s.th.job.index then .next s
      else
        let it := s.th.ctx.it.toNat
        let va := (l.rarea + 8 * (16 * s.th.job.index + it % 16)) % 2 ^ 48
        let w := 2 ^ 63 + it * 2 ^ 32 + x.toNat % 2 ^ 32
        s.translate accResid va fun t =>
        match t with
        | .here off => .next (s.modMem (fun m => m.write (spad s.cid off) 8 w))
        | .home p ga => s.post p ga va 8 .ord (.store 8 w)

def execResid (a : GReg) (s : State) : Host.Outcome State Fault Refusal := runWord s (s.resid a)

/-- Images of the booth's spill area on a core, taken or to be taken (R315, R318). -/
def State.imagesTaken (s : State) (cid booth : Nat) : Nat :=
  (getD s.images (cid * 64 + booth) []).length +
  (s.preempts.filter (fun p => cidOf p.key == cid && s.slotBooth p.key == some booth)).length +
  (s.slots.filter (fun e => cidOf e.1 == cid && e.2.shadow != .empty && s.slotBooth e.1 == some booth)).length

/-- `yield` (R303): a thread whose slot nothing waits for goes on; another waits for the swap, once its earlier accesses are performed:
every access is kept with `yield`, also where the thread resumes on another core (R313). -/
def State.yields (s : State) : Step :=
  if (s.sourceFor s.booth s.cur).isSome && s.imagesTaken s.cid s.booth < 64 && !s.preempts.any (fun p => p.key == s.cur) then
    s.fencedFirst fun s => .park (s.modMe (fun t => { t with wait := .yielding }))
  else .next s

def execYield (s : State) : Host.Outcome State Fault Refusal := runWord s s.yields

/-- `done` (R302). -/
def execDone (s : State) : Host.Outcome State Fault Refusal :=
  runWord s (s.fencedFirst fun t => .gone (t.retire t.uid none))

/-! ### `post` and `launch` -/

/-- `post` (R304): the thread waits until the adapter has accepted its message; an unsent interrupt is not waited for
(R362). -/
def State.postHost (s : State) (a b : GReg) : Step :=
  s.fencedFirst fun s =>
  s.getG a fun x s => s.getG b fun y s =>
  let mid := s.nextMid
  let t := s.raise (pkgOf s.cid) s.cid s.booth 0 (tidOf s.cur) x y s.uid
  if t.nextMid = mid then .next t else .park (t.modMe (fun h => { h with wait := .dispatcher mid }))

def execPost (a b : GReg) (s : State) : Host.Outcome State Fault Refusal := runWord s (s.postHost a b)

/-- The journal entry of the launch of the current thread, by package and number (R328). -/
def State.parentSeq (s : State) : Nat :=
  match s.th.job.launch with
  | none => 0
  | some h =>
    match find s.launches h with
    | none => 0
    | some l => l.pkg * 2 ^ 64 + l.seq

/-- `launch` (R305): the acceptance of R294 at the thread's privilege. With no journal place free the thread parks (R393). -/
def State.launch (s : State) (d a : GReg) : Step :=
  s.fencedFirst fun s =>
  s.getG a fun x s =>
  let p := pkgOf s.cid
  s.checkDest d fun s =>
  if s.journalFull p then .retry .journal
  else s.asks (pkgNode p) 4 0 d (.launch (x.toNat % 2 ^ 48) s.th.ctx.prv s.parentSeq)

/-- The dispatcher accepts or rejects a thread's record, once its entry has a place, and answers (R294, R305, R393). -/
def State.launchAsked (s : State) (m : Msg) (va : Nat) (sup : Bool) (parent : Nat) : Option State :=
  let p := nodeAddr m.dst
  if s.journalFull p then none
  else
    let r := s.submit p m.booth va sup true (BitVec.ofNat 64 m.tid) parent [] []
    let w := (if r.2.1 = 0 then 2 ^ 63 else 0) + r.2.1 * 2 ^ 56 + r.2.2 % 2 ^ 48
    some (r.1.answer m (.reply (Answer.value (BitVec.ofNat 64 w))))

def execLaunch (d a : GReg) (s : State) : Host.Outcome State Fault Refusal := runWord s (s.launch d a)

/-! ### Channels (R306 to R308) -/

/-- The channel that a register names: core and number (R307). -/
def chanName (x : Word) : Option (Nat × Nat) :=
  if wfld x 63 37 = 0 && wfld x 31 30 = 0 && wfld x 3 0 = 0 then some (wfld x 29 4, wfld x 36 32) else none

/-- A channel entry as `chset` and `chclr` return it (R306). -/
def Chan.word (c : Chan) : Word :=
  BitVec.ofNat 64 (b2n c.bound * 2 ^ 63 + c.queue.length * 2 ^ 56 + b2n c.hold * 2 ^ 49 + b2n c.ready * 2 ^ 48 + c.entry)

/-- What `chset` does to an entry (R307). -/
def Chan.set (c : Chan) (y : Word) : Chan :=
  { c with
    entry := if wbit y 48 then wfld y 47 2 * 4 else c.entry
    bound := c.bound || wbit y 48
    hold := c.hold || wbit y 1
    ready := c.ready || wbit y 0 }
/-- What `chclr` does to an entry (R307). -/
def Chan.clr (c : Chan) (y : Word) : Chan :=
  { c with
    entry := if wbit y 48 then 0 else c.entry
    bound := c.bound && !wbit y 48
    hold := c.hold && !wbit y 1
    ready := c.ready && !wbit y 0 }

/-- REMOTE_NACK for a channel that does not exist or is unbound (R307, R308). -/
def nackChan (x : Word) : Step := trap .remoteNack (tvV 0 (x.toNat % 2 ^ 48))

/-- `chset` and `chclr` (R307): the channel's core is asked. -/
def State.changeChan (s : State) (d a b : GReg) (set : Bool) : Step :=
  s.fencedFirst fun s =>
  s.getG a fun x s => s.getG b fun y s =>
  if wbit y 48 && !s.th.ctx.prv then s.trapW .priv
  else
    match chanName x with
    | none => s.trapW .illegal
    | some (cid, n) =>
      if wfld y 63 49 ≠ 0 then s.trapW .illegal
      else if !s.inRegion s.booth cid then nackChan x
      else if s.chanTenant cid s.booth ≠ s.th.tenant then .retry .handover
      else s.checkDest d fun s => s.asks cid 0 (x.toNat % 2 ^ 48) d (.chan n set y)

/-- Whether the sender of a message runs for another tenant than a core's channel table serves. -/
def State.foreignChan (s : State) (m : Msg) : Bool :=
  match s.thread m.uid with
  | none => true
  | some t => t.tenant != s.chanTenant m.dst m.booth

/-- The channel's core changes the entry, spawns queued messages while R306 allows, and answers with the entry as it was, as one step
(R307). -/
def State.chanAsked (s : State) (m : Msg) (n : Nat) (set : Bool) (y : Word) : State :=
  if s.foreignChan m || !s.inRegion m.booth m.dst then s.answer m (.trapReply Cause.remoteNack.code (tvV 0 m.va))
  else
    let c := s.chan m.dst m.booth n
    ((s.setChan m.dst m.booth n (if set then c.set y else c.clr y)).spawnFrom m.dst m.booth n).answer m (.reply (Answer.value c.word))

def execChset (d a b : GReg) (s : State) : Host.Outcome State Fault Refusal := runWord s (s.changeChan d a b true)
def execChclr (d a b : GReg) (s : State) : Host.Outcome State Fault Refusal := runWord s (s.changeChan d a b false)

/-- The four words of `send`; a bound register among them traps (R308). -/
def State.sendWords (s : State) (b : Nat) : Nat → Option GReg × List Word
  | 0 => (none, [])
  | n + 1 =>
    let r : GReg := Fin.ofNat 16 b
    let rest := s.sendWords (b + 1) n
    (if (s.regs.stream r).isSome then some r else rest.1, s.peekG r :: rest.2)

/-- `send` (R308). -/
def State.send (s : State) (a b : GReg) : Step :=
  s.fencedFirst fun s =>
  s.getG a fun x s =>
  let ws := s.sendWords b.val 4
  match ws.1 with
  | some r => streamFault r 2
  | none =>
    match chanName x with
    | none => s.trapW .illegal
    | some (cid, n) =>
      if !s.inRegion s.booth cid then nackChan x
      else if s.chanTenant cid s.booth ≠ s.th.tenant then .retry .handover
      else
        let m := { s.newMsg s.cid cid s.booth s.uid (tidOf s.cur) 0 (.chan n ws.2) with va := x.toNat % 2 ^ 48 }
        let limit := wfld (s.bc s.cid s.booth).sndlim 31 0
        .park ((s.inject m).modMe (fun t => { t with wait := .send m.mid s.cycle limit cid n }))

def execSend (a b : GReg) (s : State) : Host.Outcome State Fault Refusal := runWord s (s.send a b)

/-- A channel message reaches its core (R308). DESIGN CHOICE (log entry 65): during a handover a channel table is one tenant's; a thread
of the other parks as R322 says for a bank, and a message of the other finds the channel unbound. -/
def State.chanArrive (s : State) (n : Nat) : Option State :=
  match s.arrived n with
  | none => none
  | some m =>
    match m.body with
    | .chan k ws =>
      let s1 := s.dropMsg n
      let c := s.chan m.dst m.booth k
      if !c.bound || s.foreignChan m || !s.inRegion m.booth m.dst then
        some (s1.answer m (.trapReply Cause.remoteNack.code (tvV 0 m.va)))
      else if c.queue.length < 8 && c.senders.isEmpty then
        some ((s1.setChan m.dst m.booth k { c with queue := c.queue ++ [ws] }).answer m (.reply Answer.none))
      else some (s1.setChan m.dst m.booth k { c with senders := c.senders ++ [m] })
    | _ => none

def execChannelMessageArrival (n : Nat) (s : State) : Host.Outcome State Fault Refusal :=
  event "CHANNEL_MESSAGE_ARRIVAL" (s.chanArrive n)

/-- SNDLIM cycles have passed for a blocked send (R308): its message, still under way or listed, leaves without effect. A sender whose
answer is under way has been answered. -/
def State.sendStall (s : State) (uid : Nat) : Option State :=
  match s.thread uid with
  | none => none
  | some t =>
    match t.wait with
    | .send mid since limit dst k =>
      let c := s.chan dst t.booth k
      let asks (m : Msg) : Bool := m.mid == mid && (match m.body with | .chan _ _ => true | _ => false)
      if limit ≠ 0 && since + limit ≤ s.cycle && !s.net.any (fun m => m.mid == mid && !asks m) then
        let s1 := { s with net := s.net.filter (fun m => !asks m) }
        let s2 := if c.senders.any (fun m => m.mid == mid) then
            s1.setChan dst t.booth k { c with senders := c.senders.filter (fun m => m.mid != mid) } else s1
        some (s2.lateTrap uid Cause.sendStall.code (BitVec.ofNat 64 (k * 2 ^ 32 + dst * 16)))
      else none
    | _ => none

def execSendStall (uid : Nat) (s : State) : Host.Outcome State Fault Refusal := event "SEND_STALL" (s.sendStall uid)

end Sys2Proof.Machine
end

