-- ==== Sys2Proof/Machine/Image.lean ====
section
/-! DEFINITION. The spill image's layout (R318): how a context is written, and what an image says of one. -/

namespace Sys2Proof.Machine
open Bits Tables

/-- Words joined, the first lowest. -/
def joinWords : List Word → Nat
  | [] => 0
  | w :: ws => w.toNat + 2 ^ 64 * joinWords ws

/-- Vector lanes as 64-bit words, lane 0 lowest. -/
def vecWords (v : Vector (Vector Half 16) 8) : List Word :=
  v.toList.flatMap (fun r => (List.range 8).map (fun i =>
    BitVec.ofNat 64 ((r.toList.getD (2 * i) 0).toNat + 2 ^ 32 * (r.toList.getD (2 * i + 1) 0).toNat)))

def streamWords : Option Stream → List Word
  | none => [0, 0, 0]
  | some t => [t.desc, t.base, BitVec.ofNat 64 t.next]

def refusalWord : Option NackRec → Word
  | none => 0
  | some r => BitVec.ofNat 64 (r.count * 2 ^ 52 + 2 ^ 51 + r.code * 2 ^ 48 + r.va % 2 ^ 48)

/-- Numbers of w bits joined, the first lowest. -/
def joinBits (w : Nat) : List Nat → Nat
  | [] => 0
  | a :: as => a + 2 ^ w * joinBits w as

/-- The cause of a pending wait in the order of R18, from 1; 0 without one. What a reply is waited for tells the word that the thread issued.
DESIGN CHOICE (log entry 64): R318 gives no numbers. -/
def Wait.cause (w : Wait) (c : Option Instr) : Nat :=
  match w with
  | .idle | .yielding => 0
  | .reply _ =>
    match c with
    | some (.ldf _ _ _ _) | some (.ldff _ _ _ _) | some (.fetst _ _ _ _) | some (.stf _ _ _ _) | some (.stfill _ _ _ _)
    | some (.stemp _ _ _) => 2
    | some (.lda _ _ _ _ _) | some (.fetcha _ _ _ _ _) => 3
    | _ => 1
  | .dispatcher _ | .retry (.walk _ _ _ _ _) | .retry .window | .retry .spray | .retry .stores | .retry .handover | .retry .journal => 1
  | .fence _ _ _ .depart | .retry .drain => 7
  | .fence _ _ _ _ => 4
  | .retry .pending | .retry .sfuFull | .retry (.port _) | .retry (.element _) | .retry (.laneEmpty _)
  | .retry (.laneFull _) | .crier _ | .counter _ _ | .sfuQueue => 5
  | .run => 6
  | .migrating _ => 7
  | .send _ _ _ _ _ => 8

/-- The general register that a waited-for access will write: 0x100 and its number, as the held result has it (log entry 64). -/
def Wait.dest (w : Wait) (c : Option Instr) : Word :=
  match w, (c.map Instr.writes).getD [] with
  | .reply _, d :: _ => BitVec.ofNat 64 (0x100 + d.val)
  | _, _ => 0

/-- The identity of the request that a wait is for. -/
def Wait.request : Wait → Nat
  | .reply m | .dispatcher m | .migrating m | .send m _ _ _ _ => m
  | .crier t => t
  | .counter h t => h * 2 ^ 32 + t
  | _ => 0

/-- The held A-word result and its destination: kind 1 g, 2 k, 3 v, 4 a special-function request, 5 lanes of `vst` (log entry 64). -/
def heldWords (w : Nat → Word) : List Writeback → List Word
  | [] => [0, 0]
  | .g d x :: _ => [x, BitVec.ofNat 64 (0x100 + d.val)]
  | .k d x :: _ => [x.setWidth 64, BitVec.ofNat 64 (0x200 + d.val)]
  | .v d _ :: _ => [w 0, BitVec.ofNat 64 (0x300 + d.val)]
  | .sfu r :: _ => [w 0, BitVec.ofNat 64 (0x400 + r.d.val)]
  | .lanes _ :: _ => [w 0, 0x500]

/-- SK in bits [12:0], SW in [44:13], V in [45], SCNT in [54:46] and E in [55] (log entry 64). -/
def Sampled.packed (x : Sampled) : Word :=
  BitVec.ofNat 64 (x.sk + x.sw.toNat * 2 ^ 13 + b2n x.valid * 2 ^ 45 + x.scnt * 2 ^ 46 + b2n x.early * 2 ^ 55)
def Sampled.unpack (x : Sampled) (p : Word) : Sampled :=
  { x with
    sk := wfld p 12 0, sw := BitVec.ofNat 32 (wfld p 44 13), valid := wbit p 45, scnt := wfld p 54 46, early := wbit p 55 }

/-- The restart record: a bundle to be resumed mid-way, and its C word has acted already (R114). -/
def Thread.restart (t : Thread) : Word :=
  if t.beats = 0 then 0
  else
    match decodeWord t.issued.cw with
    | .ok (.vld _ _ _ _ _) => 1
    | _ => if t.issued.size = 8 then 3 else 1

/-- The image of a context: 128 words. `w` is for what has no room in it. -/
def imageWords (t : Thread) (x : SlotRegs) (w : Nat → Word) : List Word :=
  let c := t.ctx
  let i := (decodeWord t.issued.cw).toOption
  let pc : Word := if t.beats = 0 then c.pc.setWidth 64 else BitVec.ofNat 64 t.issued.pc
  c.g.toList.drop 1 ++
  [pc, c.it.setWidth 64, c.age.setWidth 64, c.tbm, statWord x c, c.fda, c.fdb, c.fdc,
    x.epc, x.cause, x.tval, x.scratch, BitVec.ofNat 64 (b2n x.nbv), x.mthr,
    BitVec.ofNat 64 (joinBits 16 (x.k.toList.map (·.toNat))),
    BitVec.ofNat 64 (t.wait.cause i + t.wait.request * 16), t.wait.dest i] ++ heldWords w t.held ++
  [t.sfuPend.setWidth 64, refusalWord t.refusal] ++
  x.streams.toList.flatMap streamWords ++
  [x.mda, x.mdb, x.mrs, x.sampled.scfg, x.sampled.sgen, x.sampled.snr, x.sampled.stb, x.sampled.packed,
    x.sampled.smean.setWidth 64, x.sampled.sm2.setWidth 64, t.restart] ++
  (if t.beats = 0 then [0, 0, 0, 0, 0] else (t.srcs ++ [0, 0, 0, 0, 0]).take 5) ++ vecWords x.v

def vecOf (ws : List Word) : Vector (Vector Half 16) 8 :=
  Vector.ofFn (fun i => Vector.ofFn (fun j =>
    ((ws.getD (8 * i.val + j.val / 2) 0) >>> (32 * (j.val % 2))).setWidth 32))

/-- A stream's record: none where all of it is zero but the descriptor's reserved bits (R2, R188). -/
def streamOf (d b n : Word) : Option Stream :=
  let e := d &&& 0xFFFFFFFFFF000003
  if e = 0 && b = 0 && n = 0 then none else some ⟨e, b, n.toNat, [], []⟩

/-- The context that an image holds, for a thread that the dispatcher has no record of: it waits for nothing. -/
def imageThread (ws : List Word) (booth key : Nat) : Thread :=
  let g (i : Nat) : Word := ws.getD i 0
  let st := g 19
  let r := g 35
  { Thread.init booth key with
    job := { Job.none with home := cidOf key }
    ctx :=
      { g := Vector.ofFn (fun i => if i.val = 0 then 0 else g (i.val - 1))
        pc := (g 15).setWidth 48 &&& 0xFFFFFFFFFFFC, it := (g 16).setWidth 24, age := (g 17).setWidth 24, tbm := g 18
        prv := wbit st 0, pprv := wbit st 1, th := wbit st 2
        fda := g 20 &&& 0xFFFFFFFFFFFF, fdb := g 21 &&& 0xFFFFFFFFFFFF, fdc := g 22 &&& 0xFFFFFFFFFFFF }
    refusal := if wbit r 51 then some ⟨wfld r 47 0, wfld r 50 48, wfld r 63 52⟩ else none }

/-- The slot-owned registers that an image holds. -/
def imageRegs (ws : List Word) : SlotRegs :=
  let g (i : Nat) : Word := ws.getD i 0
  { epc := g 23, cause := g 24, tval := g 25, scratch := g 26, nbv := wbit (g 27) 0, mthr := g 28
    k := Vector.ofFn (fun i => (g 29 >>> (16 * i.val)).setWidth 16)
    streams := Vector.ofFn (fun i => streamOf (g (36 + 3 * i.val)) (g (37 + 3 * i.val)) (g (38 + 3 * i.val)))
    mda := g 48, mdb := g 49, mrs := g 50
    sampled := Sampled.unpack ⟨g 51, g 52, g 53, g 54, 0, 0, false, 0, false, (g 56).setWidth 32, (g 57).setWidth 32⟩ (g 55)
    v := vecOf (ws.drop 64) : SlotRegs }.clean

end Sys2Proof.Machine
end

