-- ==== Sys2Proof/Machine/Preempt.lean ====
section
/-! DEFINITION. Ends and deadlines of launches, pre-emption, and the spill of a displaced context (R296, R303, R309, R315 to
R318). -/

namespace Sys2Proof.Machine
open Bits Tables

/-! ### Completion and deadlines (R296, R309) -/

/-- Whether a running command only waits for ages at its homes (R227). -/
def State.stalled (s : State) (r : Run) : Bool :=
  r.todo.isEmpty && !r.wait.isEmpty && r.wait.all (fun w => s.agedWait.any (fun a => a.msg.mid == w.1))

/-- Whether a command of a launch is queued, held, released or running in an engine, or its transfers are under way. Of a launch that
teardown ends, a block that waits for an age that no thread will publish is not waited for (R333). -/
def State.commandsOf (s : State) (h : Nat) (torn : Bool) : Bool :=
  s.vqs.any (fun e =>
    e.2.queue.any (fun c => c.launch == some h) || e.2.held.any (fun c => c.cmd.launch == some h) ||
    e.2.released.any (fun c => c.launch == some h) || e.2.running.any (fun r => r.cmd.launch == some h && !(torn && s.stalled r))) ||
  s.nqs.any (fun e =>
    e.2.queue.any (fun c => c.launch == some h) || e.2.held.any (fun c => c.cmd.launch == some h) ||
    e.2.released.any (fun c => c.launch == some h) || e.2.running.any (fun r => r.cmd.launch == some h) ||
    e.2.jobs.any (fun j => j.cmd.launch == some h && (match j.use with | .place _ | .serve _ => false | _ => true)))

/-- Whether a message carries a posted access of one of some threads, alone or in a combined run (R346). -/
def Msg.postedBy (m : Msg) (us : List Nat) : Bool :=
  match m.body with
  | .req (.amo _ _ ms) => (m.posted && us.contains m.uid) || ms.any (fun x => x.posted && us.contains x.uid)
  | _ => m.posted && us.contains m.uid

/-- Whether a posted access of a thread that stopped on a fault is still under way. -/
def State.straysFly (s : State) (l : Launch) : Bool := s.net.any (fun m => m.postedBy l.strays)

/-- Packets of a launch that have neither started nor been skipped. -/
def State.unstarted (s : State) (h : Nat) (l : Launch) : Nat :=
  l.total - (l.next + l.ahead.length) + (s.spawnQ.filter (fun p => p.launch == h)).length

/-- LAUNCH_COMPLETE (R296). -/
def State.launchEnd (s : State) (h : Nat) : Option State :=
  match find s.launches h with
  | none => none
  | some l =>
    if s.unstarted h l = 0 && l.live = 0 && !s.commandsOf h l.torn && !s.straysFly l then some (s.finishLaunch h l) else none

def execLaunchComplete (h : Nat) (s : State) : Host.Outcome State Fault Refusal := event "LAUNCH_COMPLETE" (s.launchEnd h)

/-- Every packet not yet committed is skipped (R309, R333). -/
def State.skipAll (s : State) (h : Nat) (l : Launch) : State :=
  { s with
    launches := put s.launches h { l with nskip := l.nskip + s.unstarted h l, next := l.total, ahead := [] }
    spawnQ := s.spawnQ.filter (fun p => p.launch != h) }

/-- DEADLINE_EXPIRY (R309). -/
def State.deadlinePasses (s : State) (h : Nat) : Option State :=
  match find s.launches h with
  | none => none
  | some l =>
    match l.deadline with
    | none => none
    | some c => if c ≤ s.cycle && !l.expired then some (s.skipAll h { l with expired := true }) else none

def execDeadlineExpiry (h : Nat) (s : State) : Host.Outcome State Fault Refusal :=
  event "DEADLINE_EXPIRY" (s.deadlinePasses h)

/-! ### Pre-emption (R315, R316) -/

/-- The highest priority among a booth's launches with a packet that waits. -/
def State.waitingPrio (s : State) (booth : Nat) : Option Nat :=
  s.launches.foldl (fun b e =>
    if e.2.booth = booth && !e.2.past s.cycle && !e.2.torn && !s.held e.2 && s.unstarted e.1 e.2 ≠ 0 then
      match b with
      | none => some e.2.prio
      | some p => some (min p e.2.prio)
    else b) none

def keysOf (cid : Nat) : List Nat := (List.range 16).map (fun i => cid * 16 + i)

/-- Whether a packet may start in a slot (R293, R301). -/
def State.packetAllows (s : State) (booth : Nat) (p : Packet) (key : Nat) : Bool :=
  s.slotBooth key == some booth &&
  (match find s.launches p.launch with
    | none => false
    | some l =>
      if l.tenant ≠ s.slotTenant booth key then false
      else if p.spawned then engOf (cidOf key) == p.eng
      else
      match s.launchPattern l (cidOf key) (slotOf key) with
      | none => false
      | some pat => meets pat p.index)

/-- The packet of a priority that goes first on a core: the launch accepted first, then the lowest index. -/
def State.packetOn (s : State) (cid booth prio : Nat) : Option Packet :=
  (keysOf cid).foldl (fun b key =>
    if s.slotBooth key = some booth then
      match s.packetFor booth key with
      | none => b
      | some (q, p) =>
        if q ≠ prio then b
        else
          match b with
          | none => some p
          | some o => if p.launch < o.launch || (p.launch == o.launch && p.index < o.index) then some p else b
    else b) none

/-- Rank of a victim in the order of R315: priority code, channel threads first, linear index, slot number. -/
def victimRank (t : Thread) (key : Nat) : Nat × Nat × Nat × Nat :=
  (t.job.prio, b2n t.job.launch.isNone, t.job.index, slotOf key)

def rankAbove (a b : Nat × Nat × Nat × Nat) : Bool :=
  b.1 < a.1 || (b.1 == a.1 && (b.2.1 < a.2.1 || (b.2.1 == a.2.1 &&
    (b.2.2.1 < a.2.2.1 || (b.2.2.1 == a.2.2.1 && b.2.2.2 < a.2.2.2)))))

/-- The victim on a core for a packet of a priority (R315). -/
def State.victim (s : State) (cid booth prio : Nat) (p : Packet) : Option (Nat × (Nat × Nat × Nat × Nat)) :=
  (keysOf cid).foldl (fun b key =>
    let x := s.slot key
    match x.run with
    | none => b
    | some u =>
      match s.thread u with
      | none => b
      | some t =>
        if x.phase = .live && prio < t.job.prio && s.packetAllows booth p key && !s.preempts.any (fun q => q.key == key) then
          let r := victimRank t key
          match b with
          | none => some (key, r)
          | some o => if rankAbove r o.2 then some (key, r) else b
        else b) none

/-- PREEMPT_REQUEST (R315): the packet is committed to the victim's slot. -/
def State.preemptAsk (s : State) (cid booth : Nat) : Option State :=
  match s.waitingPrio booth with
  | none => none
  | some prio =>
    match s.packetOn cid booth prio with
    | none => none
    | some p =>
      let free := (keysOf cid).any (fun k =>
        (s.slot k).phase == .free && s.packetAllows booth p k && !s.preempts.any (fun q => q.key == k))
      if free || 64 ≤ s.imagesTaken cid booth || (s.boothPkg (pkgOf cid) booth).frozen then none
      else
        match s.victim cid booth prio p with
        | none => none
        | some (key, _) =>
          let s1 := s.commit p
          some { s1 with preempts := s1.preempts ++ [(⟨key, p⟩ : Preempt)] }

def execPreemptRequest (cid booth : Nat) (s : State) : Host.Outcome State Fault Refusal :=
  event "PREEMPT_REQUEST" (s.preemptAsk cid booth)

/-- A context leaves its slot: a multi-beat word in progress is abandoned and restarts from its first beat (R114). -/
def Thread.abandon (t : Thread) : Thread := if t.beats = 0 then t else { t with beats := t.total }

/-- The running context and the slot-owned registers leave for the shadow bank (R316 step 2, R186), which the spill engine
takes at the end of the swap. -/
def State.swapOut (s : State) (key u : Nat) (roam : Bool) : State :=
  let x := s.slot key
  let s1 := match s.thread u with | none => s | some t => s.flushRegs u t x.regs
  (s1.setSlot key { x with phase := .free, run := none, shadow := .spill ⟨u, x.regs.unwrittenNone, roam⟩ }).modThread u
    (fun t => { t.abandon with place := .shadow, preempted := true })

/-- The priority code of a launch. -/
def State.prioOf (s : State) (h : Nat) : Nat := ((find s.launches h).map (·.prio)).getD 3

/-- PREEMPT_SWAP (R316 steps 2 and 3, R303): needs the shadow bank EMPTY, unless the victim has left. A migrated context that waits
for the slot enters it first, and the packet then takes the slot from a thread of lower priority or when it is free (R36, R298). -/
def State.swap (s : State) (key : Nat) : Option State :=
  let x := s.slot key
  match s.slotBooth key with
  | none => none
  | some b =>
    if (s.boothPkg (pkgOf (cidOf key)) b).frozen then none
    else
    match s.preempts.find? (fun p => p.key == key) with
    | some p =>
      let s1 := { s with preempts := s.preempts.filter (fun q => q.key != key) }
      match x.phase, x.run with
      | .free, _ => if (s.migratedFor key).isSome then none else some (s1.startPacket key b p.packet)
      | .live, some u =>
        match s.thread u with
        | none => none
        | some t =>
          if x.shadow = .empty && s.prioOf p.packet.launch < t.job.prio then some ((s1.swapOut key u false).startPacket key b p.packet)
          else none
      | _, _ => none
    | none =>
      match x.run with
      | none => none
      | some u =>
        match s.thread u with
        | none => none
        | some t =>
          if t.wait == .yielding && t.beats == 0 && x.phase == .live then
            match s.sourceFor b key with
            | none => some (s.finish u)
            | some src => if x.shadow = .empty then some (((s.finish u).swapOut key u true).fill key b src) else none
          else none

def execPreemptSwap (key : Nat) (s : State) : Host.Outcome State Fault Refusal := event "PREEMPT_SWAP" (s.swap key)

/-- The lowest free place of a spill area; 64 where none is free. -/
def freePlace (l : List Image) : Nat := ((List.range 64).find? (fun k => l.all (fun im => im.place != k))).getD 64

/-- A context becomes an image of the spill area of a booth on a core: the dispatcher's record, and the 1,024 bytes that are written
under the booth's key (R316 step 4, R318, R356). DESIGN CHOICE (log entry 64): a context for which the 64 places have no room, as a resize or
a handover may bring, stands in the dispatcher's record alone. -/
def State.putImage (s : State) (key : Nat) (c : Saved) (bank : Option Bank) : State :=
  match s.thread c.uid with
  | none => s
  | some t =>
    let n := cidOf key * 64 + t.booth
    let l := getD s.images n []
    let k := freePlace l
    let s1 := match find s.spillAreas n with
      | none => s
      | some a => if k = 64 then s else s.modMem (fun m => (m.underAll (a + 1024 * k) (s.boothKey (pkgOf (cidOf key)) t.booth) true 2).write (a + 1024 * k) 1024
          (joinWords (imageWords t c.regs (s.undef t.booth t.tenant))))
    (({ s1 with images := put s1.images n (l ++ [(⟨key, s.cycle, k, c, bank⟩ : Image)]) }).drawn t.booth t.tenant).modThread c.uid
      (fun t => { t with place := .image, preempted := true })

/-- A context in a shadow bank is spilled. -/
def State.spillOut (s : State) (key : Nat) (c : Saved) : State :=
  (s.setSlot key { s.slot key with shadow := .empty }).putImage key c none

/-- Whether a swap waits for the slot's shadow bank (R101). -/
def State.swapWaits (s : State) (key : Nat) : Bool :=
  s.preempts.any (fun p => p.key == key) ||
    (match (s.slot key).run with
      | none => false
      | some u =>
        match s.thread u with
        | none => false
        | some t => t.wait == .yielding)

/-- Whether a special-function result of a thread is still to come (R185). -/
def State.awaitsSfu (s : State) (u : Nat) : Bool := match s.thread u with | none => false | some t => t.sfuPend ≠ 0

/-- SPILL_COMPLETE (R101, R316): a displaced context's image is in memory, once its special-function results are (R185); an arrival is
spilled for a swap that waits, its undefined registers included. -/
def State.spill (s : State) (key : Nat) : Option State :=
  match (s.slot key).shadow with
  | .empty => none
  | .displaced c | .spill c => if s.awaitsSfu c.uid then none else some (s.spillOut key c)
  | .arrival c =>
    if s.swapWaits key then
      match s.thread c.uid with
      | none => none
      | some t => some ((s.spillOut key { c with regs := (s.slot key).regs.migrated (s.undef t.booth t.tenant) }).drawn t.booth t.tenant)
    else none

def execSpillComplete (key : Nat) (s : State) : Host.Outcome State Fault Refusal := event "SPILL_COMPLETE" (s.spill key)

end Sys2Proof.Machine
end

