-- ==== Sys2Proof/Machine/Scrub.lean ====
section
/-! DEFINITION. The scrub engine's classes and the receipt (R324 to R326). -/

namespace Sys2Proof.Machine
open Bits Tables

/-! ### Clearing (R325) -/

/-- A command that is discarded without an element no longer counts for its pusher: a place frees, and the pusher that waits for one goes
on (R17, R224, R365). -/
def State.uncount (s : State) (net : Bool) (us : List Nat) : State :=
  us.foldl (fun t u => (t.modThread u (fun x =>
    if net then { x with nwCount := x.nwCount - 1 } else { x with cpCount := x.cpCount - 1 })).wake (fun v _ w =>
      v == u && w == .port (if net then .net else .copy))) s

/-- Commands that a firing has released or that are still held, pushed from a slot or held for its term, are discarded (R238, R378). -/
def State.clearHeld (s : State) (key booth : Nat) : State :=
  let cid := cidOf key
  let q := s.vq (engOf cid) booth
  let of (c : Cmd) : Bool := c.key == key
  let s1 := (s.setVq (engOf cid) booth { q with
    held := q.held.filter (fun h => h.term != key && !of h.cmd), released := q.released.filter (fun c => !of c) }).uncount false
      ((q.held.filter (fun h => h.term == key || of h.cmd)).map (·.cmd.uid) ++ (q.released.filter of).map (·.uid))
  if isEdge cid then
    let nk := nqKey cid booth
    let n := s1.nq nk
    let of (c : NCmd) : Bool := c.key == key
    (s1.setNq nk { n with
      held := n.held.filter (fun h => h.term != key && !of h.cmd), released := n.released.filter (fun c => !of c) }).uncount true
        ((n.held.filter (fun h => h.term == key || of h.cmd)).map (·.cmd.uid) ++ (n.released.filter of).map (·.uid))
  else s1

/-- Classes 0, 1, 2, 5 and 7 of one slot: registers, shadow bank, scratchpad bank with its full/empty bits and tags, matrix
and sampled state, latches and lanes, Crier state and held commands, special-function entries and stream buffers. Requests of threads that
are saved stay (R19, R185). -/
def State.clearSlot (s : State) (key booth : Nat) : State :=
  let cid := cidOf key
  let i := slotOf key
  let x := s.slot key
  let c := s.core cid
  let mine (r : SfuReq) : Bool := match s.thread r.uid with | none => false | some t => t.key == key && t.place != .area
  let s1 := s.setSlot key { Slot.init with phase := x.phase }
  let s2 := s1.modMem (fun m => m.clear (spad cid (8192 * i)) 8192)
  let s3 := s2.setCore cid { c with
    tags := c.tags.filter (fun e => e.1 / 16 != i)
    sfuQ := c.sfuQ.filter (fun r => !mine r)
    sfuWait := c.sfuWait.filter (fun r => !mine r)
    mreqs := c.mreqs.filter (fun r => r.key != key) }
  { s3.clearHeld key booth with
    pulses := s3.pulses.filter (fun p => p.key != key)
    linkNet := s3.linkNet.filter (fun n => n.key != key) }

/-- The accumulator store of a group: entries and counters (class 2). -/
def State.clearStore (s : State) (cid group : Nat) : State :=
  let c := s.core cid
  s.setCore cid { c with
    acc := c.acc.filter (fun e => e.1 / 2048 != group)
    tileCnt := c.tileCnt.filter (fun e => e.1 / 4 != group) }

/-- Translation-buffer entries of a booth on a core and its cluster. -/
def State.xlatesOf (s : State) (cid booth : Nat) : Nat :=
  ((s.core cid).tlb.filter (fun e => e.1 == booth)).length +
  ((getD s.l2 (engOf cid) []).filter (fun e => e.1 == booth)).length

/-- A translation buffer without the entries of a booth for some pages (R120). -/
def dropPages (booth : Nat) (gone : Page → Bool) (l : List (Nat × Page)) : List (Nat × Page) :=
  l.filter (fun t => !(t.1 == booth && gone t.2))

/-- Some mappings of a booth on a package are removed, with their translations in every buffer of the package (R120). -/
def State.unmap (s : State) (p booth : Nat) (gone : Page → Bool) : State :=
  { s with
    maps := putD s.maps (p * 64 + booth) ((s.pagesOf p booth).filter (fun q => !gone q)) []
    cores := s.cores.map (fun (e : Nat × Core) => if pkgOf e.1 = p then (e.1, { e.2 with tlb := dropPages booth gone e.2.tlb }) else e)
    l2 := s.l2.map (fun (e : Nat × List (Nat × Page)) => if pkgOf (e.1 * 16) = p then (e.1, dropPages booth gone e.2) else e) }

/-- A bank changes its owner: the near-window mappings of its half are removed (R142). -/
def State.dropNear (s : State) (key booth : Nat) : State :=
  (s.maps.filter (fun e => e.1 % 64 == booth)).foldl (fun t e =>
    t.unmap (e.1 / 64) booth (fun q => q.kind == 2 && q.home == cidOf key && q.half == slotOf key / 8)) s

/-- The places of a spill area that hold no image are zero (class 0). -/
def State.clearImages (s : State) (cid booth : Nat) : State :=
  let n := cid * 64 + booth
  match find s.spillAreas n with
  | none => s
  | some a =>
    let used := (getD s.images n []).map (·.place)
    (List.range 64).foldl (fun t k =>
      if used.contains k then t else t.modMem (fun m => m.clear (a + 1024 * k) 1024)) s

/-- The channels of a booth on a core are unbound and empty (class 6); a sender that still waits there is answered as one that finds its
channel unbound (R19, R308). -/
def State.clearChans (s : State) (cid booth : Nat) : State :=
  let mine (e : Nat × Chan) : Bool := e.1 / 32 == cid * 64 + booth
  ((s.chans.filter mine).flatMap (fun e => e.2.senders)).foldl
    (fun t m => t.answer m (.trapReply Cause.remoteNack.code (tvV 0 m.va))) { s with chans := s.chans.filter (fun e => !mine e) }

/-- What a booth has on a core besides its slots: spill images that no saved context stands in (class 0), translations in both levels
(class 3), channel entries and queued messages (class 6). -/
def State.clearBoothCore (s : State) (cid booth : Nat) : State :=
  let c := s.core cid
  let s1 := (s.setCore cid { c with tlb := c.tlb.filter (fun e => e.1 != booth) }).clearImages cid booth
  { s1 with l2 := put s1.l2 (engOf cid) ((getD s1.l2 (engOf cid) []).filter (fun e => e.1 != booth)) }.clearChans cid booth

/-- The same for each of some cores, with the number of translations cleared (R326). -/
def State.clearBoothCores (s : State) (booth : Nat) : List Nat → State × Nat
  | [] => (s, 0)
  | c :: cs =>
    let r := (s.clearBoothCore c booth).clearBoothCores booth cs
    (r.1, s.xlatesOf c booth + r.2)

/-- Class 9: endpoints closed, counters 0, held network commands discarded (R378). -/
def State.clearNet (s : State) (pkg die booth : Nat) : State := { s with nqs := del s.nqs ((pkg * 4 + die) * 64 + booth) }

/-! ### Receipts (R326) -/

/-- A receipt's body is assembled: the next sequence number of its package. -/
def State.newReceipt (s : State) (p : Nat) (r : Receipt) : State :=
  let k := s.pkg p
  { s.setPkg p { k with rseq := k.rseq + 1 } with receipts := s.receipts ++ [{ r with pkg := p, rseq := k.rseq, time := s.cycle }] }

/-- REGION: SHA-384 over the cores' identifier bits in ascending order, as little-endian 32-bit words. -/
def Receipt.regionHash (r : Receipt) : List Byte :=
  sha384 ((r.cores.foldl insert []).flatMap (fun c => bytesOf 4 c))

/-- The 128-byte receipt body (R326). -/
def Receipt.body (r : Receipt) : List Word :=
  [BitVec.ofNat 64 (1 * 2 ^ 56 + r.kind * 2 ^ 48 + r.rseq % 2 ^ 48), BitVec.ofNat 64 (r.booth * 2 ^ 48 + r.rclass),
    r.outT, r.inT, r.nonce, BitVec.ofNat 64 r.time, BitVec.ofNat 64 (r.cores.length * 2 ^ 32 + r.groups),
    BitVec.ofNat 64 (r.nbank * 2 ^ 32 + r.nslot), BitVec.ofNat 64 (r.nacc * 2 ^ 32 + r.ntag),
    BitVec.ofNat 64 (r.nxlt * 2 ^ 32 + r.nblk)] ++ wordsOf 6 r.regionHash

/-- The two signatures that a receipt or a journal export carries: ECDSA P-384, 96 bytes, then HSS, 2,964 bytes (R326, R390). -/
def bothSigns (p : Nat) (b : List Byte) : List Byte := (Config.ecdsaSigns p b).toList ++ (Config.hssSigns p b).toList

/-- RECEIPT_WRITE (R326): the body and the controller's two signatures, 3,188 bytes, stand in the management booth's receipt area; from
then on the receipt exists, and launches that it covers may start (R327). DESIGN CHOICE (log entry 66): the spec gives the area no
address, so its bytes stand with the receipt. -/
def State.writeReceipt (s : State) (n : Nat) : Option State :=
  match s.receipts[n]? with
  | none => none
  | some r =>
    if r.written then none
    else
      let b := r.body.flatMap (fun w => bytesOf 8 w.toNat)
      some ({ s with receipts := setAt s.receipts n { r with written := true, bytes := b ++ bothSigns r.pkg b } }.raise r.pkg
        (pkgNode r.pkg) r.booth 2 0 (BitVec.ofNat 64 r.rseq) 0 0)

def execReceiptWrite (n : Nat) (s : State) : Host.Outcome State Fault Refusal := event "RECEIPT_WRITE" (s.writeReceipt n)

end Sys2Proof.Machine
end

