-- ==== Sys2Proof/Machine/Handover.lean ====
section
/-! DEFINITION. Tenant handover: the save area, SAVE, SCRUB and LOAD of slots and stores, released pages, gang ticks (R319 to
R324). -/

namespace Sys2Proof.Machine
open Bits Tables

def State.setHandover (s : State) (n : Nat) (h : Handover) : State := { s with handovers := put s.handovers n h }
def setPhase (l : List (Nat × HPhase)) (key : Nat) (p : HPhase) : List (Nat × HPhase) :=
  l.map (fun e => if e.1 = key then (key, p) else e)

/-! ### The save area (R321) -/

/-- Writes n bytes of the outgoing save area, under the outgoing key (R319, R321, R388). -/
def State.areaWrite (s : State) (h : Handover) (va n v : Nat) : State :=
  s.spaceWrite h.pkg 0 va n v true (some (s.keyId h.pkg h.outKey))
/-- Reads n bytes of the incoming save area, under the incoming key. -/
def State.areaRead (s : State) (h : Handover) (va n : Nat) : Nat := s.spaceRead h.pkg 0 va n true (some (s.keyId h.pkg h.inKey))

/-- Writes a context's image. -/
def State.writeImage (s : State) (h : Handover) (va u : Nat) (x : SlotRegs) : State :=
  match s.thread u with
  | none => s
  | some t => (s.areaWrite h va 1024 (joinWords (imageWords t x (s.undef t.booth t.tenant)))).drawn t.booth t.tenant

/-- The slot records of a core's banks, by slot number. -/
def Handover.banksOf (h : Handover) (cid : Nat) : List Nat :=
  (List.range 16).map (fun i => if fld h.groups (i / 4) (i / 4) = 1 then h.slotAt h.saveOut (cid * 16 + i) else 0)

/-- What stood at some addresses of a save area has been written over: its contexts are gone (R321). -/
def State.forget (s : State) (old : Nat → Bool) : State :=
  let us := (s.areas.filter (fun e => old e.1)).map (·.2.uid)
  { s with
    areas := s.areas.filter (fun e => !old e.1)
    areaKeys := s.areaKeys.filter (fun e => !old e.1)
    areaBanks := s.areaBanks.filter (fun e => !old e.1)
    threads := s.threads.filter (fun e => !us.contains e.1) }

/-- A context moves into the save area. -/
def State.intoArea (s : State) (h : Handover) (va : Nat) (c : Saved) : State :=
  let k := areaKey h.pkg va
  let cid := ((s.thread c.uid).map (fun t => cidOf t.key)).getD 0
  { s with
    areas := put s.areas k c
    areaKeys := put s.areaKeys k h.outKey
    areaBanks := put s.areaBanks k (h.banksOf cid) }.modThread c.uid (fun t => { t.abandon with place := .area })

/-- Where the words of a saved bank stand for requests that wait on them: apart from every address of memory (R153, R322). -/
def savedBank (p va : Nat) : Nat := 2 ^ 128 + areaKey p va * 8192

/-- The tag entries of a bank's frames: the value of R169, then va[47:9]. -/
def tagWords (c : Core) (i : Nat) : List Word :=
  (List.range 16).flatMap (fun f =>
    let t := getD c.tags (16 * i + f) ⟨0, false, 0, 0⟩
    [t.value, BitVec.ofNat 64 t.vba])

/-- Copies a slot's contexts and its bank with tags and full/empty bits into its slot record (R319 SAVE, R321). -/
def State.copySlot (s : State) (h : Handover) (key : Nat) : State :=
  let x := s.slot key
  let cid := cidOf key
  let i := slotOf key
  let at0 := h.slotAt h.saveOut key
  let s1 := match x.run with
    | none => s
    | some u => match s.thread u with | none => s | some t => s.flushRegs u t x.regs
  let s2 := s1.setSlot key { x with regs := x.regs.unwrittenNone }
  let s3 := match x.run with
    | some u => s2.writeImage h at0 u x.regs
    | none => s2.areaWrite h at0 1024 0
  let s4 := match x.shadow with
    | .displaced c | .arrival c | .spill c => s3.writeImage h (at0 + 0x400) c.uid c.regs
    | .empty => s3.areaWrite h (at0 + 0x400) 1024 0
  let s5 := s4.areaWrite h (at0 + 0x800) 1024 (joinWords (tagWords (s.core cid) i))
  let s6 := s5.areaWrite h (at0 + 0xC00) 1024 (s1.mem.fulls (spad cid (8192 * i)) 1024)
  s6.areaWrite h (at0 + 0x1000) 8192 (s1.mem.read (spad cid (8192 * i)) 8192)

/-- The record in which a context takes a place: its own, else the lowest-numbered one with a free place. -/
def Handover.freeRecord (h : Handover) (r : Nat) : Option Nat :=
  if getD h.places r 0 < 94 then some r else (List.range h.records).find? (fun q => getD h.places q 0 < 94)

/-- The unused words of a record's context index, and what lies between it and the counter records, are zero (R321): no context stands in
a place that the index does not name. -/
def State.sealIndex (s : State) (h : Handover) (r : Nat) : State :=
  let base := areaRecord h.saveOut r
  let k := getD h.places r 0
  let lo := areaKey h.pkg (base + 0x10800)
  ((s.forget (fun a => lo + 1024 * k ≤ a && a < lo + 1024 * 94)).areaWrite h (base + 0x10400 + 8 * k) (1024 - 8 * k) 0).areaWrite h
    (base + 0x10020) 992 0

/-- A context takes a place of the context index (R321); none when every place is taken. -/
def State.takePlace (s : State) (n : Nat) (h : Handover) (kind key : Nat) (c : Saved) : Option State :=
  match h.freeRecord (h.record (cidOf key) (groupOf key)) with
  | none => none
  | some r =>
    let k := getD h.places r 0
    let base := areaRecord h.saveOut r
    let s0 := if k = 0 then s.sealIndex h r else s
    let s1 := s0.areaWrite h (base + 0x10400 + 8 * k) 8 (2 ^ 63 + kind * 2 ^ 48 + slotOf key)
    let s2 := (s1.writeImage h (base + 0x10800 + 1024 * k) c.uid c.regs).intoArea h (base + 0x10800 + 1024 * k) c
    some (s2.setHandover n { h with places := put h.places r (k + 1) })

/-- Contexts take places one after another; a full save area sends the booth to the reset path. -/
def State.takePlaces (s : State) (n kind : Nat) : List (Nat × Saved) → State
  | [] => s
  | (key, c) :: cs =>
    match find s.handovers n with
    | none => s
    | some h =>
      match s.takePlace n h kind key c with
      | some t => t.takePlaces n kind cs
      | none => s.setBoothPkg h.pkg h.booth { s.boothPkg h.pkg h.booth with frozen := true, reset := true }

/-- With a group's last slot the contexts of the group in the core's arrival queue leave, and the index is sealed (R321, R322). -/
def State.leaveQueue (s : State) (n : Nat) (h : Handover) (key : Nat) : State :=
  let cid := cidOf key
  let c := s.core cid
  let goes (a : Saved) : Bool := match s.thread a.uid with
    | none => false
    | some t => t.booth == h.booth && groupOf t.key == groupOf key
  let t := (s.setCore cid { c with arrivals := c.arrivals.filter (fun a => !goes a) }).takePlaces n 0
    ((c.arrivals.filter goes).map (fun a => (((s.thread a.uid).map (·.key)).getD key, a)))
  match find t.handovers n with
  | none => t
  | some h => t.sealIndex h (h.record cid (groupOf key))

/-- A slot's own contexts leave for the save area: running and shadow images, and the spilled images of the slot, with the requests
that wait on words of the bank and what the layout has no room for (R110, R321, R322). -/
def State.leaveSlot (s : State) (n : Nat) (h : Handover) (key : Nat) : State :=
  let x := s.slot key
  let cid := cidOf key
  let at0 := h.slotAt h.saveOut key
  let k0 := areaKey h.pkg at0
  let s0 := s.forget (fun a => a == k0 || a == k0 + 0x400)
  let s1 := match x.run with
    | some u => s0.intoArea h at0 ⟨u, x.regs, false⟩
    | none => { s0 with areaKeys := put s0.areaKeys k0 h.outKey }
  let s2 := match x.shadow with
    | .displaced c | .arrival c | .spill c => s1.intoArea h (at0 + 0x400) c
    | .empty => s1
  let s3 := (s2.setSlot key { s2.slot key with run := none, shadow := .empty }).moveWaits (spad cid (8192 * slotOf key)) (savedBank h.pkg at0)
  let li := cid * 64 + h.booth
  let leaves (im : Image) : Bool := im.key == key && ((s3.thread im.saved.uid).map (·.tenant)) == some h.outT
  let mine := (getD s3.images li []).filter leaves
  let s4 := { s3 with
    images := putD s3.images li ((getD s3.images li []).filter (fun im => !leaves im)) []
    areaSlots := put s3.areaSlots k0 x.keeps }
  let s5 := s4.takePlaces n 1 (mine.map (fun im => (im.key, im.saved)))
  if slotOf key % 4 ≠ 3 then s5
  else
    match find s5.handovers n with
    | none => s5
    | some h => s5.leaveQueue n h key

/-! ### SAVE (R319, R322) -/

/-- Whether a command pushed from a slot is queued, released or running in an engine, or its peer table is being read (R238, R378). -/
def State.cmdsFrom (s : State) (key : Nat) (released : Bool) : Bool :=
  s.vqs.any (fun e => e.2.queue.any (fun q => q.key == key) || (released && e.2.released.any (fun q => q.key == key)) ||
    e.2.running.any (fun r => r.cmd.key == key)) ||
  s.nqs.any (fun e => e.2.queue.any (fun q => q.key == key) || (released && e.2.released.any (fun q => q.key == key)) ||
    e.2.running.any (fun r => r.cmd.key == key) ||
    e.2.jobs.any (fun j => j.cmd.key == key && (match j.use with | .place _ | .serve _ => false | _ => true)))

/-- What SAVE waits for: a pre-emption or `yield` of the slot under way, its runs, the special-function requests and posted accesses of
its contexts, commands pushed from it, its pulses, and a spill under way (R319, R322). -/
def State.saveWaits (s : State) (key : Nat) : Bool :=
  let x := s.slot key
  let c := s.core (cidOf key)
  let us := (s.threads.filter (fun e => e.2.key == key && e.2.place != .area && e.2.place != .flight)).map Prod.fst
  s.swapWaits key ||
  c.mreqs.any (fun r => r.key == key) || (match c.mrun with | none => false | some r => r.key == key) ||
  c.sfuQ.any (fun r => us.contains r.uid) || c.sfuWait.any (fun r => us.contains r.uid) ||
  s.cmdsFrom key true || s.pulses.any (fun p => p.key == key) || s.linkNet.any (fun n => n.key == key) ||
  (match x.shadow with | .spill _ => true | _ => false) || s.net.any (fun m => m.postedBy us)

/-- Whether every lower slot of the same core has been handed over. -/
def Handover.turnOf (h : Handover) (key : Nat) : Bool :=
  h.slots.all (fun e => !(cidOf e.1 == cidOf key && e.1 < key) || e.2 == .loaded)

def Handover.phaseOf (h : Handover) (key : Nat) : Option HPhase := (h.slots.find? (fun e => e.1 == key)).map Prod.snd

/-- HANDOVER_SAVE: in turn, or, for a gang handover, between a tick and its deadline, where SAVE only copies (R323). -/
def State.handSave (s : State) (n key : Nat) : Option State :=
  match find s.handovers n with
  | none => none
  | some h =>
    if h.phaseOf key ≠ some .todo || s.saveWaits key || (s.boothPkg h.pkg h.booth).frozen then none
    else if h.gang then
      (if h.tick.isNone || h.agreed then none
       else some ((s.copySlot h key).setHandover n { h with slots := setPhase h.slots key .saved }))
    else if !h.turnOf key then none
    else
      let h1 := { h with slots := setPhase h.slots key .saved }
      let s1 := (s.copySlot h key).setHandover n h1
      some ((s1.setSlot key { s1.slot key with phase := .handover }).leaveSlot n h1 key)

def execHandoverSave (h key : Nat) (s : State) : Host.Outcome State Fault Refusal := event "HANDOVER_SAVE" (s.handSave h key)

/-! ### Receipt and end -/

def Handover.last1 (h : Handover) (key : Nat) : Bool := h.slots.all (fun e => !(cidOf e.1 == cidOf key) || e.1 ≤ key)

/-- The classes cleared on every listed core (R325, R326). -/
def Handover.classes (h : Handover) : Nat :=
  let dies := (h.cores.filter isEdge).foldl (fun l c => insert l (dieOf c)) []
  0xFF + (if h.pages.isEmpty then 0 else 0x100) + (if !dies.isEmpty && dies.all h.nets.contains then 0x200 else 0)

/-- When every slot and store has ended SCRUB and every released page is clear, the receipt's body is assembled (R326). -/
def State.handReceipt (s : State) (n : Nat) : State :=
  match find s.handovers n with
  | none => s
  | some h =>
    if h.receipt || !h.cleared || h.slots.any (fun e => e.2 == .todo || e.2 == .saved) || h.stores.any (fun e => e.2 != .loaded)
    then s
    else
      (s.newReceipt h.pkg
        { pkg := h.pkg, kind := 0, booth := h.booth, rseq := 0, rclass := h.classes, outT := h.outT, inT := h.inT,
          nonce := h.nonce, time := 0, groups := h.groups, cores := h.cores, nbank := h.slots.length,
          nslot := h.slots.length, nacc := 2048 * h.stores.length, ntag := 16 * h.slots.length, nxlt := h.nxlt,
          nblk := h.nblk, written := false, bytes := [] }).setHandover n { h with receipt := true }

/-- A stop list of every home is cleared for the booth (R157). -/
def State.clearStops (s : State) (booth : Nat) : State :=
  { s with stops := s.stops.filter (fun e => e.1 % 64 != booth) }

/-- The booth changes tenant on a package. -/
def State.newTenant (s : State) (p booth : Nat) (tenant : Word) (key : Nat) : State :=
  match s.region p booth with
  | none => s
  | some r => { s with regions := put s.regions (p * 64 + booth) { r with tenant := tenant, key := key } }

/-- Whether a context of the outgoing tenant is still on its way to a handed slot (R322). -/
def State.outgoing (s : State) (h : Handover) : Bool :=
  h.outT != h.inT && s.net.any (fun m => m.body == .context && (match s.thread m.uid with
    | none => false
    | some t => t.booth == h.booth && t.tenant == h.outT && h.slots.any (fun e => e.1 == t.key)))

/-- When every load has ended, the receipt is assembled and no outgoing context is on its way, the handover is over. -/
def State.handEnd (s : State) (n : Nat) : State :=
  match find s.handovers n with
  | none => s
  | some h =>
    if h.receipt && h.slots.all (fun e => e.2 == .loaded) && h.stores.all (fun e => e.2 == .loaded) && !s.outgoing h then
      (((({ s with handovers := del s.handovers n }.newTenant h.pkg h.booth h.inT h.inKey).clearStops h.booth).jstate
        h.pkg h.seq 3).wake (fun _ _ w => w == Why.handover))
    else s

/-! ### SCRUB -/

/-- HANDOVER_SCRUB: the slot's classes, once a command that a firing released since SAVE has ended (R238); with the core's last handed slot, what the booth has on the core, and class 9 where
the booth gives up every edge core of the die (R325, R378). -/
def State.handScrub (s : State) (n key : Nat) : Option State :=
  match find s.handovers n with
  | none => none
  | some h =>
    if h.phaseOf key ≠ some .saved || (h.gang && !h.agreed) || !h.turnOf key || s.cmdsFrom key false then none
    else
      let cid := cidOf key
      let s1 := (s.clearSlot key h.booth).dropNear key h.booth
      let h1 := { h with slots := setPhase h.slots key .scrubbed }
      let done := h1.last1 key
      let s2 := if done then s1.clearBoothCore cid h.booth else s1
      let h2 := if done then { h1 with nxlt := h1.nxlt + s1.xlatesOf cid h.booth } else h1
      let net := isEdge cid && s.givesNet h (dieOf cid) && h2.slots.all (fun e => !(isEdge (cidOf e.1) && dieOf (cidOf e.1) == dieOf cid) || e.2 == .scrubbed || e.2 == .loaded)
      let s3 := if net then (s2.clearNet h.pkg (dieOf cid) h.booth).wake (fun _ _ w => w == Why.handover) else s2
      let h3 := if net then { h2 with nets := insert h2.nets (dieOf cid) } else h2
      some ((s3.setHandover n h3).handReceipt n)

def execHandoverScrub (h key : Nat) (s : State) : Host.Outcome State Fault Refusal := event "HANDOVER_SCRUB" (s.handScrub h key)

/-! ### LOAD -/

/-- The dispatcher's own record of a context of the incoming tenant at an address of the save area, saved under the same key (R321). -/
def State.areaRecorded (s : State) (h : Handover) (k : Nat) : Option Saved :=
  match find s.areas k with
  | none => none
  | some c =>
    if s.keyId h.pkg (getD s.areaKeys k 0) = s.keyId h.pkg h.inKey && ((s.thread c.uid).map (·.tenant)) == some h.inT then some c else none

/-- The context at an address of the incoming save area: the dispatcher's own record, else what the image holds; none for an image of
zeroes. -/
def State.areaContext (s : State) (h : Handover) (va key : Nat) : State × Option Saved :=
  let k := areaKey h.pkg va
  match s.areaRecorded h k with
  | some c =>
    ({ s with areas := del s.areas k, areaKeys := del s.areaKeys k, areaBanks := del s.areaBanks k }, some c)
  | none =>
    let v := s.areaRead h va 1024
    if v = 0 then (s, none)
    else
      let ws := splitWords 128 v
      let u := s.nextUid
      ({ s with nextUid := u + 1, threads := put s.threads u { imageThread ws h.booth key with tenant := h.inT } },
        some ⟨u, imageRegs ws, false⟩)

/-- A thread that was saved parked on the handover itself may issue again. -/
def Wait.afterLoad : Wait → Wait
  | .retry .handover => .idle
  | w => w

/-- A bank's bytes, full/empty bits and tags come back, with the requests that wait on its words, and opb, the lanes and the Crier state
of the slot (R110). -/
def State.loadBank (s : State) (h : Handover) (key : Nat) : State :=
  let at0 := h.slotAt h.saveIn key
  let v := s.areaRead h (at0 + 0x800) 256
  let tag (f : Nat) : Tag := ⟨fld v (128 * f + 102) (128 * f + 64), fld v (128 * f + 63) (128 * f + 63) == 1,
    fld v (128 * f + 23) (128 * f), fld v (128 * f + 59) (128 * f + 56)⟩
  let k := areaKey h.pkg at0
  let t := s.putBank key ⟨s.areaRead h (at0 + 0x1000) 8192, s.areaRead h (at0 + 0xC00) 128, (List.range 16).map tag,
    getD s.areaSlots k Slot.init, savedBank h.pkg at0⟩
  { t with areaSlots := del t.areaSlots k, areaKeys := del t.areaKeys k }

/-- The contexts of a record's index go to the arrival queue (KIND 0) or the spill area (KIND 1 and 2). -/
def State.loadPlaces (s : State) (h : Handover) (cid base : Nat) : List Nat → State
  | [] => s
  | k :: ks =>
    let w := s.areaRead h (base + 0x10400 + 8 * k) 8
    if fld w 63 63 = 0 then s.loadPlaces h cid base ks
    else
      let key := cid * 16 + fld w 3 0
      let r := s.areaContext h (base + 0x10800 + 1024 * k) key
      match r.2 with
      | none => r.1.loadPlaces h cid base ks
      | some c =>
        let t := r.1
        let t1 :=
          if fld w 55 48 = 0 then
            (t.setCore cid { t.core cid with arrivals := (t.core cid).arrivals ++ [c] }).modThread c.uid
              (fun y => { y with place := .arrival, key := key })
          else (t.modThread c.uid (fun y => { y with key := key, wait := y.wait.afterLoad })).putImage key c none
        t1.loadPlaces h cid base ks

/-- LOAD of one slot (R319, R321): the incoming tenant's contexts and bank, or FREE with zeroes. -/
def State.loadSlot (s : State) (h : Handover) (key : Nat) : State :=
  if h.saveIn = 0 then s.setSlot key { s.slot key with phase := .free }
  else
    let at0 := h.slotAt h.saveIn key
    let r := (s.setSlot key { s.slot key with phase := .free }).areaContext h at0 key
    let s1 := r.1.loadBank h key
    let s2 := match r.2 with
      | none => s1
      | some c => (s1.modThread c.uid (fun t => { t with wait := t.wait.afterLoad })).enterAfresh key c.uid c.regs
    let q := s2.areaContext h (at0 + 0x400) key
    let s3 := match q.2 with
      | none => q.1
      | some c =>
        let sh := match (q.1.thread c.uid).map (·.wait) with
          | some (.migrating _) => Shadow.arrival c
          | _ => Shadow.displaced c
        (q.1.setSlot key { q.1.slot key with shadow := sh }).modThread c.uid
          (fun t => { t with place := .shadow, key := key, wait := t.wait.afterLoad })
    if slotOf key % 4 ≠ 3 then s3
    else s3.loadPlaces h (cidOf key) (areaRecord h.saveIn (h.record (cidOf key) (groupOf key))) (List.range 94)

/-- Loaded threads whose Crier threshold or network counter was met while they were saved go on (R19). -/
def State.remeet (s : State) (key : Nat) : State :=
  s.threads.foldl (fun t e =>
    if e.2.key = key ∧ e.2.place ≠ Place.area then
      match e.2.wait with
      | .crier n => if n ≤ t.count key then t.finish e.1 else t
      | .counter h n => if n ≤ getD (t.nq (nqKey (cidOf key) e.2.booth)).ctrs h 0 then t.finish e.1 else t
      | _ => t
    else t) s

/-- HANDOVER_LOAD. -/
def State.handLoad (s : State) (n key : Nat) : Option State :=
  match find s.handovers n with
  | none => none
  | some h =>
    if h.phaseOf key ≠ some .scrubbed then none
    else
      let s1 := ((s.setHandover n { h with slots := setPhase h.slots key .loaded }).loadSlot h key).remeet key
      some ((s1.wake (fun _ _ w => w == Why.handover)).handEnd n)

def execHandoverLoad (h key : Nat) (s : State) : Host.Outcome State Fault Refusal := event "HANDOVER_LOAD" (s.handLoad h key)

/-! ### The accumulator store -/

/-- Whether a run or request on a group's store is under way. -/
def State.storeBusy (s : State) (cid group : Nat) : Bool :=
  let c := s.core cid
  c.mreqs.any (fun r => groupOf r.key == group) || (match c.mrun with | none => false | some r => groupOf r.key == group)

def State.accEntry (s : State) (cid i : Nat) : Nat := (getD (s.core cid).acc i 0).toNat

/-- Saves the store's entries and counter records (R321). -/
def State.saveStore (s : State) (h : Handover) (cid g : Nat) : State :=
  let base := areaRecord h.saveOut (h.record cid g)
  let es := (List.range 2048).map (fun i => BitVec.ofNat 64 (s.accEntry cid (g * 2048 + i)))
  let cs := (List.range 4).map (fun t => ((s.core cid).tile g t).record)
  let k := areaKey h.pkg (base + 0xC000)
  ({ s with areaKeys := put s.areaKeys k h.outKey }.areaWrite h (base + 0xC000) 16384 (joinWords es)).areaWrite h (base + 0x10000) 32
    (joinWords cs)

/-- Loads them back. -/
def State.loadStore (s : State) (h : Handover) (cid g : Nat) : State :=
  if h.saveIn = 0 then s
  else
    let base := areaRecord h.saveIn (h.record cid g)
    let c := s.core cid
    let acc := (List.range 2048).foldl (fun a i =>
      putD a (g * 2048 + i) (BitVec.ofNat 36 (s.areaRead h (base + 0xC000 + 8 * i) 8)) 0) c.acc
    let cnt := (List.range 4).foldl (fun a t =>
      let v := s.areaRead h (base + 0x10000 + 8 * t) 8
      putD a (g * 4 + t) ⟨fld v 15 0, fld v 31 16, fld v 47 32⟩ ⟨0, 0, 0⟩) c.tileCnt
    { s with areaKeys := del s.areaKeys (areaKey h.pkg (base + 0xC000)) }.setCore cid { c with acc := acc, tileCnt := cnt }

/-- STORE_HANDOVER of the store cid * 4 + group: after the group's last slot, once no run is on it. -/
def State.handStore (s : State) (n sk : Nat) : Option State :=
  match find s.handovers n with
  | none => none
  | some h =>
    let cid := sk / 4
    let g := sk % 4
    let slots := h.slots.filter (fun e => cidOf e.1 == cid && groupOf e.1 == g)
    if (h.stores.find? (fun e => e.1 == sk)).map Prod.snd = some .todo && slots.all (fun e => e.2 == .loaded) &&
        !s.storeBusy cid g then
      let s1 := (((s.saveStore h cid g).clearStore cid g).loadStore h cid g).setHandover n
        { h with stores := setPhase h.stores sk .loaded }
      some (((s1.handReceipt n).wake (fun _ _ w => w == Why.handover)).handEnd n)
    else none

def execStoreHandover (h group : Nat) (s : State) : Host.Outcome State Fault Refusal :=
  event "STORE_HANDOVER" (s.handStore h group)

/-! ### Released pages (R324) -/

/-- Requests parked on cleared words are tried again, since their words changed state (R151). -/
def State.walkCleared (s : State) (ga n : Nat) : State :=
  ((s.feWait.filter (fun p => ga ≤ p.msg.ga && p.msg.ga < ga + n)).map (fun p => p.msg.ga)).foldl
    (fun t a => t.walkWord a) s

/-- A released page is written with zeroes under a key (R324). -/
def State.clearUnder (s : State) (p : Nat × Nat) (key : Nat) : State :=
  (s.modMem (fun m => (m.clear p.1 p.2).underAll p.1 key true (p.2 / 512))).walkCleared p.1 p.2

/-- PAGE_CLEAR: zero bytes under the incoming key, empty words, age 0 and writer 0. -/
def State.clearPages (s : State) (n : Nat) : Option State :=
  match find s.handovers n with
  | none => none
  | some h =>
    if h.cleared then none
    else
      let s1 := h.pages.foldl (fun t p => t.clearUnder p (s.keyId h.pkg h.inKey)) s
      let blk := h.pages.foldl (fun k p => k + p.2 / 512) 0
      some (((s1.setHandover n { h with cleared := true, nblk := blk }).handReceipt n).handEnd n)

def execPageClear (h : Nat) (s : State) : Host.Outcome State Fault Refusal := event "PAGE_CLEAR" (s.clearPages h)

/-! ### Gang ticks (R323, R359) -/

/-- The gang values in force in a cycle: those of a command from the first tick after it completed. DESIGN CHOICE (log entry 67): a tick
comes in every cycle that GTICK divides. -/
def Gang.inForce (g : Gang) (cycle : Nat) : Gang :=
  match g.next with
  | none => g
  | some (t, d, c) => if c / g.gtick < cycle / g.gtick then ⟨t, d, none⟩ else g
def State.gang (s : State) (p b : Nat) : Gang := (getD s.gangs (p * 64 + b) Gang.init).inForce s.cycle

/-- Slots of a handover stop or resume. -/
def State.setPhases (s : State) (h : Handover) (f : Slot → Phase) : State :=
  h.slots.foldl (fun t e => t.setSlot e.1 { t.slot e.1 with phase := f (t.slot e.1) }) s

/-- The gang handovers of a booth that have not agreed yet, on every package: they tick together (R323). -/
def State.ganged (s : State) (booth : Nat) : List (Nat × Handover) :=
  s.handovers.filter (fun e => e.2.booth == booth && e.2.gang && !e.2.agreed)

/-- The first tick after a cycle: ticks come by the old values up to the one at which the new take effect (R323, R359). -/
def Gang.tickAfter (g : Gang) (last : Nat) : Nat :=
  let after (t : Nat) : Nat := (last / t + 1) * t
  match g.next with
  | none => after g.gtick
  | some (t, _, c) => if last < (c / g.gtick + 1) * g.gtick then after g.gtick else after t

/-- GANG_TICK: every handed slot of the booth stops on every die, and the deadline is GDL cycles away. -/
def State.gangTick (s : State) (n : Nat) : Option State :=
  match find s.handovers n with
  | none => none
  | some h =>
    let g := s.gang h.pkg h.booth
    if !h.gang || h.agreed || h.tick.isSome ||
        s.cycle < (getD s.gangs (h.pkg * 64 + h.booth) Gang.init).tickAfter h.last then none
    else
      some ((s.ganged h.booth).foldl (fun t e =>
        (t.setPhases e.2 (fun _ => .handover)).setHandover e.1 { e.2 with tick := some (s.cycle + g.gdl), last := s.cycle }) s)

def execGangTick (h : Nat) (s : State) : Host.Outcome State Fault Refusal := event "GANG_TICK" (s.gangTick h)

/-- Whether an address is a context place that a handover has taken. -/
def Handover.tookPlace (h : Handover) (a : Nat) : Bool :=
  h.places.any (fun e =>
    let lo := areaKey h.pkg (areaRecord h.saveOut e.1 + 0x10800)
    lo ≤ a && a < lo + 1024 * e.2)

/-- A context that arrived during a tick that was missed comes out of the save area again: its message waits at its slot. -/
def State.unplace (s : State) (h : Handover) (e : Nat × Saved) : State :=
  match s.thread e.2.uid with
  | none => s
  | some t =>
    if h.tookPlace e.1 then
      let m := { s.newMsg (cidOf t.key) (cidOf t.key) t.booth e.2.uid (tidOf t.key) 3 .context with left := 0 }
      ({ s with areas := del s.areas e.1, areaKeys := del s.areaKeys e.1, areaBanks := del s.areaBanks e.1 }.inject m).modThread e.2.uid
        (fun t => { t with place := .flight })
    else s

/-- A tick was missed: the copies are discarded and the outgoing threads go on unchanged. -/
def State.missTick (s : State) (n : Nat) (h : Handover) : State :=
  let h1 := { h with slots := h.slots.map (fun e => (e.1, HPhase.todo)), tick := none, misses := h.misses + 1, places := [] }
  let s1 := s.areas.foldl (fun t e => t.unplace h e) ((s.setPhases h (fun x => if x.run.isSome then .live else .free)).setHandover n h1)
  if h1.misses < 3 then s1 else s1.setBoothPkg h.pkg h.booth { s1.boothPkg h.pkg h.booth with frozen := true, reset := true }

/-- Every die met the deadline: the saved contexts leave, with what has arrived for them since they were copied (R19, R334). -/
def State.agree (s : State) (n : Nat) (h : Handover) : State :=
  h.slots.foldl (fun t e =>
    match find t.handovers n with
    | none => t
    | some hh => (t.copySlot hh e.1).leaveSlot n hh e.1) (s.setHandover n { h with agreed := true, tick := none })

/-- GANG_DEADLINE: with every SAVE of every die ended the contexts leave; else the copies are discarded and the threads resume, and the
third miss sends the booth to the reset path. -/
def State.gangDeadline (s : State) (n : Nat) : Option State :=
  match find s.handovers n with
  | none => none
  | some h =>
    match h.tick with
    | none => none
    | some c =>
      if h.agreed || s.cycle < c then none
      else
        let hs := (s.ganged h.booth).filter (fun e => e.2.tick == some c)
        let met := hs.all (fun e => e.2.slots.all (fun x => x.2 == .saved))
        some (hs.foldl (fun t e => if met then t.agree e.1 e.2 else t.missTick e.1 e.2) s)

def execGangDeadline (h : Nat) (s : State) : Host.Outcome State Fault Refusal := event "GANG_DEADLINE" (s.gangDeadline h)

/-! ### The HANDOVER command (R320) -/

def State.keyLoaded (s : State) (p k : Nat) : Bool := k == 0 || (find (s.pkg p).keys k).isSome
/-- Whether a key slot holds a tenant's key: one that was loaded bound to it, or management's (R389). DEDUCED (log entry 32). -/
def State.keyOf (s : State) (p k : Nat) (tenant : Word) : Bool :=
  k == 0 || (match find (s.pkg p).keys k with | none => false | some x => x.1 == tenant)

/-- n words of booth 0's space, if every byte translates with read permission (R354). -/
def State.mgmtWords (s : State) (p va n : Nat) : Option (List Word) :=
  if s.dispRange p 0 va (8 * n) true false false then some (splitWords n (s.spaceRead p 0 va (8 * n) true none)) else none

def coreEntryOk (w : Word) : Bool := wfld w 63 30 == 0 && wfld w 3 0 == 0
def relEntryOk (w : Word) : Bool := wfld w 63 50 == 0 && wfld w 15 0 == 0 && wfld w 49 48 != 3

/-- The checks and the start of a handover; none for CMD_INVALID. -/
def State.startHandover (s : State) (p booth seq : Nat) (va : Word) : Option State :=
  if va.toNat % 128 ≠ 0 || wfld va 63 48 ≠ 0 then none
  else
    match s.mgmtWords p va.toNat 16, s.region p booth with
    | some d, some reg =>
      let g (i : Nat) : Word := d.getD i 0
      let nent := wfld (g 0) 31 0
      let nrel := wfld (g 7) 31 0
      let groups := wfld (g 8) 19 16
      let clear := wfld (g 0) 47 32 == 0 && wfld (g 4) 63 48 == 0 && wfld (g 5) 63 48 == 0 && wfld (g 6) 63 48 == 0 &&
        wfld (g 7) 63 32 == 0 && wfld (g 8) 63 20 == 0 && wfld (g 8) 15 14 == 0 && wfld (g 8) 7 6 == 0 &&
        (d.drop 9).all (· == 0)
      if !clear || wfld (g 0) 63 56 ≠ 1 || wfld (g 0) 55 48 ≠ booth || nent = 0 || 8448 < nent || 4096 < nrel ||
          g 1 ≠ reg.tenant || wfld (g 4) 11 0 ≠ 0 || wfld (g 5) 11 0 ≠ 0 || wfld (g 6) 2 0 ≠ 0 then none
      else
        match s.mgmtWords p (va.toNat + 128) nent, s.mgmtWords p (wfld (g 6) 47 0) nrel with
        | some es, some rs =>
          let cores := es.map (fun w => wfld w 29 4)
          let gs := groupList groups
          let pages := rs.map (fun w => (s.pagesOf p booth).find? (fun q =>
            q.va == wfld w 47 0 && q.size == pageBytes (wfld w 49 48)))
          if !(es.all coreEntryOk) || !(rs.all relEntryOk) || !(cores.all reg.cores.contains) ||
              gs.any (fun k => fld reg.groups k k == 0) || pages.any (·.isNone) ||
              !s.keyOf p (wfld (g 8) 13 8) (g 2) || !s.keyLoaded p (wfld (g 8) 5 0) then none
          else
            let rel := pages.filterMap id
            let h : Handover :=
              { pkg := p, booth := booth, seq := seq, outT := g 1, inT := g 2, nonce := g 3, saveOut := wfld (g 4) 47 0,
                saveIn := wfld (g 5) 47 0, groups := groups, cores := cores, inKey := wfld (g 8) 13 8,
                outKey := wfld (g 8) 5 0,
                slots := (cores.foldl insert []).flatMap (fun c => gs.flatMap (fun k =>
                  (List.range 4).map (fun i => (c * 16 + 4 * k + i, HPhase.todo))))
                stores := ((cores.foldl insert []).filter (fun c => !isEdge c)).flatMap (fun c => gs.map (fun k => (c * 4 + k, HPhase.todo)))
                pages := (rel.filter (fun q => q.kind != 2)).map (fun q => (q.base, q.size))
                cleared := rel.isEmpty, nblk := 0, nxlt := 0, nets := []
                gang := 1 < ((s.regionCores booth).foldl (fun l c => insert l (pkgOf c * 4 + dieOf c)) []).length
                last := s.cycle, tick := none, misses := 0, agreed := false, places := []
                receipt := false }
            let s1 := s.unmap p booth rel.contains
            let n := s1.nextHandover
            some (({ s1 with handovers := put s1.handovers n h, nextHandover := n + 1 }.handReceipt n).handEnd n)
        | _, _ => none
    | _, _ => none

/-! ### A context arrives at a slot in handover (R322) -/

/-- MIGRATION_ARRIVAL: at a slot whose SAVE has begun an outgoing context goes to the outgoing save area, and never enters; an incoming
one waits in the fabric until the slot is loaded (R322). -/
def State.migrationArrives (s : State) (n : Nat) : Option State :=
  match s.arrived n with
  | none => none
  | some m =>
    match m.body, s.thread m.uid with
    | .context, some t =>
      match s.handovers.find? (fun e => e.2.slots.any (fun x => x.1 == t.key)) with
      | none => s.migrationArrive n
      | some e =>
        let loaded := e.2.phaseOf t.key == some .loaded
        if e.2.phaseOf t.key == some .todo && (s.slot t.key).phase != .handover then
          (if t.tenant = e.2.outT then s.migrationArrive n else none)
        else if loaded && t.tenant == e.2.inT then s.migrationArrive n
        else if t.tenant = e.2.outT then
          some ((((s.dropMsg n).takePlaces e.1 2
            [(t.key, ⟨m.uid, (s.slot t.key).regs.migrated (s.undef t.booth t.tenant), false⟩)]).drawn t.booth t.tenant).handEnd e.1)
        else none
    | _, _ => s.migrationArrive n

def execMigrationArrival (n : Nat) (s : State) : Host.Outcome State Fault Refusal :=
  event "MIGRATION_ARRIVAL" (s.migrationArrives n)

end Sys2Proof.Machine
end

