-- ==== Sys2Proof/Machine/Repair.lean ====
section
/-! DEFINITION. Spares and the repair map (R395, R396). -/

namespace Sys2Proof.Machine
open Bits Tables

/-- The package of a unit. -/
def RepairUnit.pkg : RepairUnit → Nat
  | .core c => pkgOf c
  | .row a => a / 2 ^ 52
  | .lane p _ _ => p

/-- The home core in whose bank a row lies (R357). -/
def rowHome (a : Nat) : Nat := dramHome (a / 2 ^ 52) (a % 2 ^ 52)

/-- A repair as its journal entry names it: the unit and the spare. DESIGN CHOICE (log entry 68): the spec gives no layout. -/
def RepairUnit.named (u : RepairUnit) (spare : Nat) : List Word :=
  match u with
  | .core c => [BitVec.ofNat 64 (c * 16), BitVec.ofNat 64 spare, 0, 0]
  | .row a => [BitVec.ofNat 64 (a % 2 ^ 52), BitVec.ofNat 64 spare, 0, 0]
  | .lane _ q l => [BitVec.ofNat 64 (2 ^ 63 + q * 2 ^ 8 + l), BitVec.ofNat 64 spare, 0, 0]

/-- Whether the spare lane of a port stands for one of its lanes. -/
def State.laneSpared (s : State) (p port : Nat) : Bool :=
  s.repairs.any (fun e => match e.1 with | .lane q r _ => q == p && r == port | _ => false)

/-- A unit has failed, since or at manufacture. -/
def State.bad (s : State) (u : RepairUnit) : Bool := s.defects.contains u || s.mfg.any (fun e => e.1 == u)

/-- The next free spare for a unit (R10, R395): core 16 or 17 of its cluster or edge group, one of the 64 rows of its bank, or lane 4 of its
port. -/
def State.freeSpare (s : State) (u : RepairUnit) : Option Nat :=
  match u with
  | .core c =>
    let n := getD s.sparesUsed (engOf c) 0
    if n < 2 then some (16 + n) else none
  | .row a =>
    let n := getD s.rowsUsed (rowHome a) 0
    if n < 64 then some n else none
  | .lane p q l => if l = 4 || s.laneSpared p q || s.bad (.lane p q 4) then none else some 4

/-- A spare stands for a unit from now on. -/
def State.useSpare (s : State) (u : RepairUnit) (n : Nat) : State :=
  let s1 := { s with repairs := s.repairs.filter (fun e => e.1 != u) ++ [(u, n)] }
  match u with
  | .core c => { s1 with sparesUsed := put s1.sparesUsed (engOf c) (max (getD s1.sparesUsed (engOf c) 0) (n - 15)) }
  | .row a => { s1 with rowsUsed := put s1.rowsUsed (rowHome a) (max (getD s1.rowsUsed (rowHome a) 0) (n + 1)) }
  | .lane _ _ _ => s1

/-- A repair: a spare takes the unit's place, with an entry of KIND 11 (R396); none where no spare is left. -/
def State.repair (s : State) (booth : Nat) (u : RepairUnit) : Option State :=
  (s.freeSpare u).map (fun n => (s.useSpare u n).deviceEvent u.pkg booth 11 0 (u.named n))

/-- A unit fails. -/
def State.fails (s : State) (u : RepairUnit) : State := { s with defects := s.defects ++ [u] }

/-- The in-field test of a whole package at power-up: the manufacturing map stands again, and every unit that has failed since takes a
spare; a core that finds none is lost (R395). DEDUCED (log entry 43): the test finds the units that failed while the package ran. -/
def State.testPackage (s : State) (p : Nat) : State :=
  let s1 := (s.mfg.filter (fun e => e.1.pkg == p)).foldl (fun (t : State) e => t.useSpare e.1 e.2) s
  (s.defects.filter (fun u => u.pkg == p)).foldl (fun (t : State) u =>
    match t.repair 0 u, u with
    | some v, _ => v
    | none, .core c => t.setCore c { t.core c with lost := true }
    | none, _ => t) s1

/-- The lanes of a port that work, by number. -/
def State.goodLanes (s : State) (p port : Nat) : Nat :=
  (List.range 5).foldl (fun n l => if s.bad (.lane p port l) then n else n + 2 ^ l) 0

end Sys2Proof.Machine
end

