-- ==== Sys2Proof/Machine/Reset.lean ====
section
/-! DEFINITION. Booth reset, teardown, resize and replay fences (R328 to R333), and what triggers a reset (R329). -/

namespace Sys2Proof.Machine
open Bits Tables

/-- The packages on which a booth has a region. -/
def State.packagesWith (s : State) (booth : Nat) : List Nat :=
  (s.regions.filter (fun e => e.1 % 64 == booth)).map (fun e => e.1 / 64)

def State.coresOn (s : State) (p booth : Nat) : List Nat := ((s.region p booth).map (·.cores)).getD []
def State.groupsOn (s : State) (p booth : Nat) : List Nat := groupList (((s.region p booth).map (·.groups)).getD 0)

/-! ### Discarding a booth's work (R330 step 2, R333) -/

/-- Whether a slot belongs to a booth. -/
def State.slotIn (s : State) (booth key : Nat) : Bool := s.slotBooth key == some booth

/-- Runs, requests and queued contexts of a booth's slots leave a core. -/
def State.discardCore (s : State) (cid booth : Nat) : State :=
  let c := s.core cid
  let mine (key : Nat) : Bool := s.slotIn booth key
  let gone (u : Nat) : Bool := match s.thread u with | none => false | some t => t.booth == booth && t.place != .area
  s.setCore cid { c with
    sfuQ := c.sfuQ.filter (fun r => !gone r.uid), sfuWait := c.sfuWait.filter (fun r => !gone r.uid)
    mreqs := c.mreqs.filter (fun r => !mine r.key)
    mrun := match c.mrun with
      | none => none
      | some r => if mine r.key then none else some r
    arrivals := c.arrivals.filter (fun a => !gone a.uid) }

/-- Every thread, saved context, parked request, engine command, matrix run, channel message and migration of a booth is discarded, with
every message of it but interrupts and host accesses, which are none of these (R238, R270, R330). Contexts in a tenant's save area are not the booth's any more, and stay with
their requests. -/
def State.discard (s : State) (booth : Nat) : State :=
  let s1 := (s.regionCores booth).foldl (fun t c => t.discardCore c booth) s
  let keys := s1.slots.filter (fun e => s.slotIn booth e.1)
  let s2 := keys.foldl (fun t e => t.setSlot e.1 { e.2 with run := none, phase := .free, shadow := .empty }) s1
  let kept (m : Msg) : Bool := m.booth != booth || (match m.body with | .irq _ => true | _ => false) ||
    (match m.party with
      | .core => (match s.thread m.uid with | none => false | some t => t.place == .area)
      | .host _ => true
      | _ => false)
  { s2 with
    threads := s2.threads.filter (fun e => e.2.booth != booth || e.2.place == .area)
    images := s2.images.filter (fun e => e.1 % 64 != booth)
    net := s2.net.filter kept
    feWait := s2.feWait.filter (fun p => kept p.msg)
    agedWait := s2.agedWait.filter (fun p => kept p.msg)
    walks := s2.walks.filter (fun w => w.booth != booth)
    vqs := s2.vqs.filter (fun e => e.1 % 64 != booth)
    pulses := s2.pulses.filter (fun p => p.booth != booth)
    linkNet := s2.linkNet.filter (fun i => !s.slotIn booth i.key)
    preempts := s2.preempts.filter (fun p => !s.slotIn booth p.key)
    spawnQ := s2.spawnQ.filter (fun p => match find s.launches p.launch with | none => false | some l => l.booth != booth)
    chans := s2.chans.filter (fun e => e.1 / 32 % 64 != booth) }

/-- The posted windows start again when every message of the booth is gone. -/
def State.freshWindows (s : State) (booth : Nat) : State :=
  { s with
    booths := s.booths.map (fun e => if e.1 % 64 = booth then (e.1, { e.2 with win := PWin.init }) else e)
    uncredited := s.uncredited.filter (fun e => e.1 % 64 != booth) }

/-- The scrub of a whole region on a package, with its receipt (R325, R326). -/
def State.scrubRegion (s : State) (p booth kind extra : Nat) (outT inT nonce : Word) (nblk : Nat) : State :=
  match s.region p booth with
  | none => s
  | some r =>
    let gs := groupList r.groups
    let s0 := r.cores.foldl (fun t c => gs.foldl (fun t g =>
      ((List.range 4).foldl (fun t i =>
        let k := c * 16 + 4 * g + i
        let t1 := t.clearSlot k booth
        t1.setSlot k { t1.slot k with phase := .free }) t).clearStore c g) t) s
    let x := s0.clearBoothCores booth r.cores
    let s1 := (r.cores.filter isEdge).foldl (fun t c => t.clearNet p (dieOf c) booth) x.1
    let n := 4 * gs.length * r.cores.length
    s1.newReceipt p
      { pkg := p, kind := kind, booth := booth, rseq := 0
        rclass := 0xFF + (if r.cores.any isEdge then 0x200 else 0) + extra, outT := outT, inT := inT, nonce := nonce
        time := 0, groups := r.groups, cores := r.cores, nbank := n, nslot := n
        nacc := 2048 * gs.length * (r.cores.filter (fun c => !isEdge c)).length, ntag := 16 * n, nxlt := x.2, nblk := nblk
        written := false, bytes := [] }

/-! ### Journal entries of a booth -/

def State.entriesOf (s : State) (p booth : Nat) : List (Nat × JEntry) :=
  (s.pkg p).journal.filter (fun e => e.2.booth == booth)

/-- The booth's journal entries on every package, each with its package and number in one (R328). -/
def State.allEntries (s : State) (booth : Nat) : List (Nat × JEntry) :=
  s.pkgs.flatMap (fun k => (s.entriesOf k.1 booth).map (fun e => (k.1 * 2 ^ 64 + e.1, e.2)))

/-- The entries among some whose submitters are in a list join it, and so on in turn. -/
def withChildren (all : List (Nat × JEntry)) : Nat → List Nat → List Nat
  | 0, l => l
  | n + 1, l =>
    let more := (all.filter (fun e => l.contains e.2.parent && !l.contains e.1)).map Prod.fst
    if more.isEmpty then l else withChildren all n (l ++ more)

/-- The entries that a replay fence at an entry waits for: the lower ones of the booth that were not rejected, the launches that their
threads submitted on any package, and so on in turn (R328). -/
def State.awaited (s : State) (p booth seq : Nat) : List JEntry :=
  let all := (s.allEntries booth).filter (fun e => e.1 != p * 2 ^ 64 + seq && e.2.state != 1)
  let ns := withChildren all all.length ((all.filter (fun e => e.1 / 2 ^ 64 == p && e.2.seq < seq)).map Prod.fst)
  (all.filter (fun e => ns.contains e.1)).map Prod.snd

def State.fenceReady (s : State) (p booth seq : Nat) : Bool := (s.awaited p booth seq).all (fun e => 3 ≤ e.state)

/-- An entry becomes the booth's last replay fence; a place of the journal may be free again (R328, R393). -/
def State.markFence (s : State) (p booth seq : Nat) : State :=
  let b := s.boothPkg p booth
  ((s.jstate p seq 4).setBoothPkg p booth { b with lastFence := max b.lastFence seq }).placesFree p

/-- REPLAY_FENCE_MARK (R328): a FENCE that has been reached, or a completed launch with REPLAY = 1. -/
def State.fenceMark (s : State) (p seq : Nat) : Option State :=
  match find (s.pkg p).journal seq with
  | none => none
  | some e =>
    let reached := e.origin = 0 && wfld (e.cmd.headD 0) 63 56 = 2
    if e.fence && (e.state = 3 || (reached && e.state = 0)) && s.fenceReady p e.booth seq then
      some (s.markFence p e.booth seq)
    else none

def execReplayFenceMark (pkg seq : Nat) (s : State) : Host.Outcome State Fault Refusal :=
  event "REPLAY_FENCE_MARK" (s.fenceMark pkg seq)

/-! ### What triggers a reset (R329) -/

/-- The booth freezes, and its reset is to be run (R330 step 1). -/
def State.freeze (s : State) (booth : Nat) : State :=
  (s.packagesWith booth).foldl (fun t p => t.setBoothPkg p booth { t.boothPkg p booth with frozen := true, reset := true }) s

/-- Whether an address is state that a booth owns: a byte that one of its pages maps, or of one of its scratchpad banks. -/
def State.ownsAddr (s : State) (booth a : Nat) : Bool :=
  if 2 ^ 64 ≤ a then
    let c := (a - 2 ^ 64) / 2 ^ 17
    s.inRegion booth c && s.ownsOff c booth ((a - 2 ^ 64) % 2 ^ 17)
  else s.maps.any (fun e => e.1 % 64 == booth && e.2.any (fun q => q.base ≤ a && a < q.base + q.size))

/-- UNCORRECTABLE_ERROR in state that the booth owns; a destroyed block is named. -/
def State.softError (s : State) (booth : Nat) (block : Option Nat) : Option State :=
  if (s.packagesWith booth).isEmpty then none
  else
    match block with
    | none => some (s.freeze booth)
    | some a =>
      if a % 512 ≠ 0 || !s.ownsAddr booth a then none
      else
        let p := if 2 ^ 64 ≤ a then (s.packagesWith booth).headD 0 else a / 2 ^ 52
        let s1 := s.freeze booth
        some (s1.setBoothPkg p booth { s1.boothPkg p booth with lost := (s1.boothPkg p booth).lost ++ [a] })

def execUncorrectableError (booth : Nat) (block : Option Nat) (s : State) : Host.Outcome State Fault Refusal :=
  event "UNCORRECTABLE_ERROR" (s.softError booth block)

/-- HANG_DETECT: threads are resident, none can issue, and no core of the region has issued for the booth for 2^26 cycles. A wait that
ended later would have made a thread able to issue. -/
def State.hangs (s : State) (booth : Nat) : Option State :=
  let mine := s.slots.filter (fun e => s.slotIn booth e.1 && e.2.run.isSome)
  let idle (e : Nat × Slot) : Bool := match e.2.run with
    | none => false
    | some u => match s.thread u with
      | none => false
      | some t => t.wait == .idle
  if !mine.isEmpty && mine.all (fun e => !idle e) && (s.regionCores booth).all (fun c => (s.bc c booth).last + 2 ^ 26 ≤ s.cycle) then
    some (s.freeze booth)
  else none

def execHangDetect (booth : Nat) (s : State) : Host.Outcome State Fault Refusal := event "HANG_DETECT" (s.hangs booth)

/-! ### BOOTH_RESET (R330, R395, R396) -/

/-- In-field test and repair of one core: a spare takes a failed core's number; without one the booth is exhausted. -/
def State.repairCore (s : State) (p booth cid : Nat) : State :=
  if !(s.core cid).lost then s
  else
    match (s.setCore cid { s.core cid with lost := false }).repair booth (.core cid) with
    | some t => t
    | none => s.setBoothPkg p booth { s.boothPkg p booth with exhausted := true }

/-- A destroyed block is zeroed, every word empty, age 0 and writer 0, and listed in the journal. In bonded DRAM its row has failed and a
spare of its home bank's 64 takes over. DESIGN CHOICE (log entry 68): the in-field test finds failed the rows of destroyed blocks. -/
def State.zeroBlock (s : State) (p booth a : Nat) : State :=
  let s1 := (s.modMem (fun m => m.clear a 512)).deviceEvent p booth 13 0 [BitVec.ofNat 64 (a % 2 ^ 52), 0, 0, 0]
  if 2 ^ 64 ≤ a || fld a 51 49 = 1 then s1
  else
    match (s1.fails (.row a)).repair booth (.row a) with
    | some t => t
    | none => s1.setBoothPkg p booth { s1.boothPkg p booth with exhausted := true }

/-- The sequence numbers to replay: host commands above the last replay fence that were not rejected (R330 step 5). -/
def State.replayList (s : State) (p booth : Nat) : List Nat :=
  ((s.entriesOf p booth).filter (fun e =>
    (s.boothPkg p booth).lastFence < e.1 && e.2.origin == 0 && e.2.state != 1)).map Prod.fst

/-- Launches that threads had submitted are dropped: their submitters run again. -/
def State.dropThreadLaunches (s : State) (p booth : Nat) : State :=
  (s.entriesOf p booth).foldl (fun t e => if e.2.origin = 1 then t.jstate p e.1 3 else t) s

/-- A handover is completed as part of a reset: the banks change owner, the incoming tenant's state is loaded and the released pages are
cleared (R142, R323). -/
def State.foldHandover (s : State) (n : Nat) (h : Handover) : State :=
  let s0 := h.slots.foldl (fun t e => t.dropNear e.1 h.booth) s
  let s1 := h.pages.foldl (fun t q => t.clearUnder q (s.keyId h.pkg h.inKey)) (s0.setHandover n { h with
    slots := h.slots.map (fun e => (e.1, HPhase.scrubbed)) })
  let s2 := h.slots.foldl (fun t e =>
    match find t.handovers n with
    | none => t
    | some hh => ((t.setHandover n { hh with slots := setPhase hh.slots e.1 .loaded }).loadSlot h e.1).remeet e.1) s1
  let s3 := h.stores.foldl (fun t e => t.loadStore h (e.1 / 4) (e.1 % 4)) s2
  ({ s3 with handovers := del s3.handovers n }.newTenant h.pkg h.booth h.inT h.inKey).jstate h.pkg h.seq 3

/-- One package's part of a reset: repair, scrub with its receipt, and the list of commands to replay. -/
def State.resetOn (s : State) (p booth : Nat) : State :=
  let b0 := s.boothPkg p booth
  let s1 := s.deviceEvent p booth 10 0 [0, 0, 0, 0]
  let s2 := (s1.coresOn p booth).foldl (fun t c => t.repairCore p booth c) s1
  let s3 := b0.lost.foldl (fun t a => t.zeroBlock p booth a) s2
  let hs := s3.handovers.filter (fun e => e.2.pkg == p && e.2.booth == booth)
  let s4 := match hs with
    | [] => s3.scrubRegion p booth 1 0 (s3.tenantOf p booth) (s3.tenantOf p booth) 0 0
    | e :: _ => (s3.scrubRegion p booth 0 (if e.2.pages.isEmpty then 0 else 0x100) e.2.outT e.2.inT e.2.nonce
        (e.2.pages.foldl (fun (k : Nat) (q : Nat × Nat) => k + q.2 / 512) 0)).foldHandover e.1 e.2
  let s5 := s4.dropThreadLaunches p booth
  let b := s5.boothPkg p booth
  let s6 := s5.setBoothPkg p booth { b with
    frozen := b.exhausted, reset := false, lost := [], toReplay := s5.replayList p booth }
  if b.exhausted then s6.deviceEvent p booth 12 0 [0, 0, 0, 0] else s6

/-- BOOTH_RESET: freeze, discard, test and repair, scrub; the replay follows. -/
def State.resetBooth (s : State) (booth : Nat) : Option State :=
  let ps := s.packagesWith booth
  if ps.any (fun p => (s.boothPkg p booth).reset) then
    let s1 := ((s.discard booth).freshWindows booth).clearStops booth
    let s2 := { s1 with launches := s1.launches.filter (fun e => e.2.booth != booth) }
    let s3 := ps.foldl (fun t p => t.resetOn p booth) s2
    let stuck := ps.any (fun p => (s3.boothPkg p booth).exhausted)
    some (if stuck then ps.foldl (fun t p => t.setBoothPkg p booth { t.boothPkg p booth with frozen := true }) s3 else s3)
  else none

def execBoothReset (booth : Nat) (s : State) : Host.Outcome State Fault Refusal := event "BOOTH_RESET" (s.resetBooth booth)

/-! ### TEARDOWN (R333) -/

/-- Every packet of the booth's launches that has not started is skipped; the launches end with STATUS 3, and wait for the accesses of
their stopped threads (R296). -/
def State.tearLaunches (s : State) (booth : Nat) : State :=
  (s.launches.filter (fun e => e.2.booth == booth)).foldl (fun t e =>
    match find t.launches e.1 with
    | none => t
    | some l =>
      let us := (t.threads.filter (fun x => x.2.job.launch == some e.1)).map Prod.fst
      t.skipAll e.1 { l with torn := true, live := 0, strays := us ++ l.strays }) s

/-- The streams of a slot's thread, and of a context in its shadow bank, are written (R111). -/
def State.flushSlot (s : State) (key : Nat) : State :=
  let x := s.slot key
  let one (s : State) (u : Nat) (r : SlotRegs) : State := match s.thread u with | none => s | some t => s.flushRegs u t r
  let s1 := match x.run with | none => s | some u => one s u x.regs
  match x.shadow with
  | .empty => s1
  | .arrival c | .displaced c | .spill c => one s1 c.uid c.regs

/-- Threads of a booth stop: their streams are written and unbound (R111), and they send their stop notices; contexts in flight, waiting and saved are discarded, with what only they wait
for. Commands that engines have started run on. -/
def State.stopThreads (s : State) (booth : Nat) : State :=
  let gone := s.threads.filter (fun e => e.2.booth == booth && e.2.place != .area)
  let us := gone.map Prod.fst
  let mine := (s.slots.filter (fun e => s.slotIn booth e.1)).map Prod.fst
  let s0 := mine.foldl State.flushSlot s
  let s1 := gone.foldl (fun t e => t.stopNotices booth e.2.key) ((s.regionCores booth).foldl (fun t c => t.discardCore c booth) s0)
  let s2 := mine.foldl (fun t k =>
    let x := t.slot k
    t.setSlot k { x with
      run := none, phase := .free, shadow := .empty, regs := { x.regs with streams := Vector.replicate 4 none } }) s1
  let held (p : Parked) : Bool := p.msg.party == .core && us.contains p.msg.uid
  let moving (m : Msg) : Bool := m.booth == booth && (match m.body with | .context | .chan _ _ | .ask _ => true | _ => false)
  { s2 with
    threads := s2.threads.filter (fun e => !us.contains e.1)
    images := s2.images.filter (fun e => e.1 % 64 != booth)
    net := s2.net.filter (fun m => !moving m)
    feWait := s2.feWait.filter (fun p => !held p)
    agedWait := s2.agedWait.filter (fun p => !held p)
    walks := s2.walks.filter (fun w => w.booth != booth)
    vqs := s2.vqs.map (fun e => if e.1 % 64 = booth then (e.1, { e.2 with queue := [], held := [], released := [] }) else e)
    nqs := s2.nqs.map (fun e => if e.1 % 64 = booth then (e.1, { e.2 with queue := [], held := [], released := [] }) else e)
    preempts := s2.preempts.filter (fun p => !s.slotIn booth p.key)
    spawnQ := s2.spawnQ.filter (fun p => match find s.launches p.launch with | none => false | some l => l.booth != booth)
    chans := s2.chans.filter (fun e => e.1 / 32 % 64 != booth) }

/-- The first step of a teardown, by the entry `seq` of package p: the threads stop, and nothing of the booth starts any more. -/
def State.teardown (s : State) (p booth seq : Nat) : State :=
  let s1 := (s.tearLaunches booth).stopThreads booth
  (s.packagesWith booth).foldl (fun t q => t.setBoothPkg q booth { t.boothPkg q booth with
    frozen := true, reset := false, toReplay := [], lost := [], resize := none, tearing := some (if q = p then seq else 0) }) s1

/-- Whether a teardown still waits: for a launch's record, a posted access, a stop notice, or a command of an engine. A block that waits at its home
for an age that no thread will publish is not waited for. -/
def State.tearWaits (s : State) (booth : Nat) : Bool :=
  s.launches.any (fun e => e.2.booth == booth) || s.net.any (fun m => m.booth == booth && (m.posted || (match m.body with | .stop _ => true | _ => false))) ||
  s.vqs.any (fun e => e.1 % 64 == booth && e.2.running.any (fun r => !s.stalled r)) ||
  s.nqs.any (fun e => e.1 % 64 == booth && (!e.2.running.isEmpty || !e.2.jobs.isEmpty))

/-- A booth gives up its region on a package: every group returns to the free pool (R142, R356, R387). -/
def State.giveUp (s : State) (p booth : Nat) : State :=
  let cs := s.coresOn p booth
  let s1 := cs.foldl (fun t c =>
    let t1 := (List.range 16).foldl (fun t i => if s.ownsGroup c booth (i / 4) then t.dropNear (c * 16 + i) booth else t) t
    t1.setCore c { t1.core c with
      owners := Vector.ofFn (fun g => if (t1.core c).owners[g] = some booth then none else (t1.core c).owners[g]) }) s
  { s1.unstitch booth cs.contains with
    regions := del s1.regions (p * 64 + booth)
    spillAreas := s1.spillAreas.filter (fun e => !(e.1 % 64 == booth && pkgOf (e.1 / 64) == p)) }

/-- The second step of a teardown: the whole region is scrubbed with its receipt and given up, and journal entries are completed without
a replay. -/
def State.tornDown (s : State) (booth : Nat) : Option State :=
  let ps := s.packagesWith booth
  if !ps.any (fun q => (s.boothPkg q booth).tearing.isSome) || s.tearWaits booth then none
  else
    let s1 := ((s.discard booth).freshWindows booth).clearStops booth
    let s2 := ps.foldl (fun t q =>
      (t.scrubRegion q booth 1 0 (t.tenantOf q booth) (t.tenantOf q booth) 0 0).giveUp q booth) s1
    let s3 := (s2.pkgs.map Prod.fst).foldl (fun t q =>
      let t1 := (t.entriesOf q booth).foldl (fun u e => u.jstate q e.1 3) t
      t1.setBoothPkg q booth { BoothPkg.init with lastFence := (t1.pkg q).jseq - 1 }) s2
    some ((s3.pkgs.map Prod.fst).foldl State.placesFree s3)

/-! ### RESIZE (R332, R356) -/

/-- The slot that a thread of a departing slot takes in the new region: the same one, or, where the region has lost its group, the one
at the same place in the region's first group. DESIGN CHOICE (log entry 69): R332 names the same slot only. -/
def newSlot (groups i : Nat) : Nat :=
  if fld groups (i / 4) (i / 4) = 1 then i else 4 * (groupList groups).headD 0 + i % 4

/-- Whether nothing of the booth uses a slot. -/
def State.unused (s : State) (booth key : Nat) : Bool :=
  (s.slot key).run.isNone && (s.slot key).shadow == .empty && (getD s.images (cidOf key * 64 + booth) []).all (fun im => im.key != key) &&
    !s.queuedFor key

/-- The core that takes a departing slot's contexts: the first, new ones before kept ones, on which the slot is unused, else the first whose
spill area has room, else the first. -/
def State.destOf (s : State) (booth slot : Nat) (new kept : List Nat) : Nat :=
  ((new ++ kept).find? (fun c => s.unused booth (c * 16 + slot))).getD
    (((new ++ kept).find? (fun c => s.imagesTaken c booth < 64)).getD ((new ++ kept).headD 0))

/-- Every context of a slot, as images hold them: an arrived one takes its undefined registers now. -/
def State.contextsOf (s : State) (booth key : Nat) : List Saved :=
  let x := s.slot key
  let c := s.core (cidOf key)
  let arrived (a : Saved) : Saved :=
    let n := ((s.thread a.uid).map (·.tenant)).getD 0
    { a with regs := x.regs.migrated (fun i => s.undef booth n (a.uid * 1024 + i)) }
  let own : List Saved := match x.run with | none => [] | some u => [⟨u, x.regs.unwrittenNone, false⟩]
  let sh : List Saved := match x.shadow with
    | .empty => []
    | .arrival a => [arrived a]
    | .displaced a | .spill a => [a]
  own ++ sh ++ (c.arrivals.filter (s.waitsFor key)).map arrived ++
    ((getD s.images (cidOf key * 64 + booth) []).filter (fun m => m.key == key)).map (·.saved)

/-- Whether a parked request waits on a word of a slot's bank. -/
def State.waitedOn (s : State) (key : Nat) : Bool :=
  let a := spad (cidOf key) (8192 * slotOf key)
  s.feWait.any (fun w => a ≤ w.msg.ga && w.msg.ga < a + 8192)

/-- The contexts of a slot move as images to a slot of the new region, with the slot's bank and tags: at once where nothing uses that
slot, else when one of them is read back (R332). A bank without contexts moves, where a slot is unused, if a request waits on its words
(R153). -/
def State.moveSlot (s : State) (booth key : Nat) (r : Region) (new kept : List Nat) : State :=
  let cid := cidOf key
  let s1 := s.flushSlot key
  let cs := s1.contextsOf booth key
  let slot := newSlot r.groups (slotOf key)
  let key2 := s1.destOf booth slot new kept * 16 + slot
  if cs.isEmpty then
    (if s.waitedOn key && s.unused booth key2 then s.putBank key2 (s.bankOf key (spad cid (8192 * slotOf key))) else s)
  else
    let at0 := 2 ^ 129 + (cs.map (·.uid)).headD 0 * 8192
    let b := s1.bankOf key at0
    let s2 := s1.setCore cid { s1.core cid with arrivals := (s1.core cid).arrivals.filter (fun a => !s1.waitsFor key a) }
    let li := cid * 64 + booth
    let s3 := cs.foldl (fun t a => t.drawn booth (((s.thread a.uid).map (·.tenant)).getD 0))
      ({ s2 with images := putD s2.images li ((getD s2.images li []).filter (fun m => m.key != key)) [] }.moveWaits
        (spad cid (8192 * slotOf key)) at0)
    let s4 := s3.setSlot key { s3.slot key with run := none, shadow := .empty }
    let free := s1.unused booth key2
    let s5 := if free then s4.putBank key2 b else s4
    let own (u : Nat) : Option Bank := ((getD s1.images li []).find? (fun m => m.saved.uid == u)).bind (·.bank)
    cs.foldl (fun t a => (t.modThread a.uid (fun y => { y.abandon with key := key2 })).putImage key2 a
      (match own a.uid with
        | some c => some c
        | none => if free then none else some b)) s5

def setOwners (o : Vector (Option Nat) 4) (booth groups : Nat) : Vector (Option Nat) 4 :=
  Vector.ofFn (fun g => if fld groups g.val g.val = 1 then some booth else if o[g] = some booth then none else o[g])

/-- A core that the booth newly reaches: its booth-owned registers and channel table start afresh (R356). -/
def State.reachCore (s : State) (booth cid : Nat) : State :=
  { s.setBc cid booth BoothCore.init with chans := s.chans.filter (fun e => e.1 / 32 != cid * 64 + booth) }

/-- The slots that a booth gives up at a region change on a package: those of the cores that go, and on the cores that stay those of the
groups that go. -/
def State.departing (s : State) (p booth : Nat) (r : Region) : List Nat :=
  (s.coresOn p booth).flatMap (fun c =>
    ((s.groupsOn p booth).filter (fun g => !r.cores.contains c || fld r.groups g g == 0)).flatMap (fun g =>
      (List.range 4).map (fun i => c * 16 + 4 * g + i)))

/-- A request of a thread of the booth that still waits on a word of a bank which goes ends as an access to a bank that the booth does not
own (R24, R140). -/
def State.evict (s : State) (key : Nat) : State :=
  let a := spad (cidOf key) (8192 * slotOf key)
  let here (w : Parked) : Bool := a ≤ w.msg.ga && w.msg.ga < a + 8192
  (s.feWait.filter here).foldl (fun t w =>
    let c := match w.msg.body with
      | .req (.sync op _ _ _) => if op.isLoad then Cause.loadXlate else Cause.storeXlate
      | _ => Cause.storeXlate
    t.replyTrap w.msg c.code (tvV 1 w.msg.va)) { s with feWait := s.feWait.filter (fun w => !here w) }

/-- Slots are scrubbed and return to the free pool, with the near-window mappings of their banks (R142, R356). -/
def State.freeSlots (s : State) (booth : Nat) (keys : List Nat) : State :=
  keys.foldl (fun t k =>
    let t1 := (((t.evict k).clearSlot k booth).dropNear k booth).setSlot k Slot.init
    if slotOf k % 4 = 3 then t1.clearStore (cidOf k) (groupOf k) else t1) s

/-- A receipt of KIND 2 for cores that gave up groups. -/
def resizeReceipt (p booth groups rclass nxlt : Nat) (tenant : Word) (cores : List Nat) : Receipt :=
  let n := 4 * (groupList groups).length * cores.length
  { pkg := p, kind := 2, booth := booth, rseq := 0, rclass := rclass, outT := tenant, inT := tenant, nonce := 0, time := 0, groups := groups
    cores := cores, nbank := n, nslot := n
    nacc := 2048 * (groupList groups).length * (cores.filter (fun c => !isEdge c)).length, ntag := 16 * n, nxlt := nxlt, nblk := 0
    written := false, bytes := [] }

/-- Class 9 for the dies on which the booth gives up its last edge cores (R325). -/
def State.dropNets (s : State) (p booth : Nat) (gone kept : List Nat) : State :=
  ((gone.filter isEdge).foldl (fun l c => insert l (dieOf c)) []).foldl (fun t d =>
    if kept.any (fun c => isEdge c && dieOf c == d) then t else t.clearNet p d booth) s

/-- The region of a booth on a package takes effect: threads and banks of departing slots move, the slots are scrubbed and freed, and the
new cores' groups leave the free pool. -/
def State.applyRegion (s : State) (p booth : Nat) (r : Region) : State :=
  let old := s.coresOn p booth
  let groups := ((s.region p booth).map (·.groups)).getD 0
  let gone := old.filter (fun c => !r.cores.contains c)
  let kept := r.cores.filter old.contains
  let new := r.cores.filter (fun c => !old.contains c)
  let leaving := s.departing p booth r
  let s1 := new.foldl (fun t c => t.reachCore booth c) s
  let s2 := leaving.foldl (fun t k => t.moveSlot booth k r new kept) s1
  let x := ((s2.freeSlots booth leaving).dropNets p booth gone kept).clearBoothCores booth gone
  let s4 := gone.foldl (fun t c =>
    { t.setCore c { t.core c with owners := setOwners (t.core c).owners booth 0 } with
      spillAreas := del t.spillAreas (c * 64 + booth)
      threads := t.threads.map (fun e => if e.2.booth = booth ∧ e.2.job.home = c
        then (e.1, { e.2 with job := { e.2.job with home := cidOf e.2.key } }) else e) }) x.1
  let s5 := r.cores.foldl (fun t c => t.setCore c { t.core c with owners := setOwners (t.core c).owners booth r.groups }) s4
  let s6 := { s5 with regions := put s5.regions (p * 64 + booth) r }.unstitch booth gone.contains
  let net := (gone.filter isEdge).all (fun c => !kept.any (fun k => isEdge k && dieOf k == dieOf c)) && gone.any isEdge
  let s7 := if gone.isEmpty then s6
    else s6.newReceipt p (resizeReceipt p booth groups (0xFF + (if net then 0x200 else 0)) x.2 r.tenant gone)
  let less := (groupList groups).foldl (fun n g => if fld r.groups g g = 0 then n + 2 ^ g else n) 0
  if less = 0 || kept.isEmpty then s7 else s7.newReceipt p (resizeReceipt p booth less 0xB6 0 r.tenant kept)

/-- Whether a departing slot still has work under way or a context on its way to it (R332), or a matrix run of its booth on its core may
still write to its bank (R24). -/
def State.departWaits (s : State) (keys : List Nat) : Bool :=
  keys.any s.saveWaits || keys.any (fun k =>
    let c := s.core (cidOf k)
    (c.mreqs ++ c.mrun.toList).any (fun r => s.slotBooth k == some r.booth)) || s.net.any (fun m => m.body == .context && (match s.thread m.uid with
    | none => false
    | some t => keys.contains t.key))

/-- The regions that a booth has with a change on one package: a change of its groups holds on every package (R31). -/
def State.withRegion (s : State) (p booth : Nat) (r : Region) : List (Nat × Region) :=
  (s.regions.filter (fun e => e.1 % 64 == booth && (e.1 / 64 == p || e.2.groups != r.groups))).map (fun e =>
    (e.1 / 64, if e.1 / 64 = p then r else { e.2 with groups := r.groups }))

/-- RESIZE: at its replay fence the region change is made, and its entry is the booth's last replay fence. A booth without spares is
released by it, and its replay goes on (R330). -/
def State.resize (s : State) (p booth : Nat) : Option State :=
  let b := s.boothPkg p booth
  match b.resize with
  | none => none
  | some (seq, r) =>
    let rs := s.withRegion p booth r
    if (b.exhausted || s.fenceReady p booth seq) && !s.preempts.any (fun q => s.slotIn booth q.key) &&
        !s.departWaits (rs.flatMap (fun e => s.departing e.1 booth e.2)) then
      let s1 := s.setBoothPkg p booth { b with resize := none, frozen := false, exhausted := false }
      let s2 := rs.foldl (fun t e => t.applyRegion e.1 booth e.2) s1
      some (if b.exhausted then
          (s.packagesWith booth).foldl (fun t q => t.setBoothPkg q booth { t.boothPkg q booth with frozen := (t.boothPkg q booth).exhausted })
            (s2.jstate p seq 3)
        else (s2.jstate p seq 3).markFence p booth seq)
    else none

def execResize (pkg booth : Nat) (s : State) : Host.Outcome State Fault Refusal := event "RESIZE" (s.resize pkg booth)

end Sys2Proof.Machine
end

