-- ==== Sys2Proof/Machine/HostSide.lean ====
section
/-! DEFINITION. The host: command windows and their twelve commands, replay, host accesses and interrupt delivery (R211, R330,
R352 to R362). -/

namespace Sys2Proof.Machine
open Bits Tables

/-! ### Command windows (R353) -/

def State.window (s : State) (p b : Nat) : Window := getD (s.pkg p).windows b Window.init
def State.setWindow (s : State) (p b : Nat) (w : Window) : State :=
  s.setPkg p { s.pkg p with windows := put (s.pkg p).windows b w }

/-- An access of the host is still on its way to its home or back. -/
def State.hostFlies (s : State) : Bool :=
  s.net.any (fun m => match m.party, m.body with
    | .host _, .cmdEntry _ _ | .host _, .cmdTail _ => false
    | .host _, _ => true
    | _, _ => false)

/-- An ordered message of the host to a command window, from the adapter that booth 0's owner entry names (R21, R342, R362). -/
def State.hostWrites (s : State) (p window : Nat) (body : Body) : State :=
  let a := wfld (getD (s.pkg p).owners 0 (0, 0)).1 60 48 % 4096
  s.inject { s.newMsg (hostNode a) (pkgNode p) window (2 ^ 64) 0 0 body with party := .host a, pkg := p }

/-- TAIL_WRITE: the host writes entries and then TAIL, once every earlier access of the host has been performed (R360). DESIGN CHOICE (log
entry 71): the accesses of every adapter count as the host's. -/
def State.tailWrite (s : State) (p b : Nat) (es : List (Nat × List Word)) (tail : Word) : Option State :=
  if 48 ≤ b || !s.powered p || s.hostFlies then none
  else some ((es.foldl (fun (t : State) e => t.hostWrites p b (.cmdEntry (e.1 % 64) ((List.range 8).map (fun i => e.2.getD i 0)))) s).hostWrites
    p b (.cmdTail tail))

/-- A written entry reaches its window. -/
def State.entryWritten (s : State) (p b i : Nat) (w : List Word) : State :=
  let x := s.window p b
  s.setWindow p b { x with entries := put x.entries i w }

/-- A write of TAIL reaches its window: a count outside HEAD to HEAD + 64 is ignored and sets OVF; a 1 in bit 32 clears OVF (R353). -/
def State.tailWritten (s : State) (p b : Nat) (tail : Word) : State :=
  let w := s.window p b
  let w1 := { w with ovf := w.ovf && !wbit tail 32 }
  let n := wfld tail 31 0
  s.setWindow p b (if n < w.head || w.head + 64 < n then { w1 with ovf := true } else { w1 with tail := n })

def execTailWrite (pkg booth : Nat) (entries : List (Nat × List Word)) (tail : Word) (s : State) :
    Host.Outcome State Fault Refusal :=
  event "TAIL_WRITE" (s.tailWrite pkg booth entries tail)

/-! ### Commands that set registers and tables -/

/-- The cores that a command names: one core of the booth's region on the package, or all of them (R355). -/
def State.coresNamed (s : State) (p booth : Nat) (w : Word) : Option (List Nat) :=
  if w = 0xFFFFFFFFFFFFFFFF then some (s.coresOn p booth)
  else if wfld w 63 30 = 0 && wfld w 3 0 = 0 && (s.coresOn p booth).contains (wfld w 29 4) then some [wfld w 29 4]
  else none

/-- TRAPVEC (R355). -/
def State.cmdTrapvec (s : State) (p seq booth : Nat) (w : List Word) : Option State :=
  match s.coresNamed p booth (dw w 2) with
  | none => none
  | some cs =>
    if wfld (dw w 3) 63 48 ≠ 0 || wfld (dw w 3) 2 0 ≠ 0 then none
    else some ((cs.foldl (fun t c => t.setBc c booth { t.bc c booth with tvec := dw w 3 }) s).jstate p seq 3)

/-- LIMITS (R355). -/
def State.cmdLimits (s : State) (p seq booth : Nat) (w : List Word) : Option State :=
  match s.coresNamed p booth (dw w 2) with
  | none => none
  | some cs =>
    if [3, 4, 5, 6].any (fun i => wfld (dw w i) 63 32 ≠ 0) then none
    else some ((cs.foldl (fun t c => t.setBc c booth { t.bc c booth with
      feretry := dw w 3, fewait := dw w 4, agewait := dw w 5, sndlim := dw w 6 }) s).jstate p seq 3)

/-- WATCH (R211). -/
def State.cmdWatch (s : State) (p seq booth : Nat) (w : List Word) : Option State :=
  let a := dw w 3
  let b := dw w 4
  if 16 ≤ (dw w 2).toNat || wfld a 62 48 ≠ 0 || wfld a 15 0 ≠ 0 || wfld b 63 48 ≠ 0 || wfld b 15 4 ≠ 0 then none
  else some ({ s with watch := put s.watch (p * 1024 + booth * 16 + (dw w 2).toNat) (a, b) }.jstate p seq 3)

/-- OWNER (R362): the booth that w2 names. NODE and LOGK stand in booth 0's entry only. -/
def State.cmdOwner (s : State) (p seq : Nat) (w : List Word) : Option State :=
  let b := (dw w 2).toNat
  let e := dw w 3
  if 48 ≤ b || wfld e 62 61 ≠ 0 || wfld e 43 32 ≠ 0 || (b ≠ 0 && (wfld e 60 48 ≠ 0 || wfld e 47 44 ≠ 0)) then none
  else some ((s.setPkg p { s.pkg p with owners := put (s.pkg p).owners b (e, dw w 4) }).jstate p seq 3)

/-- GANG (R359): in force from the next gang tick. -/
def State.cmdGang (s : State) (p seq booth : Nat) (w : List Word) : Option State :=
  let t := (dw w 2).toNat
  let d := (dw w 3).toNat
  if t < 2 ^ 12 || 2 ^ 32 < t || d < 2 ^ 10 || t ≤ d then none
  else some ({ s with gangs := put s.gangs (p * 64 + booth) { s.gang p booth with next := some (t, d, s.cycle) } }.jstate p seq 3)

/-- FENCE (R328): its entry waits to become a replay fence. -/
def State.cmdFence (s : State) : Option State := some s

/-! ### Room in a core's DRAM bank (R318, R356, R358) -/

/-- Whether n bytes from a global address meet a page of home DRAM, a spill area or a ring of the package. -/
def State.taken (s : State) (p ga n : Nat) : Bool :=
  s.maps.any (fun e => e.1 / 64 == p && e.2.any (fun q => q.kind == 0 && rangesMeet q.base q.size ga n)) ||
  s.spillAreas.any (fun e => rangesMeet e.2 65536 ga n) ||
  s.rings.any (fun e => rangesMeet e.2.base (32 * 2 ^ e.2.k) ga n)

/-- The highest free place for n bytes in the bank that serves a core, in steps of 64 KiB. -/
def State.findRoom (s : State) (cid n : Nat) : Option Nat :=
  let base := phys (pkgOf cid) (bankPhys cid)
  let units := ceilDiv n 65536
  if 192 < units then none
  else
    (((List.range (193 - units)).reverse).find? (fun j => !s.taken (pkgOf cid) (base + 65536 * j) (65536 * units))).map
      (fun j => base + 65536 * j)

/-- LOGRING on one core: a ring present is released, and a new one is written with zeroes under the booth's key. DEDUCED (log entry 72):
its first entry has SEQ 1 and makes the written count 1, since R213 counts the entries written. -/
def State.setRing (s : State) (booth k cid : Nat) : Option State :=
  let s1 := { s with rings := del s.rings (cid * 64 + booth) }
  if k = 0 then some s1
  else
    match s1.findRoom cid (32 * 2 ^ k) with
    | none => none
    | some ga =>
      let n := 32 * 2 ^ k
      let key := s1.boothKey (pkgOf cid) booth
      some { s1.modMem (fun m => (m.underAll ga key true (blocksOf ga n)).zero ga n) with rings := put s1.rings (cid * 64 + booth) ⟨ga, k, 1, 0⟩ }

/-- LOGRING (R358). -/
def State.cmdLogring (s : State) (p seq booth : Nat) (w : List Word) : Option State :=
  let k := wfld (dw w 3) 4 0
  match s.coresNamed p booth (dw w 2) with
  | none => none
  | some cs =>
    if wfld (dw w 3) 63 5 ≠ 0 || (k ≠ 0 && (k < 6 || 20 < k)) then none
    else (cs.foldl (fun o c => o.bind (fun t => t.setRing booth k c)) (some s)).map (fun t => t.jstate p seq 3)

/-! ### REGION (R356) -/

/-- Spill areas are reserved on newly reached cores. -/
def State.reserve (s : State) (booth : Nat) (cs : List Nat) : Option State :=
  cs.foldl (fun o c => o.bind (fun t =>
    match t.findRoom c 65536 with
    | none => none
    | some ga => some { t with spillAreas := put t.spillAreas (c * 64 + booth) ga })) (some s)

/-- The region that a descriptor describes, if it passes the dispatcher's checks. DESIGN CHOICE (log entry 73): R31 wants the same groups
on every core of a region. A booth's first region on a package names the groups that it has on others; a later one changes them there
too, so the groups must be free everywhere. -/
def State.readRegion (s : State) (p booth : Nat) (va : Word) : Option Region :=
  if va.toNat % 32 ≠ 0 || wfld va 63 48 ≠ 0 then none
  else
    match s.mgmtWords p va.toNat 4 with
    | none => none
    | some d =>
      let g (i : Nat) : Word := d.getD i 0
      let nent := wfld (g 0) 31 0
      if wfld (g 0) 63 56 ≠ 1 || wfld (g 0) 55 32 ≠ 0 || wfld (g 2) 63 12 ≠ 0 || wfld (g 2) 7 6 ≠ 0 || g 3 ≠ 0 ||
          nent = 0 || 8448 < nent then none
      else
        match s.mgmtWords p (va.toNat + 32) nent with
        | none => none
        | some es =>
          let cores := es.map (fun w => wfld w 29 4)
          let groups := wfld (g 2) 11 8
          let free (c : Nat) : Bool := (groupList groups).all (fun k =>
            match ((s.core c).owners.toList[k]?).join with
            | none => true
            | some b => b == booth)
          let same := (s.region p booth).isSome || s.regions.all (fun e => e.1 % 64 != booth || e.2.groups == groups)
          if es.all coreEntryOk && same && (s.regionCores booth).all free && cores.all (fun c => isCore c && pkgOf c == p) && (cores.foldl insert []).length == nent &&
              cores.all free && s.regions.all (fun e => e.1 % 64 != booth || e.2.tenant == g 1) &&
              s.keyLoaded p (wfld (g 2) 5 0) then
            some ⟨g 1, groups, wfld (g 2) 5 0, cores.foldl insert []⟩
          else none

/-- REGION: the first region takes effect at once, a change waits for its replay fence. -/
def State.cmdRegion (s : State) (p seq booth : Nat) (w : List Word) : Option State :=
  match s.readRegion p booth (dw w 1) with
  | none => none
  | some r =>
    let old := s.coresOn p booth
    match s.reserve booth (r.cores.filter (fun c => !old.contains c)) with
    | none => none
    | some t =>
      match s.region p booth with
      | none => some ((t.applyRegion p booth r).jstate p seq 3)
      | some _ => some (t.setBoothPkg p booth { t.boothPkg p booth with resize := some (seq, r) })

/-! ### MAP (R120, R357) -/

/-- The page that an entry maps, if its fields are right for its kind. -/
def State.newPage (s : State) (p booth : Nat) (w0 w1 w2 : Word) : Option Page :=
  let code := wfld w0 49 48
  let size := pageBytes code
  let va := wfld w0 47 16 * 65536
  let kind := wfld w2 7 6
  let pg (base home half : Nat) : Page :=
    { va := va, size := size, base := base, home := home, kind := kind, half := half, key := wfld w2 13 8,
      aged := wbit w2 5, sup := wbit w2 4, ex := wbit w2 3, wr := wbit w2 2, rd := wbit w2 1 }
  let pa := w1.toNat
  if code = 3 || va % size ≠ 0 || wfld w1 63 52 ≠ 0 || wfld w2 63 14 ≠ 0 || wbit w2 0 || !s.keyLoaded p (wfld w2 13 8) then none
  else
    match kind with
    | 0 =>
      if wfld w1 51 37 ≠ 0 || 1 < code || pa % size ≠ 0 || 0xC00000 < wfld w1 23 0 + size then none
      else some (pg (phys p pa) (dramHome p pa) 0)
    | 1 =>
      if wfld w1 51 49 ≠ 1 || wfld w1 48 47 ≠ 0 || pa % size ≠ 0 || wbit w2 5 then none
      else some (pg (phys p pa) (cxlHome p pa) 0)
    | 2 =>
      let c := wfld w1 29 4
      let half := wfld w1 32 32
      if code ≠ 0 || wfld w1 51 33 ≠ 0 || wfld w1 31 30 ≠ 0 || wfld w1 3 0 ≠ 0 || wbit w2 5 || !isCore c ||
          !((List.range 8).any (fun i => s.ownsOff c booth (half * 65536 + 8192 * i))) then none
      else some (pg (spad c (65536 * half)) c half)
    | _ => none

/-- One entry acts on the booth's page list: the list, or none for CMD_INVALID. -/
def State.mapEntry (s : State) (p booth : Nat) (pages : List Page) (e : List Word) : Option (List Page) :=
  let w0 := dw e 0
  let va := wfld w0 47 16 * 65536
  if wfld w0 62 50 ≠ 0 || wfld w0 15 0 ≠ 0 || dw e 3 ≠ 0 || wfld w0 49 48 = 3 then none
  else if wbit w0 63 then
    (if dw e 1 = 0 && dw e 2 = 0 && pages.any (fun q => q.va == va && q.size == pageBytes (wfld w0 49 48)) then
      some (pages.filter (fun q => q.va != va)) else none)
  else
    match s.newPage p booth w0 (dw e 1) (dw e 2) with
    | none => none
    | some q =>
      if pages.any (fun o => rangesMeet o.va o.size q.va q.size) ||
          (q.kind == 0 && (s.spillAreas.any (fun e => rangesMeet e.2 65536 q.base q.size) ||
            s.rings.any (fun e => rangesMeet e.2.base (32 * 2 ^ e.2.k) q.base q.size))) then none
      else some (pages ++ [q])

def State.mapEntries (s : State) (p booth : Nat) : Nat → List Word → List Page → Option (List Page)
  | 0, _, pages => some pages
  | n + 1, ws, pages =>
    match s.mapEntry p booth pages (ws.take 4) with
    | none => none
    | some ps => s.mapEntries p booth n (ws.drop 4) ps

/-- The words of a page are empty (R144). -/
def Memory.emptyWords (m : Memory) (a n : Nat) : Memory := { m with full := m.full.filter (fun c => c < a || a + n ≤ c) }

/-- Translations of a booth that are no longer mapped are invalidated on its package's cores (R120). -/
def State.invalidate (s : State) (p booth : Nat) (pages : List Page) : State :=
  let keep (l : List (Nat × Page)) : List (Nat × Page) := l.filter (fun t => t.1 != booth || pages.contains t.2)
  { s with
    cores := s.cores.map (fun (e : Nat × Core) => if pkgOf e.1 = p then (e.1, { e.2 with tlb := keep e.2.tlb }) else e)
    l2 := s.l2.map (fun (e : Nat × List (Nat × Page)) => if pkgOf (e.1 * 16) = p then (e.1, keep e.2) else e) }

/-- The pages of a list's result that one of its entries mapped, also where the same page had been mapped before the list. -/
def newlyMapped (n : Nat) (ws : List Word) (ps : List Page) : List Page :=
  ps.filter (fun q => (List.range n).any (fun i => !wbit (dw ws (4 * i)) 63 && wfld (dw ws (4 * i)) 47 16 * 65536 == q.va))

/-- The words of a newly mapped page start empty: those of DRAM, and, of a near window, those of the banks that the booth owns (R144).
CXL memory has no such bits. -/
def State.emptyPage (s : State) (booth : Nat) (q : Page) : State :=
  let empty (t : State) (a n : Nat) : State := (t.modMem (fun m => m.emptyWords a n)).walkCleared a n
  match q.kind with
  | 0 => empty s q.base q.size
  | 2 =>
    (List.range 8).foldl (fun t i =>
      if s.ownsOff q.home booth (q.half * 65536 + 8192 * i) then empty t (q.base + 8192 * i) 8192 else t) s
  | _ => s

/-- MAP. -/
def State.cmdMap (s : State) (p seq booth : Nat) (w : List Word) : Option State :=
  let va := dw w 1
  let n := (dw w 2).toNat
  if va.toNat % 32 ≠ 0 || wfld va 63 48 ≠ 0 || n = 0 || 4096 < n then none
  else
    match s.mgmtWords p va.toNat (4 * n) with
    | none => none
    | some ws =>
      match s.mapEntries p booth n ws (s.pagesOf p booth) with
      | none => none
      | some ps =>
        let s1 := (newlyMapped n ws ps).foldl (fun t q => t.emptyPage booth q) s
        some (({ s1 with maps := put s1.maps (p * 64 + booth) ps }.invalidate p booth ps).jstate p seq 3)

/-! ### HANDOVER and TEARDOWN -/

def State.cmdHandover (s : State) (p seq booth : Nat) (w : List Word) : Option State := s.startHandover p booth seq (dw w 1)
/-- TEARDOWN: the threads stop; the scrub comes when their accesses have been performed. A booth without a region has nothing to end. -/
def State.cmdTeardown (s : State) (p seq booth : Nat) : Option State :=
  some (if (s.packagesWith booth).isEmpty then s.jstate p seq 3 else s.teardown p booth seq)

/-! ### Reading a window (R353, R354) -/

def cmdOp (w : List Word) : Nat := wfld (dw w 0) 63 56
def cmdBooth (w : List Word) : Nat := wfld (dw w 0) 55 48

/-- The record address of LAUNCH; one beyond the address space is misaligned for LAUNCH_FETCH. -/
def cmdRecord (w : List Word) : Nat := if wfld (dw w 1) 63 48 = 0 then (dw w 1).toNat else 1

/-- Runs a command other than LAUNCH; none for CMD_INVALID. -/
def State.runCommand (s : State) (p seq : Nat) (w : List Word) : Option State :=
  let b := cmdBooth w
  match cmdOp w with
  | 2 => s.cmdFence
  | 3 => s.cmdHandover p seq b w
  | 4 => s.cmdTeardown p seq b
  | 5 => s.cmdWatch p seq b w
  | 6 => s.cmdOwner p seq w
  | 7 => s.cmdLimits p seq b w
  | 8 => s.cmdTrapvec p seq b w
  | 9 => s.cmdRegion p seq b w
  | 10 => s.cmdMap p seq b w
  | 11 => s.cmdLogring p seq b w
  | 12 => s.cmdGang p seq b w
  | _ => none

/-- The kind with which an entry is rejected before its operands are looked at: CMD_INVALID, then CMD_PRIV. -/
def entryKind (window : Nat) (w : List Word) : Nat :=
  if cmdOp w = 0 || 12 < cmdOp w || wfld (dw w 0) 47 32 ≠ 0 || 48 ≤ cmdBooth w || (window ≠ 0 && cmdBooth w ≠ window) then 7
  else if window ≠ 0 && 3 ≤ cmdOp w then 8
  else 0

/-- SHA-256 of a command entry (R392). -/
def entryDigest (w : List Word) : List Word :=
  wordsOf 4 (sha256 (w.flatMap (fun x => bytesOf 8 x.toNat)))

/-- The booth of an entry's journal entry, 0 to 47 (R392): the window's own, or for window 0 the one named. An entry of
another window that names a foreign booth stands under its own (DEDUCED: nothing of it may reach another tenant). -/
def entryBooth (window : Nat) (w : List Word) : Nat :=
  if window ≠ 0 then window else if cmdBooth w < 48 then cmdBooth w else 0

def entryOf (window : Nat) (w : List Word) (cycle kind seq : Nat) : JEntry :=
  { seq := seq, state := if kind = 0 then 0 else 1, booth := entryBooth window w, kind := kind, origin := 0, rpl := 0
    tag := BitVec.ofNat 64 (wfld (dw w 0) 31 0), time := cycle, digest := entryDigest w, cmd := w, parent := 0
    fence := kind == 0 && cmdOp w == 2 }

/-- What a command waits for: a teardown under way; the booth's replay, but for a TEARDOWN and for the REGION that releases a booth without
spares (R330); and, for HANDOVER, TEARDOWN and REGION, a handover or resize under way, which is never abandoned (R335). -/
def State.commandWaits (s : State) (p : Nat) (w : List Word) : Bool :=
  let b := s.boothPkg p (cmdBooth w)
  let lifts (q : Nat) : Bool := q == 4 || (q == 9 && b.exhausted)
  b.tearing.isSome || (!lifts (cmdOp w) && (!b.toReplay.isEmpty || b.reset)) ||
    ((cmdOp w == 3 || cmdOp w == 9) && b.resize.isSome) ||
    ((cmdOp w == 3 || cmdOp w == 4 || cmdOp w == 9) && s.handovers.any (fun e => e.2.booth == cmdBooth w && (cmdOp w == 4 || e.2.pkg == p)))

/-- The device reads the window's next entry, if it is a command of the kind wanted: journal, HEAD, and the command. -/
def State.readWindow (s : State) (p window : Nat) (mine : Nat → Bool) : Option State :=
  let win := s.window p window
  if 48 ≤ window || !s.powered p || win.tail ≤ win.head || s.journalFull p then none
  else
    let w := getD win.entries (win.head % 64) (List.replicate 8 0)
    if !mine (cmdOp w) then none
    else
      let kind := entryKind window w
      if kind = 0 && s.commandWaits p w then none
      else
        let s1 := s.setWindow p window { win with head := win.head + 1 }
        if kind ≠ 0 then some (s1.journal p (entryOf window w s.cycle kind))
        else if cmdOp w = 1 then
          some (s1.submit p (cmdBooth w) (cmdRecord w) true false
            (BitVec.ofNat 64 (wfld (dw w 0) 31 0)) 0 w (entryDigest w)).1
        else
          match (s1.journal p (entryOf window w s.cycle 0)).runCommand p (s1.pkg p).jseq w with
          | some t => some t
          | none => some (s1.journal p (entryOf window w s.cycle 7))

/-- LAUNCH, and entries of no command code. -/
def execHostLaunch (pkg window : Nat) (s : State) : Host.Outcome State Fault Refusal :=
  event "HOST_LAUNCH" (s.readWindow pkg window (fun op => op ≤ 1 || 12 < op))
def execHostFence (pkg window : Nat) (s : State) : Host.Outcome State Fault Refusal :=
  event "HOST_FENCE" (s.readWindow pkg window (· == 2))
def execHandover (pkg window : Nat) (s : State) : Host.Outcome State Fault Refusal :=
  event "HANDOVER" (s.readWindow pkg window (· == 3))
/-- TEARDOWN is read from a window; its second step, the scrub, is the same event for the booth's own window. -/
def execTeardown (pkg window : Nat) (s : State) : Host.Outcome State Fault Refusal :=
  event "TEARDOWN" (match s.tornDown window with
    | some t => some t
    | none => s.readWindow pkg window (· == 4))
def execWatch (pkg window : Nat) (s : State) : Host.Outcome State Fault Refusal :=
  event "WATCH" (s.readWindow pkg window (· == 5))
def execOwner (pkg window : Nat) (s : State) : Host.Outcome State Fault Refusal :=
  event "OWNER" (s.readWindow pkg window (· == 6))
def execLimits (pkg window : Nat) (s : State) : Host.Outcome State Fault Refusal :=
  event "LIMITS" (s.readWindow pkg window (· == 7))
def execTrapvec (pkg window : Nat) (s : State) : Host.Outcome State Fault Refusal :=
  event "TRAPVEC" (s.readWindow pkg window (· == 8))
def execRegion (pkg window : Nat) (s : State) : Host.Outcome State Fault Refusal :=
  event "REGION" (s.readWindow pkg window (· == 9))
def execMap (pkg window : Nat) (s : State) : Host.Outcome State Fault Refusal :=
  event "MAP" (s.readWindow pkg window (· == 10))
def execLogring (pkg window : Nat) (s : State) : Host.Outcome State Fault Refusal :=
  event "LOGRING" (s.readWindow pkg window (· == 11))
def execGang (pkg window : Nat) (s : State) : Host.Outcome State Fault Refusal :=
  event "GANG" (s.readWindow pkg window (· == 12))

/-! ### REPLAY (R330 step 5, R393) -/

/-- A replayed entry returns to accepted with its replay count raised by one, or is rejected, which raises an interrupt (R393). -/
def State.reaccept (s : State) (p seq kind : Nat) : State :=
  match find (s.pkg p).journal seq with
  | none => s
  | some e =>
    let s1 := s.setPkg p { s.pkg p with
      journal := put (s.pkg p).journal seq
        { e with state := if kind = 0 then 0 else 1, kind := kind, rpl := e.rpl + 1, time := s.cycle } }
    if kind = 0 then s1 else s1.raise p (pkgNode p) e.booth 1 0 (BitVec.ofNat 64 seq) 0 0

/-- Executes one journalled command again. -/
def State.replayOne (s : State) (p booth seq : Nat) : State :=
  match find (s.pkg p).journal seq with
  | none => s
  | some e =>
    if cmdOp e.cmd = 1 then
      let va := cmdRecord e.cmd
      let raw := s.recordAt p booth va true
      let kind := s.launchKind p booth va true raw
      let s1 := s.reaccept p seq kind
      if kind = 0 then s1.enqueueLaunch p booth seq true false (raw.getD []) else s1
    else
      match (s.reaccept p seq 0).runCommand p seq e.cmd with
      | some t => t
      | none => s.reaccept p seq 7

/-- REPLAY: the next command of the list, on the first package that has one. -/
def State.replayNext (s : State) (booth : Nat) : Option State :=
  match (s.packagesWith booth).find? (fun p => !(s.boothPkg p booth).toReplay.isEmpty && !(s.boothPkg p booth).frozen) with
  | none => none
  | some p =>
    let b := s.boothPkg p booth
    some ((s.setBoothPkg p booth { b with toReplay := b.toReplay.tail }).replayOne p booth (b.toReplay.headD 0))

def execReplay (booth : Nat) (s : State) : Host.Outcome State Fault Refusal := event "REPLAY" (s.replayNext booth)

/-! ### HOST_ACCESS (R352, R212) -/

/-- Whether a page takes a host access: natural alignment, the page's permission, and of a near window only a store to a bank that the
booth owns (R142). DESIGN CHOICE (log entry 10): the host has supervisor mode's permissions, as R294 gives its commands. -/
def State.hostMay (s : State) (q : Page) (booth va n : Nat) (store : Bool) : Bool :=
  va % n == 0 && (if store then q.wr else q.rd) &&
    (q.kind != 2 || (store && s.ownsOff q.home booth (q.half * 65536 + (va - q.va))))

/-- A host adapter loads or stores at a booth's virtual address, under that booth's translation: an ordered message to the home. An access
to a booth that management has not granted to the adapter, or that its page does not allow, is refused: nothing happens. -/
def execHostAccess (adapter booth pkg : Nat) (va : BitVec 48) (sz : Size) (store : Option Word) (s : State) :
    Host.Outcome State Fault Refusal :=
  if !s.grants.contains (adapter * 64 + booth) then .next s
  else
    match s.pageFor pkg booth va.toNat with
    | none => .fault .hostUnmapped
    | some q =>
      let n := Size.bytes sz
      if s.hostMay q booth va.toNat n store.isSome then
        let r : Req := match store with
          | none => .load n false
          | some w => .store n (w.toNat % 2 ^ (8 * n))
        .next (s.inject { s.newMsg (hostNode adapter) q.home booth (2 ^ 64) 0 0 (.req r) with
          party := .host adapter, pkg := pkg, va := va.toNat, ga := q.base + (va.toNat - q.va)
          posted := store.isSome, ack := store.isSome })
      else .next s

/-! ### INTERRUPT_DELIVERY (R361) -/

/-- The adapter writes the n-th message, once it has come, if no earlier interrupt of the same booth is on its way, into the next place of
the ring at the address that booth 0 has registered, and the posting thread goes on (R304). -/
def State.deliverIrq (s : State) (n : Nat) : Option State :=
  match s.arrived n with
  | none => none
  | some m =>
    match m.body with
    | .irq ws =>
      let earlier := s.net.any (fun x => x.booth == m.booth && x.mid < m.mid && (match x.body with | .irq _ => true | _ => false))
      if earlier then none
      else
        let p := m.pkg
        let k := s.pkg p
        let place := k.irqCount % 2 ^ (wfld (getD k.owners 0 (0, 0)).1 47 44 + 6)
        let s1 := (s.dropMsg n).setPkg p { k with irqCount := k.irqCount + 1 }
        let o := getD k.owners 0 (0, 0)
        let s2 := { s1 with hostRing := put s1.hostRing (wfld o.1 60 48 * 2 ^ 64 + o.2.toNat + 32 * place) ws }
        match s2.thread m.uid with
        | none => some s2
        | some t => some (if t.wait == .dispatcher m.mid then s2.finish m.uid else s2)
    | _ => none

def execInterruptDelivery (n : Nat) (s : State) : Host.Outcome State Fault Refusal :=
  event "INTERRUPT_DELIVERY" (s.deliverIrq n)

end Sys2Proof.Machine
end

