-- ==== Sys2Proof/Machine/Fabric.lean ====
section
/-! DEFINITION. The switches of the fabric: buffers and queues, forwarding, combining in flight, abort tails, lost units, and the lanes of
the package switch (R329, R339 to R351, R400). -/

namespace Sys2Proof.Machine
open Bits Tables

/-! ### Queues and buffers (R341, R342, R345) -/

def Msg.flits (m : Msg) : Nat := m.body.flits

/-- Flits of a channel among the messages that meet a test. -/
def State.flitsOf (s : State) (f : Msg → Bool) (chan : Nat) : Nat :=
  s.net.foldl (fun n m => if f m && m.chan == chan then n + m.flits else n) 0

/-- Whether a switch input has room for a message: each channel's first 17 flits stand in its reserve, what goes beyond in the shared
rest of the buffer (R342). -/
def State.inputRoom (s : State) (link chan flits : Nat) : Bool :=
  let excess (c : Nat) : Nat := s.flitsOf (fun m => m.inp == link && m.done != 0) c + (if c = chan then flits else 0) - 17
  excess 0 + excess 1 + excess 2 + excess 3 + excess 4 ≤ s.bufFlits - 85

/-- Whether a message may leave the queue in which it waits: its link carries traffic, and its route-table entry is not held (R348,
R351). `next` is the switch that the queue feeds. -/
def State.mayLeave (s : State) (m : Msg) (next : Nat) : Bool :=
  let sw := queueSwitch m.que
  if m.done = 0 then true
  else if isUp m.que then
    (s.upPorts sw).contains (queuePort m.que) && s.carries sw (queuePort m.que) &&
      !(m.chan == 0 && (s.switch sw).draining.contains (tableIndex m.dst))
  else (s.upPorts next).any (s.carries next)

/-- The up-port of a switch that has the most free buffer space in a channel, the lowest first (R340). -/
def State.freestUp (s : State) (sw chan : Nat) : Option Nat :=
  ((s.upPorts sw).foldl (fun (b : Option (Nat × Nat)) p =>
    if !s.carries sw p then b
    else
      let u := s.flitsOf (fun m => m.que == queueNo sw p) chan
      match b with
      | none => some (p, u)
      | some x => if u < x.2 then some (p, u) else b) none).map Prod.fst

/-- The output queue that a message takes at the switch `sw` of its route, before the switch `next` or its node. -/
def State.outQueue (s : State) (m : Msg) (sw : Nat) (next : Option Nat) : Option Nat :=
  match next with
  | none =>
    let unit := if m.chan = 2 then sourceUnit m.party false m.ga else if isCxl m.ga then 3 else 0
    some (queueNo sw (nodePort m.dst unit))
  | some v =>
    if levelNo v < levelNo sw then some (queueNo sw (downPort v))
    else if m.chan = 0 then (s.tableEntry sw (tableIndex m.dst)).map (queueNo sw)
    else (s.freestUp sw m.chan).map (queueNo sw)

/-! ### Combining (R346, R347) -/

/-- The ports of a switch, numbered in the order of R339's down ports and the up-ports last: cores 0 to 15, the copy engine 16, the network
engine 17, the CXL bridge 18; children by their place, host adapters after the packages, and what comes from above behind them all.
DESIGN CHOICE (log entry 41): the spec numbers no ports. -/
def abovePort : Nat := 2 ^ 20

/-- The input port on which a message reaches the switch after `done` others (R347); `unit` is what its source is there. -/
def State.inputPort (s : State) (src dst unit done : Nat) : Nat :=
  let r := s.route src dst
  if done = 0 then (if src < 2 ^ 32 then (if unit = 0 then coreOf src else 15 + unit) else 2 ^ 16 + nodeAddr src)
  else
    let w := (r[done - 1]?).getD 0
    let v := (r[done]?).getD 0
    if levelNo v < levelNo w then abovePort
    else match levelNo v with
      | 1 => cluOf src % 16 % 4 + 4 * (cluOf src / 16 % 4)
      | 2 => if isEdge src then 8 + cluOf src else quadOf src
      | 3 => dieOf src
      | _ => placeNo w

/-- Gives every member of a run the input port on which the run reaches the switch. -/
def Msg.onPort (m : Msg) (port : Nat) : Msg :=
  match m.body with
  | .req (.amo op n ms) => { m with body := .req (.amo op n (ms.map (fun x => { x with port := port }))) }
  | _ => m

/-- The member kept, then those of its run before and after it, by input port, lowest first, and then by arrival. -/
def byPort (x : Member) : List Member → List Member
  | [] => [x]
  | y :: t => if y.port ≤ x.port then y :: byPort x t else x :: y :: t

/-- Two runs joined, if they may be (R346). -/
def joined (j m : Msg) : Option Msg :=
  match j.body, m.body with
  | .req (.amo .add n xs), .req (.amo .add n' ys) =>
    if j.booth = m.booth ∧ j.va = m.va ∧ n = n' ∧ j.chan = m.chan ∧ j.dst = m.dst ∧ xs.length + ys.length ≤ 16 ∧ !j.cut then
      some { j with body := .req (.amo .add n (ys.foldl (fun l y => byPort y l) xs)), mark := j.mark || m.mark }
    else none
  | _, _ => none

/-- A message enters its output queue: it joins the earliest request there that takes it, unless a message of its source to its home
stands between them, and else it goes last. -/
def joinQueue (m : Msg) : List Msg → List Msg
  | [] => [m]
  | j :: l =>
    if j.que = m.que && !l.any (fun x => x.que == m.que && x.dst == m.dst && m.sources.any x.sources.contains) then
      match joined j m with
      | some r => r :: l
      | none => j :: joinQueue m l
    else j :: joinQueue m l

/-- A combined reply goes no further than the switch at which the ways to its members part. -/
def State.shared (s : State) (m : Msg) : Bool :=
  match m.body with
  | .combReply _ ms _ => ms.all (fun x => x.posted || (s.route m.src x.src)[m.done]? == (s.route m.src m.dst)[m.done]?)
  | _ => true

/-! ### SWITCH_FORWARD (R340, R342, R343, R345) -/

/-- Whether a switch is a package switch at which an ordered message turns up for the first time: its table stands from then on. -/
def State.tableUsed (s : State) (m : Msg) (sw : Nat) (next : Option Nat) : State :=
  if m.chan = 0 && levelNo sw = 3 && next.any (fun v => 3 < levelNo v) && (s.switch sw).routes.isEmpty then s.fixTable sw else s

/-- What a dispatcher, a channel's core or a command window does with a message that has come (R21, R299, R353). -/
def State.accept (s : State) (m : Msg) : Option State :=
  match m.body with
  | .ask (.spawn p) => some (s.spawnAsked m p)
  | .ask (.launch va sup parent) => s.launchAsked m va sup parent
  | .ask (.chan n set y) => some (s.chanAsked m n set y)
  | .cmdEntry i w => some (s.entryWritten (nodeAddr m.dst) m.booth i w)
  | .cmdTail w => some (s.tailWritten (nodeAddr m.dst) m.booth w)
  | _ => none

/-- What a message's source is at its switch. -/
def Msg.unit (m : Msg) : Nat := sourceUnit m.party (m.chan == 2) m.ga

/-- The n-th message passes the next switch of its route and enters an output queue there, marked if the queue is more than three
quarters full; one for a dispatcher, a channel table or a command window reaches it from its last queue. Messages of the ordered channel,
and those of one injection queue, leave in order. -/
def State.forward (s : State) (n : Nat) : Option State :=
  match s.net[n]? with
  | none => none
  | some m =>
    let r := s.route m.src m.dst
    if m.left = 0 then (s.arrived n).bind (s.dropMsg n).accept
    else match r[m.done]? with
    | none => none
    | some sw =>
      if m.cut || ((m.done == 0 || m.chan == 0) && s.behind n m) || !s.mayLeave m sw || !s.shared m ||
          !s.inputRoom m.que m.chan m.flits then none
      else
        let next := r[m.done + 1]?
        let t := s.tableUsed m sw next
        (t.outQueue m sw next).map (fun q =>
          let full := 3 * s.queueFlits < 4 * s.flitsOf (fun x => x.que == q) m.chan
          let m1 := { m.onPort (s.inputPort m.src m.dst m.unit m.done) with
            done := m.done + 1, left := m.left - 1, que := q, inp := m.que, since := s.cycle, mark := m.mark || full }
          { t with net := joinQueue m1 (dropAt s.net n) })

/-- Each waited-for member with the sum of the operands before it (R347). -/
def memberReplies (sum : Nat) : List Member → List (Member × Nat)
  | [] => []
  | x :: xs => (if x.posted then [] else [(x, sum)]) ++ memberReplies (sum + x.operand) xs

/-- A combined reply at a switch becomes the members' own replies (R347). -/
def State.split (s : State) (n : Nat) : Option State :=
  match s.net[n]? with
  | none => none
  | some m =>
    match m.body with
    | .combReply k ms old =>
      if m.done = 0 || m.cut then none
      else
        let sw := ((s.route m.src m.dst)[m.done - 1]?).getD 0
        let one (x : Member × Nat) : Msg :=
          let y := { m with
            dst := x.1.src, mid := x.1.mid, uid := x.1.uid, tid := x.1.tid, d := x.1.d, posted := false, ack := false
            left := s.hops m.src x.1.src - m.done
            body := .reply (Answer.value (BitVec.ofNat 64 ((old + x.2) % 2 ^ (8 * k)))) }
          { y with que := (s.outQueue y sw ((s.route y.src y.dst)[m.done]?)).getD m.que }
        some { s with net := s.net.take n ++ (memberReplies 0 ms).map one ++ s.net.drop (n + 1) }
    | _ => none

/-- A message whose tail is lost ends with an abort tail 1,024 cycles after its header passed, and the nodes beyond discard it (R343). -/
def State.abort (s : State) (n : Nat) : Option State :=
  match s.net[n]? with
  | none => none
  | some m => if m.cut && m.since + 1024 ≤ s.cycle then some (s.dropMsg n) else none

/-- Where in a list of messages the k-th, counted from 0, of those in one queue and channel stands. -/
def waitingAt (que chan : Nat) : List Msg → Nat → Option Nat
  | [], _ => none
  | m :: l, k =>
    if m.que = que && m.chan = chan then
      match k with
      | 0 => some 0
      | i + 1 => (waitingAt que chan l i).map (· + 1)
    else (waitingAt que chan l k).map (· + 1)

/-- SWITCH_FORWARD: the k-th message of a queue and channel is forwarded. -/
def State.forwardFrom (s : State) (que chan k : Nat) : Option State := (waitingAt que chan s.net k).bind s.forward

def execSwitchForward (que chan k : Nat) (s : State) : Host.Outcome State Fault Refusal :=
  event "SWITCH_FORWARD" (s.forwardFrom que chan k)
def execCombinedReplySplit (n : Nat) (s : State) : Host.Outcome State Fault Refusal :=
  event "COMBINED_REPLY_SPLIT" (s.split n)
def execAbortTail (n : Nat) (s : State) : Host.Outcome State Fault Refusal := event "ABORT_TAIL" (s.abort n)

/-! ### Lost up-ports (R349, R351) -/

/-- The next live port after one, wrapping round. -/
def nextLive (live : List Nat) (port : Nat) : Option Nat :=
  match live.find? (fun q => port < q) with
  | some q => some q
  | none => live.head?

/-- Whether a node lies below a switch. -/
def State.below (s : State) (sw n : Nat) : Bool := (s.chain n (levelNo sw)).contains sw

/-- Booths that have no route left when a switch has no live up-port: two cores, or a core and a host adapter that they serve, stand on
different sides of it (R349). -/
def State.cutOff (s : State) (sw : Nat) : List Nat :=
  (s.regions.foldl (fun l e => Tables.insert l (e.1 % 64)) []).filter (fun b =>
    let cs := s.regionCores b
    let all := cs ++ (s.grants.filter (fun g => g % 64 == b)).map (fun g => hostNode (g / 64))
    (cs.any (s.below sw) && all.any (fun n => !s.below sw n)) || (cs.any (fun c => !s.below sw c) && all.any (s.below sw)))

/-- The report of the switch above that a route-table entry's old port has drained: it received nothing there that has not entered its
output queues, and it sends a message on the control channel (R342, R351). -/
def State.reports (s : State) (sw entry : Nat) : State :=
  let n := pkgNode (switchPkg sw)
  s.inject { s.newMsg n n 64 (2 ^ 64) 0 4 (.drain sw entry) with done := 1, left := 0, que := queueNo (s.parent sw) (downPort sw) }

/-- An up-port leaves the set of live ones: the entries that name it are reassigned and held, and what waits in its queue waits in the
next port's (R349, R351). -/
def State.retireUp (s : State) (sw port : Nat) : State :=
  let s1 := s.fixTable sw
  let s2 := if levelNo sw = 3 then s1.setPort (placeNo sw) port { s1.port (placeNo sw) port with state := 4, paused := false }
    else s1.setSwitch sw { s1.switch sw with dead := insert (s1.switch sw).dead port }
  let x := s2.switch sw
  let np := (nextLive (s2.upPorts sw) port).getD port
  let named := (x.routes.filter (fun e => e.2 == port)).map Prod.fst
  let s3 := s2.setSwitch sw { x with
    routes := x.routes.map (fun e => if e.2 = port then (e.1, np) else e)
    draining := named.foldl insert x.draining }
  let s4 := named.foldl (fun t e => t.reports sw e) { s3 with net := s3.net.map (fun (m : Msg) => if m.que = queueNo sw port then { m with que := queueNo sw np } else m) }
  if (s4.upPorts sw).isEmpty then (s4.cutOff sw).foldl (fun t b => t.freeze b) s4 else s4

/-! ### UNIT_LOSS (R329, R343) -/

/-- Whether a message's tail still stands behind a link: two flits pass in a cycle (R339, R341). -/
def State.midPath (s : State) (m : Msg) (link : Nat) : Bool := m.done != 0 && m.inp == link && s.cycle < m.since + (m.flits + 1) / 2

/-- The injection queues and the links that a lost unit takes with it. What comes down to a switch does so by its lowest live up-port.
DESIGN CHOICE (log entry 60): R340 chooses no port on the way down. -/
def State.lostFeeds (s : State) (n : Nat) : LostUnit → List Nat
  | .core => [injectQueue n 0]
  | .copy => [injectQueue (n * 16) 1]
  | .net => (List.range 4).map (fun g => injectQueue (mkCid true (pkgOf (n * 16)) (dieOf (n * 16)) g 0) 2)
  | .link port => queueNo n port :: (if (s.upPorts n).head? = some port then [queueNo (s.parent n) (downPort n)] else [])

/-- The booths that a lost unit serves: those that own a group of the core, or have a queue in the engine (R238, R329). -/
def State.served (s : State) (n : Nat) : LostUnit → List Nat
  | .core => (s.core n).owners.toList.filterMap id
  | .copy => (List.range 64).filter (fun b => (s.regionCores b).any (fun c => engOf c == n))
  | .net => (List.range 64).filter (fun b => (s.regionCores b).any (fun c => isEdge c && nqKey c 0 == nqKey (n * 16) 0))
  | .link _ => []

/-- Whether there is such a unit to lose. -/
def State.losable (s : State) (n : Nat) : LostUnit → Bool
  | .core => isCore n && !(s.core n).lost
  | .copy => isCore (n * 16)
  | .net => isCore (n * 16) && isEdge (n * 16)
  | .link port => (s.upPorts n).contains port

/-- UNIT_LOSS: every booth that the unit serves resets, and so does every booth that loses a message with it: one in its injection
buffer, or one of which only a part has passed (R329, R343). -/
def State.loseUnit (s : State) (n : Nat) (u : LostUnit) : Option State :=
  if !s.losable n u then none
  else
    let unsent (m : Msg) : Bool := m.done == 0 && (s.lostFeeds n u).contains m.que
    let torn (m : Msg) : Bool := (s.lostFeeds n u).any (s.midPath m)
    let hit := (s.net.filter (fun m => unsent m || torn m)).map (·.booth)
    let s1 := { s with net := (s.net.filter (fun m => !unsent m)).map (fun m => if torn m then { m with cut := true } else m) }
    let s2 := match u with
      | .core => (s1.setCore n { s1.core n with lost := true }).fails (.core n)
      | .link port => s1.retireUp n port
      | _ => s1
    some ((hit ++ s.served n u).foldl (fun t b => t.freeze b) s2)

def execUnitLoss (n : Nat) (u : LostUnit) (s : State) : Host.Outcome State Fault Refusal :=
  event "UNIT_LOSS" (s.loseUnit n u)

/-! ### Lanes and links (R348 to R351, R400) -/

/-- Lanes that work and carry traffic: the four, and the spare once it is in use. -/
def PortStatus.working (x : PortStatus) : Nat := popcount 4 x.lanes + (if x.spare then x.lanes / 16 % 2 else 0)
/-- The spare works and is not yet used. -/
def PortStatus.spareLeft (x : PortStatus) : Bool := !x.spare && x.lanes / 16 % 2 == 1

/-- A port goes on with the lanes that carry traffic, or is retired with fewer than two (R349). -/
def State.settlePort (s : State) (p port : Nat) (x : PortStatus) : State :=
  if x.working < 2 then (s.setPort p port x).retireUp (switchNo 3 p) port
  else s.setPort p port { x with paused := false, state := if x.working < 4 then 3 else 2 }

/-- LANE_FAILURE (R348, R349): the link pauses to retrain onto the spare; with no spare left it runs on, and with fewer than two working
lanes it is retired. Lane 4 is the spare; a lane may fail while the link retrains. -/
def State.laneFails (s : State) (p port lane : Nat) : Option State :=
  let x := s.port p port
  if 36 ≤ port || 5 ≤ lane || !x.live || x.lanes / 2 ^ lane % 2 = 0 then none
  else
    let y := { x with lanes := x.lanes - 2 ^ lane }
    let t := s.fails (.lane p port lane)
    if (lane < 4 || x.paused) && y.spareLeft && 1 ≤ popcount 4 y.lanes then some (t.setPort p port { y with state := 1, paused := true })
    else some (t.settlePort p port y)

/-- The first lane of a port that has failed. -/
def State.failedLane (s : State) (p port : Nat) : Nat := ((List.range 4).find? (fun l => (s.port p port).lanes / 2 ^ l % 2 == 0)).getD 0

/-- LINK_RETRAIN_DONE (R348): the spare lane carries the failed one's traffic, a repair (R395, R396), and the link resumes. -/
def State.retrained (s : State) (p port : Nat) : Option State :=
  let x := s.port p port
  if !x.paused then none
  else
    let t := s.settlePort p port { x with spare := true, retrain := min 65535 (x.retrain + 1) }
    some ((t.repair 0 (.lane p port (s.failedLane p port))).getD t)

/-- DRAIN_REPORT (R351): the report has come by a working port; the held messages of the entry go on unless another report on it is still
to come. -/
def State.drained (s : State) (sw entry : Nat) : Option State :=
  match findIdx (fun m => m.body == .drain sw entry) s.net with
  | none => none
  | some (i, _) =>
    if (s.switch sw).draining.contains entry && (s.upPorts sw).any (s.carries sw) then
      let t := s.dropMsg i
      some (if t.net.any (fun m => m.body == .drain sw entry) then t
        else t.setSwitch sw { s.switch sw with draining := remove (s.switch sw).draining entry })
    else none

/-- LINK_TRAINED (R350, R400): an Ebtar link comes up with the lanes that work, and the package switch learns the levels of the nodes that it
can reach. DESIGN CHOICE (log entry 70): the booths that management grants the host adapters reached come with it (R352). -/
def State.trained (s : State) (p port : Nat) (x : Learnt) : Option State :=
  let y := { s.port p port with lanes := s.goodLanes p port, spare := s.laneSpared p port, paused := false }
  if 36 ≤ port || !s.powered p || (s.port p port).state ≥ 2 || (s.port p port).paused || y.working < 2 ||
      x.levels.any (fun e => e.2 < 4 || 8192 ≤ e.1) || x.grants.any (fun g => 4096 ≤ g.1 || 48 ≤ g.2) then none
  else
    let s1 := s.setPort p port { y with state := if y.working < 4 then 3 else 2 }
    let k := s1.pkg p
    some { s1.setPkg p { k with levels := x.levels.foldl (fun t e => put t e.1 e.2) k.levels } with
      grants := x.grants.foldl (fun l g => insert l (g.1 * 64 + g.2)) s1.grants }

/-- FLIT_ARRIVES_IN_ERROR (R348, R350): counted; the flit is sent again from the replay buffer, so no message changes. -/
def State.flitError (s : State) (p port : Nat) : Option State :=
  let x := s.port p port
  if 36 ≤ port || !x.live then none else some (s.setPort p port { x with crcerr := min 65535 (x.crcerr + 1) })

def execLaneFailure (pkg port lane : Nat) (s : State) : Host.Outcome State Fault Refusal :=
  event "LANE_FAILURE" (s.laneFails pkg port lane)
def execLinkRetrainDone (pkg port : Nat) (s : State) : Host.Outcome State Fault Refusal :=
  event "LINK_RETRAIN_DONE" (s.retrained pkg port)
def execDrainReport (switch entry : Nat) (s : State) : Host.Outcome State Fault Refusal :=
  event "DRAIN_REPORT" (s.drained switch entry)
def execLinkTrained (pkg port : Nat) (x : Learnt) (s : State) : Host.Outcome State Fault Refusal :=
  event "LINK_TRAINED" (s.trained pkg port x)
def execFlitArrivesInError (pkg port : Nat) (s : State) : Host.Outcome State Fault Refusal :=
  event "FLIT_ARRIVES_IN_ERROR" (s.flitError pkg port)

end Sys2Proof.Machine
end

