-- ==== Sys2Proof/Machine/Integer.lean ====
section
/-! DEFINITION. Integer instructions: major 32, bit fields, immediate forms and constants (R121 to R129). -/

namespace Sys2Proof.Machine
open Bits

/-- The width of a type (R123). -/
def ITy.w : ITy → Nat
  | .s64 | .z64 => 64
  | .s32 | .z32 => 32

/-- A w-bit result extended to a register (R123). -/
def extend (t : ITy) (r : Nat) : Word :=
  match t with
  | .s64 | .z64 => BitVec.ofNat 64 r
  | .s32 => sext r 32
  | .z32 => zext r 32

/-- A result given as a signed number, as w bits. -/
def wrapS (w : Nat) (i : Int) : Nat := (i % (2 ^ w : Int)).toNat

/-- Applies an operation on unsigned w-bit operands and extends its result (R123). -/
def intOp (t : ITy) (f : Nat → Nat → Nat → Nat) (x y : Word) : Word :=
  extend t (f (ITy.w t) (x.toNat % 2 ^ ITy.w t) (y.toNat % 2 ^ ITy.w t))

/-! ### The operations of R124 and R125, on w-bit operands -/

def iAdd (w x y : Nat) : Nat := (x + y) % 2 ^ w
def iSub (w x y : Nat) : Nat := (x + 2 ^ w - y) % 2 ^ w
def iMul (w x y : Nat) : Nat := x * y % 2 ^ w
def iMulh (w x y : Nat) : Nat := wrapS w (toSigned x w * toSigned y w / 2 ^ w)
def iMulhz (w x y : Nat) : Nat := x * y / 2 ^ w
def iDiv (w x y : Nat) : Nat :=
  if y = 0 then 2 ^ w - 1
  else if x = 2 ^ (w - 1) && y = 2 ^ w - 1 then x
  else wrapS w (Int.tdiv (toSigned x w) (toSigned y w))
def iDivz (w x y : Nat) : Nat := if y = 0 then 2 ^ w - 1 else x / y
def iRem (w x y : Nat) : Nat :=
  if y = 0 then x
  else if x = 2 ^ (w - 1) && y = 2 ^ w - 1 then 0
  else wrapS w (Int.tmod (toSigned x w) (toSigned y w))
def iRemz (_w x y : Nat) : Nat := if y = 0 then x else x % y
def iAnd (_w x y : Nat) : Nat := x &&& y
def iOr (_w x y : Nat) : Nat := x ||| y
def iXor (_w x y : Nat) : Nat := x ^^^ y
def iAndn (w x y : Nat) : Nat := x &&& (2 ^ w - 1 - y)
def iShl (w x y : Nat) : Nat := x * 2 ^ (y % w) % 2 ^ w
def iShr (w x y : Nat) : Nat := x / 2 ^ (y % w)
def iSar (w x y : Nat) : Nat := wrapS w (toSigned x w / 2 ^ (y % w))
def iSlt (w x y : Nat) : Nat := b2n (toSigned x w < toSigned y w)
def iSltz (_w x y : Nat) : Nat := b2n (x < y)
def iMin (w x y : Nat) : Nat := if toSigned x w ≤ toSigned y w then x else y
def iMax (w x y : Nat) : Nat := if toSigned y w ≤ toSigned x w then x else y
def iMinz (_w x y : Nat) : Nat := if x ≤ y then x else y
def iMaxz (_w x y : Nat) : Nat := if y ≤ x then x else y

/-- Zero bits above the highest set bit; w for zero. -/
def iClz (w x _y : Nat) : Nat := if x = 0 then w else w - 1 - log2 x
/-- Zero bits below the lowest set bit among n bits; n for none. -/
def ctzGo : Nat → Nat → Nat
  | 0, _ => 0
  | n + 1, x => if x % 2 = 1 then 0 else 1 + ctzGo n (x / 2)
def iCtz (w x _y : Nat) : Nat := ctzGo w x
def iPopc (w x _y : Nat) : Nat := popcount w x

/-! ### Major 32 -/

/-- `add` (R123, R124). -/
def execAdd (t : ITy) (d a b : GReg) (s : State) : Host.Outcome State Fault Refusal :=
  runWord s (s.op2 d a b (intOp t iAdd))

/-- `sub` (R123, R124). -/
def execSub (t : ITy) (d a b : GReg) (s : State) : Host.Outcome State Fault Refusal :=
  runWord s (s.op2 d a b (intOp t iSub))

/-- `mul` (R123, R124). -/
def execMul (t : ITy) (d a b : GReg) (s : State) : Host.Outcome State Fault Refusal :=
  runWord s (s.op2 d a b (intOp t iMul))

/-- `mulh` (R123, R124). -/
def execMulh (t : ITy) (d a b : GReg) (s : State) : Host.Outcome State Fault Refusal :=
  runWord s (s.op2 d a b (intOp t iMulh))

/-- `mulhz` (R123, R124). -/
def execMulhz (t : ITy) (d a b : GReg) (s : State) : Host.Outcome State Fault Refusal :=
  runWord s (s.op2 d a b (intOp t iMulhz))

/-- `div` (R123, R124, R125). -/
def execDiv (t : ITy) (d a b : GReg) (s : State) : Host.Outcome State Fault Refusal :=
  runWord s (s.op2 d a b (intOp t iDiv))

/-- `divz` (R123, R124, R125). -/
def execDivz (t : ITy) (d a b : GReg) (s : State) : Host.Outcome State Fault Refusal :=
  runWord s (s.op2 d a b (intOp t iDivz))

/-- `rem` (R123, R124, R125). -/
def execRem (t : ITy) (d a b : GReg) (s : State) : Host.Outcome State Fault Refusal :=
  runWord s (s.op2 d a b (intOp t iRem))

/-- `remz` (R123, R124, R125). -/
def execRemz (t : ITy) (d a b : GReg) (s : State) : Host.Outcome State Fault Refusal :=
  runWord s (s.op2 d a b (intOp t iRemz))

/-- `and` (R123, R124). -/
def execAnd (t : ITy) (d a b : GReg) (s : State) : Host.Outcome State Fault Refusal :=
  runWord s (s.op2 d a b (intOp t iAnd))

/-- `or` (R123, R124). -/
def execOr (t : ITy) (d a b : GReg) (s : State) : Host.Outcome State Fault Refusal :=
  runWord s (s.op2 d a b (intOp t iOr))

/-- `xor` (R123, R124). -/
def execXor (t : ITy) (d a b : GReg) (s : State) : Host.Outcome State Fault Refusal :=
  runWord s (s.op2 d a b (intOp t iXor))

/-- `andn` (R123, R124). -/
def execAndn (t : ITy) (d a b : GReg) (s : State) : Host.Outcome State Fault Refusal :=
  runWord s (s.op2 d a b (intOp t iAndn))

/-- `shl` (R123, R124). -/
def execShl (t : ITy) (d a b : GReg) (s : State) : Host.Outcome State Fault Refusal :=
  runWord s (s.op2 d a b (intOp t iShl))

/-- `shr` (R123, R124). -/
def execShr (t : ITy) (d a b : GReg) (s : State) : Host.Outcome State Fault Refusal :=
  runWord s (s.op2 d a b (intOp t iShr))

/-- `sar` (R123, R124). -/
def execSar (t : ITy) (d a b : GReg) (s : State) : Host.Outcome State Fault Refusal :=
  runWord s (s.op2 d a b (intOp t iSar))

/-- `slt` (R123, R124). -/
def execSlt (t : ITy) (d a b : GReg) (s : State) : Host.Outcome State Fault Refusal :=
  runWord s (s.op2 d a b (intOp t iSlt))

/-- `sltz` (R123, R124). -/
def execSltz (t : ITy) (d a b : GReg) (s : State) : Host.Outcome State Fault Refusal :=
  runWord s (s.op2 d a b (intOp t iSltz))

/-- `min` (R123, R124). -/
def execMin (t : ITy) (d a b : GReg) (s : State) : Host.Outcome State Fault Refusal :=
  runWord s (s.op2 d a b (intOp t iMin))

/-- `max` (R123, R124). -/
def execMax (t : ITy) (d a b : GReg) (s : State) : Host.Outcome State Fault Refusal :=
  runWord s (s.op2 d a b (intOp t iMax))

/-- `minz` (R123, R124). -/
def execMinz (t : ITy) (d a b : GReg) (s : State) : Host.Outcome State Fault Refusal :=
  runWord s (s.op2 d a b (intOp t iMinz))

/-- `maxz` (R123, R124). -/
def execMaxz (t : ITy) (d a b : GReg) (s : State) : Host.Outcome State Fault Refusal :=
  runWord s (s.op2 d a b (intOp t iMaxz))

/-- `clz` (R123, R124). -/
def execClz (t : ITy) (d a : GReg) (s : State) : Host.Outcome State Fault Refusal :=
  runWord s (s.op1 d a (fun x => intOp t iClz x 0))

/-- `ctz` (R123, R124). -/
def execCtz (t : ITy) (d a : GReg) (s : State) : Host.Outcome State Fault Refusal :=
  runWord s (s.op1 d a (fun x => intOp t iCtz x 0))

/-- `popc` (R123, R124). -/
def execPopc (t : ITy) (d a : GReg) (s : State) : Host.Outcome State Fault Refusal :=
  runWord s (s.op1 d a (fun x => intOp t iPopc x 0))

/-- `sel`: all 64 bits of gC choose (R126). -/
def execSel (t : ITy) (d a b c : GReg) (s : State) : Host.Outcome State Fault Refusal :=
  runWord s (s.op3 d a b c (fun x y z => intOp t (fun _ x y => if z = 0 then y else x) x y))

/-! ### Bit fields (R127) -/

/-- `bfx`. -/
def execBfx (d a : GReg) (e : Ext) (p n : Fin 64) (s : State) : Host.Outcome State Fault Refusal :=
  runWord s (s.op1 d a (fun x =>
    let f := wfld x (p.val + n.val) p.val
    match e with
    | .sx => sext f (n.val + 1)
    | .zx => zext f (n.val + 1)))

/-- Bits [pos+len-1:pos] of the old value replaced by the low bits of x. -/
def insertBits (old x p len : Nat) : Nat :=
  old - old / 2 ^ p % 2 ^ len * 2 ^ p + x % 2 ^ len * 2 ^ p

/-- `bfi`: reads gA and then gD. -/
def execBfi (d a : GReg) (p n : Fin 64) (s : State) : Host.Outcome State Fault Refusal :=
  runWord s (s.op1d d a (fun x o => BitVec.ofNat 64 (insertBits o.toNat x.toNat p.val (n.val + 1))))

/-! ### Immediate forms (R128, R129) -/

def imm17 (i : BitVec 17) : Word := sext i.toNat 17

/-- `addi` (R128). -/
def execAddi (d a : GReg) (i : BitVec 17) (s : State) : Host.Outcome State Fault Refusal :=
  runWord s (s.op1 d a (fun x => x + imm17 i))

/-- `andi` (R128). -/
def execAndi (d a : GReg) (i : BitVec 17) (s : State) : Host.Outcome State Fault Refusal :=
  runWord s (s.op1 d a (fun x => x &&& imm17 i))

/-- `ori` (R128). -/
def execOri (d a : GReg) (i : BitVec 17) (s : State) : Host.Outcome State Fault Refusal :=
  runWord s (s.op1 d a (fun x => x ||| imm17 i))

/-- `xori` (R128). -/
def execXori (d a : GReg) (i : BitVec 17) (s : State) : Host.Outcome State Fault Refusal :=
  runWord s (s.op1 d a (fun x => x ^^^ imm17 i))

/-- `slti` (R128). -/
def execSlti (d a : GReg) (i : BitVec 17) (s : State) : Host.Outcome State Fault Refusal :=
  runWord s (s.op1 d a (fun x => if x.toInt < (imm17 i).toInt then 1 else 0))

/-- `shli` (R128). -/
def execShli (d a : GReg) (i : Fin 64) (s : State) : Host.Outcome State Fault Refusal :=
  runWord s (s.op1 d a (fun x => x <<< i.val))

/-- `shri` (R128). -/
def execShri (d a : GReg) (i : Fin 64) (s : State) : Host.Outcome State Fault Refusal :=
  runWord s (s.op1 d a (fun x => x >>> i.val))

/-- `sari` (R128). -/
def execSari (d a : GReg) (i : Fin 64) (s : State) : Host.Outcome State Fault Refusal :=
  runWord s (s.op1 d a (fun x => x.sshiftRight i.val))

/-- `lui` (R129). -/
def execLui (d : GReg) (i : BitVec 21) (s : State) : Host.Outcome State Fault Refusal :=
  runWord s (s.putG d (sext i.toNat 21 <<< 17))

end Sys2Proof.Machine
end

