-- ==== Sys2Proof/Machine/Matrix.lean ====
section
/-! DEFINITION. The matrix engine's instructions, major 29 ops 0 to 8: descriptors, the checks of a run at its issue, and the
queue of requests (R242 to R259, R261, R268). The runs themselves stand in Runs.lean. -/

namespace Sys2Proof.Machine
open Bits Tables

/-! ### Descriptors (R247, R248) -/

def descFmt (d : Word) : Nat := wfld d 63 62
def descSrc (d : Word) : Bool := wbit d 61
def descCmp (d : Word) : Bool := wbit d 60
def descMs (d : Word) : Int := toSigned (wfld d 47 32) 16
def descKs (d : Word) : Int := toSigned (wfld d 31 16) 16

/-- The multiple that strides and bases keep: 2, 32 for LNS6, 8 for compressed A (R247, R248). -/
def descAlign (d : Word) : Nat := if descFmt d = 2 then 32 else if descCmp d then 8 else 2

/-- Whether a word is a descriptor of A, or of B (R247). -/
def descOk (isB : Bool) (d : Word) : Bool :=
  descFmt d ≠ 3 && (isB || !descSrc d) && (if isB then !descCmp d else !(descCmp d && descFmt d == 2)) &&
  wfld d 59 48 == 0 && wfld d 15 0 == 0 &&
  wfld d 47 32 % (descAlign d) == 0 && wfld d 31 16 % (descAlign d) == 0

/-- The address of the item (i, k) of an operand: base + i·MS + k·KS (R248). -/
def descAddr (base d : Word) (i k : Nat) : Nat :=
  ((base.toNat + i * descMs d + k * descKs d) % (2 ^ 48 : Int)).toNat

/-- Bytes of one item: an element, a block record, a compressed segment (R248, R249). -/
def descItem (d : Word) : Nat := if descFmt d = 2 then 32 else if descCmp d then 40 else 2

/-- Items along k: elements, or blocks or segments of 32 steps. -/
def descCount (d : Word) (k : Nat) : Nat := if descFmt d = 2 || descCmp d then k / 32 else k

/-- The spans, first byte and length, of `rows` rows of an operand over k steps. -/
def descSpans (base d : Word) (rows k : Nat) : List (Nat × Nat) :=
  (List.range rows).flatMap (fun i => (List.range (descCount d k)).map (fun j => (descAddr base d i j, descItem d)))

/-! ### Checks at issue (R268) -/

/-- The rows of A and columns of B of a format (R242). -/
def fmtRows (fmt : Nat) : Nat := if fmt = 2 then 64 else 32
def fmtCols (fmt : Nat) : Nat := if fmt = 2 then 32 else 16

/-- MX_CONFIG in layout W unless a condition holds. -/
def State.mxCfg (s : State) (ok : Bool) (k : State → Step) : Step := if ok then k s else s.trapW .mxConfig

/-- ALIGN with the first address of a list that is not a multiple of its size (R143, R248). -/
def alignAll (xs : List (Nat × Nat)) (k : Step) : Step :=
  match xs.find? (fun x => x.1 % x.2 != 0) with
  | some x => trap .align (tvV 2 (x.1 % 2 ^ 48))
  | none => k

/-- Whether a byte lies in the own window, in a bank of the booth (R246). -/
def State.mine (s : State) (va : Nat) : Bool := isWin va && s.ownsOff s.cid s.booth (va - winBase)

/-- The first byte of some spans that lies elsewhere. -/
def State.strayByte (s : State) : List (Nat × Nat) → Option Nat
  | [] => none
  | (a, n) :: t =>
    match ((List.range n).map (fun i => (a + i) % 2 ^ 48)).find? (fun x => !s.mine x) with
    | some x => some x
    | none => s.strayByte t

/-- LOAD_XLATE or STORE_XLATE with reason 1 for a byte outside the booth's banks (R246). -/
def State.spansOk (s : State) (c : Cause) (xs : List (Nat × Nat)) (k : Step) : Step :=
  match s.strayByte xs with
  | some x => trap c (tvV 1 x)
  | none => k

/-- A bank that a run would touch belongs to the other tenant of a handover (R322). -/
def State.spansHeld (s : State) (xs : List (Nat × Nat)) : Bool :=
  xs.any (fun x => s.bankHeld (s.cid * 16 + (x.1 - winBase) / 8192) || s.bankHeld (s.cid * 16 + (x.1 + x.2 - 1 - winBase) / 8192))

/-- MX_COUNT when a counter of the tile has reached the threshold (R244). -/
def State.countOk (s : State) (t : Nat) (k : Step) : Step :=
  let thr := wfld s.regs.mthr 15 0
  let c := (s.core s.cid).tile (groupOf s.cur) t
  if thr = 0 then k
  else if thr ≤ c.satc then trap .mxCount t
  else if thr ≤ c.nanc then trap .mxCount (t + 4)
  else if thr ≤ c.bsoc then trap .mxCount (t + 8)
  else k

/-- The request enters the engine's queue and the thread parks until its run ends (R250, R261). -/
def State.enqueueRun (s : State) (xs : List (Nat × Nat)) (op t : Nat) (a b d : Word) (sat : Bool) (k : Nat) : Step :=
  if s.storeHeld || s.spansHeld xs then .retry .handover
  else
    let c := s.core s.cid
    let r : MRun := ⟨s.uid, s.cur, s.booth, op, t, a, b, d, sat, k, s.regs.mda, s.regs.mdb, s.regs.sampled, 0, false, []⟩
    .park ((s.setCore s.cid { c with mreqs := c.mreqs ++ [r] }).modMe (fun t => { t with wait := .run }))

/-! ### Instructions -/

/-- `mcfg` (R251). -/
def State.matConfig (s : State) (a b : GReg) : Step :=
  s.getG a fun x s => s.getG b fun y s =>
  s.mxCfg (descOk false x && descOk true y) fun s => .next (s.modRegs (fun r => { r with mda := x, mdb := y }))

/-- `mma` and `mrot` (R253, R254). -/
def State.matMul (s : State) (op : Nat) (t : Tile) (a b : GReg) (sat : Bool) (kf : BitVec 8) : Step :=
  s.getG a fun x s => s.getG b fun y s =>
  let k := kf.toNat + 1
  let fa := s.regs.mda
  let fb := s.regs.mdb
  let ring := descSrc fb
  let blocks := descFmt fa == 2 || descCmp fa
  s.mxCfg (descFmt fa == descFmt fb && descFmt fa != 3 && !(descFmt fa == 2 && t.val != 0) && !(blocks && k % 32 != 0) &&
    !(ring && y != 0) && !(op == 8 && (s.partner s.cid s.booth 1).isNone)) fun s =>
  let sa := descSpans x fa (fmtRows (descFmt fa)) k
  let sb := if ring then [] else descSpans y fb (fmtCols (descFmt fa)) k
  alignAll ((x.toNat, descAlign fa) :: (if ring then [] else [(y.toNat, descAlign fb)])) <|
  s.spansOk .loadXlate (sa ++ sb) <|
  s.countOk t.val <|
  s.enqueueRun (sa ++ sb) op t.val x y 0 sat k

/-- `mzero` (R252). -/
def State.matZero (s : State) (t : Tile) (all : Bool) : Step := s.enqueueRun [] 1 t.val 0 0 0 all 0

/-! The store descriptor of `mst` (R255). -/

def outRs (d : Word) : Int := toSigned (wfld d 31 16) 16
def outZero (d : Word) : Bool := wbit d 8
def outSat (d : Word) : Bool := wbit d 7
def outFmt (d : Word) : Nat := wfld d 2 0
def outRows (d : Word) : Nat := if outFmt d = 3 then 64 else 32
/-- Bytes of a row. -/
def outBytes (d : Word) : Nat :=
  match outFmt d with
  | 0 => 64
  | 4 => 128
  | _ => 32
def outOk (t : Nat) (d : Word) : Bool :=
  wfld d 63 32 == 0 && wfld d 15 9 == 0 && wfld d 3 3 == 0 && wfld d 6 4 ≤ 3 && outFmt d ≤ 4 &&
  !(outFmt d == 3 && (t != 0 || wfld d 6 4 != 0))

/-- The start of row r. -/
def outRow (base d : Word) (r : Nat) : Nat := ((base.toNat + r * outRs d) % (2 ^ 48 : Int)).toNat
/-- Where the counter record goes. -/
def outRecord (base d : Word) : Nat := (outRow base d (outRows d - 1) + outBytes d) % 2 ^ 48
def outSpans (base d : Word) : List (Nat × Nat) :=
  (List.range (outRows d)).map (fun r => (outRow base d r, outBytes d)) ++ [(outRecord base d, 8)]

/-- `mst` (R255). -/
def State.matStore (s : State) (t : Tile) (a b : GReg) : Step :=
  s.getG a fun x s => s.getG b fun y s =>
  s.mxCfg (outOk t.val y) fun s =>
  let n := if outFmt y = 3 then 32 else 8
  alignAll [(x.toNat, n), (outRow x y 1, n)] <|
  s.spansOk .storeXlate (outSpans x y) <|
  s.countOk t.val <|
  s.enqueueRun (outSpans x y) 3 t.val x y 0 false 0

/-- `mcnt` (R256). -/
def State.matCount (s : State) (d : GReg) (t : Tile) (sel : Fin 4) : Step :=
  if s.storeHeld then .retry .handover
  else
    s.putG d (match sel.val with
      | 0 => ((s.core s.cid).tile (groupOf s.cur) t.val).record
      | 1 => s.regs.mrs
      | 2 => s.regs.mda
      | _ => s.regs.mdb)

/-- `mclr accT` (R257). -/
def State.clearTile (s : State) (t : Tile) : Step :=
  if s.storeHeld then .retry .handover
  else
    let c := s.core s.cid
    .next (s.setCore s.cid { c with tileCnt := putD c.tileCnt (groupOf s.cur * 4 + t.val) ⟨0, 0, 0⟩ ⟨0, 0, 0⟩ })

/-- A place came free in a lane: threads that wait to push try again (R264). -/
def State.wakeFull (s : State) : State :=
  s.wake (fun _ _ w => match w with
    | .laneFull _ => true
    | _ => false)

/-- `mclr L` (R257). -/
def State.clearLatch (s : State) (l : Latch) : Step :=
  let x := s.slot s.cur
  match l with
  | .opa => .next (s.setSlot s.cur { x with opaFull := false })
  | .opb => .next (s.setSlot s.cur { x with opb := [] })
  | .lane k =>
    let i := k.code
    .next (s.setSlot s.cur { x with lanes := Vector.ofFn (fun j => if j.val = i then [] else x.lanes[j]) }).wakeFull

/-- The segment (i, sg) of the output of `mcmp` (R258). -/
def cmpAddr (b : Word) (k i sg : Nat) : Nat := (b.toNat + i * (40 * k / 32) + sg * 40) % 2 ^ 48
def cmpSpans (b : Word) (k : Nat) : List (Nat × Nat) :=
  (List.range 32).flatMap (fun i => (List.range (k / 32)).map (fun g => (cmpAddr b k i g, 40)))

/-- `mcmp` (R258). -/
def State.matCompress (s : State) (a b : GReg) (kf : BitVec 8) : Step :=
  s.getG a fun x s => s.getG b fun y s =>
  let k := kf.toNat + 1
  let fa := s.regs.mda
  s.mxCfg (descFmt fa ≤ 1 && !descCmp fa) fun s =>
  alignAll [(x.toNat, 2), (y.toNat, 8)] <|
  s.spansOk .loadXlate (descSpans x fa 32 k) <|
  s.spansOk .storeXlate (cmpSpans y k) <|
  s.enqueueRun (descSpans x fa 32 k ++ cmpSpans y k) 6 0 x y 0 false k

/-- `mlink` (R259). -/
def State.linkCore (s : State) (d : GReg) (r : Link) : Step :=
  s.putG d (match s.partner s.cid s.booth r.code with
    | none => 0
    | some p => BitVec.ofNat 64 (2 ^ 63 + p * 16))

def execMcfg (a b : GReg) (s : State) : Host.Outcome State Fault Refusal := runWord s (s.needs .m (s.matConfig a b))
def execMzero (t : Tile) (all : Bool) (s : State) : Host.Outcome State Fault Refusal :=
  runWord s (s.needs .m (s.matZero t all))
def execMma (t : Tile) (a b : GReg) (sat : Bool) (k : BitVec 8) (s : State) : Host.Outcome State Fault Refusal :=
  runWord s (s.needs .m (s.matMul 2 t a b sat k))
def execMst (t : Tile) (a b : GReg) (s : State) : Host.Outcome State Fault Refusal :=
  runWord s (s.needs .m (s.matStore t a b))
def execMcnt (d : GReg) (t : Tile) (sel : Fin 4) (s : State) : Host.Outcome State Fault Refusal :=
  runWord s (s.needs .m (s.matCount d t sel))
def execMclrTile (t : Tile) (s : State) : Host.Outcome State Fault Refusal := runWord s (s.needs .m (s.clearTile t))
def execMclrLatch (l : Latch) (s : State) : Host.Outcome State Fault Refusal := runWord s (s.needs .m (s.clearLatch l))
def execMcmp (a b : GReg) (k : BitVec 8) (s : State) : Host.Outcome State Fault Refusal :=
  runWord s (s.needs .m (s.matCompress a b k))
def execMlink (d : GReg) (r : Link) (s : State) : Host.Outcome State Fault Refusal :=
  runWord s (s.needs .m (s.linkCore d r))
def execMrot (t : Tile) (a b : GReg) (sat : Bool) (k : BitVec 8) (s : State) : Host.Outcome State Fault Refusal :=
  runWord s (s.needs .m (s.matMul 8 t a b sat k))

end Sys2Proof.Machine
end

