-- ==== Sys2Proof/Machine/Runs.lean ====
section
/-! DEFINITION. Matrix runs: what a run reads, computes and writes, as functions of memory, the store and the operand units
(R81 to R99, R242 to R258, R271 to R281). Every operand word is read once, at the run's end, except units of B that the run
forwards, which are read as they are sent. -/

namespace Sys2Proof.Machine
open Bits Tables

/-! ### Operands (R248, R249, R265) -/

/-- n bytes of the window of a core. -/
def winRead (m : Memory) (cid va n : Nat) : Nat := m.read (spad cid (va - winBase)) n

def fmtNum (fmt n : Nat) : Exact.Val := Exact.ofBits (if fmt = 0 then Exact.f16 else Exact.bf16) n

/-- B arrives in units: from the ring, or read as they are forwarded (R254, R265). -/
def MRun.byUnits (r : MRun) : Bool := (r.op == 2 && descSrc r.mdb) || r.op == 8
/-- Units of B that the run takes in all. -/
def MRun.total (r : MRun) : Nat := if r.byUnits then r.k else 0

/-- The element A(i, k) of an uncompressed operand. -/
def MRun.elemA (r : MRun) (m : Memory) (cid i k : Nat) : Exact.Val :=
  fmtNum (descFmt r.mda) (winRead m cid (descAddr r.a r.mda i k) 2)

/-- The element B(k, j): minor index j. -/
def MRun.elemB (r : MRun) (m : Memory) (cid k j : Nat) : Exact.Val :=
  fmtNum (descFmt r.mdb)
    (if r.byUnits then ofBytes ((((r.units[k]?).getD []).drop (2 * j)).take 2)
     else winRead m cid (descAddr r.b r.mdb j k) 2)

/-- The block records of row i of A and column j of B, as numbers of 32 bytes. -/
def MRun.recA (r : MRun) (m : Memory) (cid i kb : Nat) : Nat := winRead m cid (descAddr r.a r.mda i kb) 32
def MRun.recB (r : MRun) (m : Memory) (cid j kb : Nat) : Nat :=
  if r.byUnits then ofBytes ((r.units[32 * kb + j]?).getD []) else winRead m cid (descAddr r.b r.mdb j kb) 32

/-- The code of element l of a block record, and its scale (R82, R85, R248). -/
def recCode (rec l : Nat) : Nat := rec / 2 ^ (6 * l) % 64
def recScale (rec : Nat) : Nat := rec / 2 ^ 192 % 256

/-- The signed product of two codes in units of 2^-24 (R94). -/
def codeProd (a b : Nat) : Int :=
  if a % 32 = 0 || b % 32 = 0 then 0
  else
    let p := a % 32 + b % 32
    let mag : Int := (Exact.lnsT (p % 4) * 2 ^ (p / 4) : Nat)
    if (a / 32 + b / 32) % 2 = 1 then -mag else mag

/-- The addend of one block (R94). -/
def blockAdd (ra rb : Nat) : Exact.Val :=
  let ls := List.range 32
  if ls.any (fun l => recCode ra l == 32 || recCode rb l == 32) || recScale ra = 255 || recScale rb = 255 then .nan
  else Exact.ofInt (ls.foldl (fun x l => x + codeProd (recCode ra l) (recCode rb l)) 0)
    (((recScale ra + recScale rb : Nat) : Int) - 278)

/-- The products of one element of a compressed run, in the order of R249: groups of four steps, two products each. -/
def MRun.packed (r : MRun) (m : Memory) (cid i j steps : Nat) : List Exact.Val :=
  (List.range (steps / 4)).flatMap (fun q =>
    let seg := winRead m cid (descAddr r.a r.mda i (q / 8)) 40
    let g := q % 8
    let meta8 := seg / 2 ^ (8 * (32 + g))
    let v (n : Nat) : Exact.Val := fmtNum (descFmt r.mda) (seg / 2 ^ (16 * n) % 2 ^ 16)
    [Exact.mul (v (2 * g)) (r.elemB m cid (4 * q + meta8 % 4) j),
     Exact.mul (v (2 * g + 1)) (r.elemB m cid (4 * q + meta8 / 4 % 4) j)])

/-- The addends of the element (i, j) of a product over its first steps (R94, R95, R249). -/
def MRun.addends (r : MRun) (m : Memory) (cid i j steps : Nat) : List Exact.Val :=
  if descFmt r.mda = 2 then (List.range (steps / 32)).map (fun kb => blockAdd (r.recA m cid i kb) (r.recB m cid j kb))
  else if descCmp r.mda then r.packed m cid i j steps
  else (List.range steps).map (fun k => Exact.mul (r.elemA m cid i k) (r.elemB m cid k j))

/-! ### Accumulation (R91, R92, R95, R99) -/

/-- An element under way: its 36 bits, and whether some step exceeded the range. -/
structure Elem where
  bits : Nat
  excess : Bool
  deriving DecidableEq, Repr

def Elem.isNan (n : Nat) : Bool := Exact.isNan (Exact.ofBits Exact.a36 n)

/-- One accumulation step (R95, R99). -/
def Elem.step (tsuvos sat : Bool) (e : Elem) (x : Exact.Val) : Elem :=
  let v := Exact.add false (Exact.ofBits Exact.a36 e.bits) x
  if tsuvos then ⟨Exact.rnd24 sat v, e.excess || Exact.exceeds Exact.f32 v⟩
  else ⟨Exact.round Exact.a36 .rne sat v, e.excess || Exact.exceeds Exact.a36 v⟩

/-- FP16 steps in pairs, the pair sum exact (R99). -/
def pairSums : List Exact.Val → List Exact.Val
  | x :: y :: t => Exact.add false x y :: pairSums t
  | t => t

def MRun.accumulate (r : MRun) (n : Nat) (xs : List Exact.Val) : Elem :=
  (if r.mode && descFmt r.mda == 0 && r.op != 11 then pairSums xs else xs).foldl (Elem.step r.mode r.sat) ⟨n, false⟩

/-- The store with entries replaced, and how many elements exceeded the range and how many turned NaN. -/
structure Tally where
  core : Core
  sat : Nat
  nan : Nat
  deriving DecidableEq, Repr

def Core.entry (c : Core) (g e : Nat) : Nat := (getD c.acc (g * 2048 + e) 0).toNat
def Core.setEntry (c : Core) (g e n : Nat) : Core := { c with acc := putD c.acc (g * 2048 + e) (BitVec.ofNat 36 n) 0 }

/-- Replaces one entry. -/
def Tally.put (t : Tally) (g e : Nat) (f : Nat → Elem) : Tally :=
  let o := t.core.entry g e
  let x := f o
  ⟨t.core.setEntry g e x.bits, t.sat + b2n x.excess, t.nan + b2n (Elem.isNan x.bits && !Elem.isNan o)⟩

/-- The entries of tile t in a format: the LNS6 tile covers the whole store (R242). -/
def tileEntries (fmt t : Nat) : List Nat := if fmt = 2 then List.range 2048 else (List.range 512).map (512 * t + ·)
/-- Row and column of an entry. -/
def rowOf (fmt e : Nat) : Nat := if fmt = 2 then e / 32 else e % 512 / 16
def colOf (fmt e : Nat) : Nat := if fmt = 2 then e % 32 else e % 16

/-- Counters rise and stop at 0xFFFF (R92). -/
def TileCnt.rise (t : TileCnt) (sat nan bso : Nat) : TileCnt :=
  ⟨min 65535 (t.satc + sat), min 65535 (t.nanc + nan), min 65535 (t.bsoc + bso)⟩
def Core.count (c : Core) (g t sat nan bso : Nat) : Core :=
  { c with tileCnt := putD c.tileCnt (g * 4 + t) ((c.tile g t).rise sat nan bso) ⟨0, 0, 0⟩ }

/-- The run of a product over its first steps (R253). -/
def MRun.product (r : MRun) (m : Memory) (cid steps : Nat) (c : Core) : Core :=
  let g := groupOf r.key
  let f := descFmt r.mda
  let t := (tileEntries f r.tile).foldl (fun (t : Tally) e =>
    t.put g e (fun o => r.accumulate o (r.addends m cid (rowOf f e) (colOf f e) steps))) ⟨c, 0, 0⟩
  t.core.count g r.tile t.sat t.nan 0

/-- `mzero` (R252): `sat` stands for ALL. -/
def MRun.zero (r : MRun) (c : Core) : Core :=
  (if r.sat then List.range 2048 else tileEntries 0 r.tile).foldl (fun (c : Core) e => c.setEntry (groupOf r.key) e 0) c

/-! ### Output (R86, R88, R255) -/

/-- floor(log2) of a magnitude; none for zero, infinity and NaN. -/
def magLog : Exact.Val → Option Int
  | .fin _ m e => if m = 0 then none else some ((log2 m : Int) + e)
  | _ => none

def maxLog (xs : List Exact.Val) : Option Int :=
  xs.foldl (fun b x => match b, magLog x with
    | some p, some q => some (max p q)
    | none, q => q
    | p, none => p) none

/-- A value times a power of two. -/
def scaleBy (x : Exact.Val) (k : Int) : Exact.Val :=
  match x with
  | .fin s m e => .fin s m (e + k)
  | y => y

/-- A block record, its count of range excesses, and whether its scale was clamped at 254 (R86). -/
structure OutBlock where
  bytes : Nat
  sat : Nat
  clamped : Bool
  deriving DecidableEq, Repr

/-- The block record of 32 values (R86). -/
def blockOut (xs : List Exact.Val) : OutBlock :=
  let pack (cs : List Nat) (e : Nat) : Nat := cs.foldr (fun c n => c + 64 * n) 0 + e * 2 ^ 192
  if xs.any Exact.isNan then ⟨pack (xs.map (fun _ => 32)) 255, 0, false⟩
  else
    let e1 : Option Int := if xs.any Exact.isInf then some 255 else (maxLog xs).map (· + 125)
    match e1 with
    | none => ⟨pack (xs.map (fun _ => 0)) 127, 0, false⟩
    | some e0 =>
      let e := max 0 (min e0 254)
      let ys := xs.map (fun x => scaleBy x (127 - e))
      ⟨pack (ys.map Exact.toLns) e.toNat, (ys.filter Exact.lnsExceeds).length, 254 < e0⟩

/-- The result of writing rows: memory, and the counts. -/
structure OutTally where
  mem : Memory
  sat : Nat
  bso : Nat
  deriving DecidableEq, Repr

def winWrite (m : Memory) (cid va n v : Nat) : Memory := m.write (spad cid (va - winBase)) n v

/-- Converts one entry to an element of the output format (R88). -/
def outElem (d : Word) (n : Nat) : Nat × Bool :=
  let x := Exact.ofBits Exact.a36 n
  let r : Exact.RMode := match wfld d 6 4 with
    | 0 => .rne
    | 1 => .rz
    | 2 => .rd
    | _ => .ru
  match outFmt d with
  | 0 => (Exact.round Exact.f32 r (outSat d) x, Exact.exceeds Exact.f32 x)
  | 1 => (Exact.round Exact.f16 r (outSat d) x, Exact.exceeds Exact.f16 x)
  | 2 => (Exact.round Exact.bf16 r (outSat d) x, Exact.exceeds Exact.bf16 x)
  | _ => (n, false)

/-- One row of `mst`. -/
def MRun.row (r : MRun) (cid : Nat) (c : Core) (o : OutTally) (i : Nat) : OutTally :=
  let g := groupOf r.key
  if outFmt r.b = 3 then
    let b := blockOut ((List.range 32).map (fun j => Exact.ofBits Exact.a36 (c.entry g (32 * i + j))))
    ⟨winWrite o.mem cid (outRow r.a r.b i) 32 b.bytes, o.sat + b.sat, o.bso + b2n b.clamped⟩
  else
    let es := outBytes r.b / 16
    let xs := (List.range 16).map (fun j => outElem r.b (c.entry g (512 * r.tile + 16 * i + j)))
    ⟨winWrite o.mem cid (outRow r.a r.b i) (16 * es) (xs.foldr (fun x n => x.1 + 2 ^ (8 * es) * n) 0),
      o.sat + (xs.filter (·.2)).length, o.bso⟩

/-- `mst` (R255): rows, counters, then the counter record; the tile is set to +0 where Z asks it. -/
def MRun.store (r : MRun) (m : Memory) (cid : Nat) (c : Core) : Memory × Core :=
  let g := groupOf r.key
  let o := (List.range (outRows r.b)).foldl (fun (o : OutTally) i => r.row cid c o i) ⟨m, 0, 0⟩
  let c1 := c.count g r.tile o.sat 0 o.bso
  let m1 := winWrite o.mem cid (outRecord r.a r.b) 8 (c1.tile g r.tile).record.toNat
  (m1, if outZero r.b then (tileEntries (if outFmt r.b = 3 then 2 else 0) r.tile).foldl (fun (c : Core) e => c.setEntry g e 0) c1
    else c1)

/-! ### `mcmp` (R258) -/

/-- Whether magnitude x ranks above y: NaN above infinity above every finite value. -/
def ranksAbove (x y : Exact.Val) : Bool :=
  match x, y with
  | .nan, .nan => false
  | .nan, _ => true
  | _, .nan => false
  | .inf _, .inf _ => false
  | .inf _, _ => true
  | _, .inf _ => false
  | .fin _ m e, .fin _ n d => Exact.magGt m e n d

/-- The place of the largest of the values listed, the lowest on equal magnitude, other than a place left out. -/
def largest (fmt : Nat) (vs : List Nat) (skip : Option Nat) : Nat :=
  ((List.range 4).foldl (fun (b : Option Nat) i =>
    if some i = skip then b
    else match b with
      | none => some i
      | some j => if ranksAbove (fmtNum fmt (vs[i]?.getD 0)) (fmtNum fmt (vs[j]?.getD 0)) then some i else b) none).getD 0

/-- Two kept values and the metadata byte of a group of four. -/
def keepTwo (fmt : Nat) (vs : List Nat) : Nat × Nat × Nat :=
  let p := largest fmt vs none
  let q := largest fmt vs (some p)
  let lo := min p q
  let hi := max p q
  (vs[lo]?.getD 0, vs[hi]?.getD 0, lo + 4 * hi)

/-- The segment (i, sg) of 40 bytes, as a number. -/
def MRun.segment (r : MRun) (m : Memory) (cid i sg : Nat) : Nat :=
  (List.range 8).foldl (fun n g =>
    let vs := (List.range 4).map (fun x => winRead m cid (descAddr r.a r.mda i (32 * sg + 4 * g + x)) 2)
    let k := keepTwo (descFmt r.mda) vs
    n + k.1 * 2 ^ (32 * g) + k.2.1 * 2 ^ (32 * g + 16) + k.2.2 * 2 ^ (8 * (32 + g))) 0

/-- `mcmp`: the operand is read whole before the segments are written. -/
def MRun.compress (r : MRun) (m : Memory) (cid : Nat) : Memory :=
  (List.range 32).foldl (fun (n : Memory) i => (List.range (r.k / 32)).foldl (fun (n : Memory) sg =>
    winWrite n cid (cmpAddr r.b r.k i sg) 40 (r.segment m cid i sg)) n) m

end Sys2Proof.Machine
end

