-- ==== Sys2Proof/Machine/Sampled.lean ====
section
/-! DEFINITION. Sampled products: major 29 ops 9 to 13, and the three sampled runs (R271 to R281). -/

namespace Sys2Proof.Machine
open Bits Tables

/-! ### Instructions (R272 to R279) -/

def scfgTau (c : Word) : Nat := wfld c 63 32
def scfgStream (c : Word) : Bool := wbit c 31
def scfgStr (c : Word) : Nat := wfld c 30 29
def scfgMin (c : Word) : Nat := wfld c 28 20
/-- K, from KM1. -/
def scfgK (c : Word) : Nat := wfld c 11 0 + 1

/-- `mstop` (R274). -/
def State.sampleStop (s : State) (a b : GReg) : Step :=
  s.getG a fun x s => s.getG b fun y s =>
  s.mxCfg (wfld x 19 12 == 0 && !(Exact.isNan (Exact.ofBits Exact.f32 (scfgTau x))) && !wbit x 63 && scfgMin x ≤ 256 &&
    (scfgStream x || scfgStr x == 0)) fun s =>
  .next (s.modRegs (fun r => { r with sampled := { r.sampled with scfg := x, sgen := y } }))

/-- var := rne(SM2 / (SCNT - 1)) from two samples on, else +0 (R277, R279). -/
def variance (m2 n : Nat) : Nat :=
  if n < 2 then 0 else Exact.round Exact.f32 .rne false (Exact.div (Exact.ofBits Exact.f32 m2) (.fin false (n - 1) 0))

/-- `mvar` (R279). -/
def Sampled.view (x : Sampled) (sel : Nat) : Word :=
  match sel with
  | 0 => BitVec.ofNat 64 (x.sw.toNat * 2 ^ 32 + b2n x.valid * 2 ^ 31 + b2n x.early * 2 ^ 30 + x.scnt % 512)
  | 1 => x.smean.setWidth 64
  | 2 => BitVec.ofNat 64 (variance x.sm2.toNat x.scnt)
  | _ => x.sgen

/-- FP16 twice or BF16 twice, A not compressed, B from the scratchpad (R278). -/
def sampledFormats (fa fb : Word) : Bool :=
  descFmt fa == descFmt fb && descFmt fa ≤ 1 && !descCmp fa && !descSrc fb

/-- The run limit (R262, R280). -/
def runLimit : Nat := 4096

/-- Spans of the norm records, and of the table. -/
def recordSpans (base k : Nat) : List (Nat × Nat) := (List.range k).map (fun i => ((base + 16 * i) % 2 ^ 48, 16))
def tableSpans (base k : Nat) : List (Nat × Nat) := (List.range k).map (fun i => ((base + 4 * i) % 2 ^ 48, 4))

/-- `mnorm` (R275, R280). -/
def State.sampleNorm (s : State) (d a b : GReg) : Step :=
  s.getG a fun x s => s.getG b fun y s => s.getG d fun z s =>
  let fa := s.regs.mda
  let fb := s.regs.mdb
  let k := scfgK s.regs.sampled.scfg
  s.mxCfg (sampledFormats fa fb && 8 + max k (ceilDiv (112 * k) 64) ≤ runLimit) fun s =>
  alignAll [(x.toNat, 2), (y.toNat, 2), (z.toNat, 16)] <|
  let rd := descSpans x fa 32 k ++ descSpans y fb 16 k
  s.spansOk .loadXlate rd <|
  s.spansOk .storeXlate (recordSpans z.toNat k) <|
  s.enqueueRun (rd ++ recordSpans z.toNat k) 9 0 x y z false k

/-- `malias` (R276, R280). -/
def State.sampleAlias (s : State) (a : GReg) : Step :=
  s.getG a fun x s =>
  let k := scfgK s.regs.sampled.scfg
  let snr := s.regs.sampled.snr.toNat
  s.mxCfg (8 + ceilDiv k 2 + ceilDiv (20 * k) 64 ≤ runLimit) fun s =>
  alignAll [(snr, 16), (x.toNat, 4)] <|
  s.spansOk .loadXlate (recordSpans snr k) <|
  s.spansOk .storeXlate (tableSpans x.toNat k) <|
  s.enqueueRun (recordSpans snr k ++ tableSpans x.toNat k) 10 0 x 0 0 false k

/-- The stream that `msmp` draws from (R272). -/
def State.drawStream (s : State) (x : Sampled) : Option Stream := (s.regs.streams.toList[scfgStr x.scfg]?).join

/-- The stream checks of `msmp` (R190, R278 item 4). -/
def State.drawsOk (s : State) (x : Sampled) (n : Nat) (k : Step) : Step :=
  if !scfgStream x.scfg then k
  else
    match s.drawStream x with
    | none => s.trapW .mxConfig
    | some t =>
      if t.count < t.next + n then trap .streamFault (16 + scfgStr x.scfg)
      else if (List.range n).any (fun i => !s.elemOk t (t.next + i)) then trap .streamFault (48 + scfgStr x.scfg)
      else k

/-- `msmp` (R277, R278). -/
def State.sample (s : State) (t : Tile) (a b : GReg) (sat : Bool) (kf : BitVec 8) : Step :=
  s.getG a fun x s => s.getG b fun y s =>
  let fa := s.regs.mda
  let fb := s.regs.mdb
  let p := s.regs.sampled
  let n := kf.toNat + 1
  let bound := match s.drawStream p with
    | none => false
    | some u => !u.isOut
  s.mxCfg (p.valid && sampledFormats fa fb && (!scfgStream p.scfg || bound)) fun s =>
  alignAll [(x.toNat, 2), (y.toNat, 2)] <|
  let rd := descSpans x fa 32 p.sk ++ descSpans y fb 16 p.sk ++ tableSpans p.stb.toNat p.sk ++ recordSpans p.snr.toNat p.sk
  s.spansOk .loadXlate rd <|
  s.drawsOk p n <|
  s.countOk t.val <|
  s.enqueueRun rd 11 t.val x y 0 sat n

def execMnorm (d a b : GReg) (s : State) : Host.Outcome State Fault Refusal :=
  runWord s (s.needs .m (s.sampleNorm d a b))
def execMalias (a : GReg) (s : State) : Host.Outcome State Fault Refusal := runWord s (s.needs .m (s.sampleAlias a))
def execMsmp (t : Tile) (a b : GReg) (sat : Bool) (k : BitVec 8) (s : State) : Host.Outcome State Fault Refusal :=
  runWord s (s.needs .m (s.sample t a b sat k))
def execMvar (d : GReg) (sel : Fin 4) (s : State) : Host.Outcome State Fault Refusal :=
  runWord s (s.needs .m (s.putG d (s.regs.sampled.view sel.val)))
def execMstop (a b : GReg) (s : State) : Host.Outcome State Fault Refusal :=
  runWord s (s.needs .m (s.sampleStop a b))

/-! ### The norm pass (R275) -/

def negZero : Exact.Val := .fin true 0 0
def sumOf (xs : List Exact.Val) : Exact.Val := xs.foldl (Exact.add false) negZero
def rnd32 (x : Exact.Val) : Nat := Exact.round Exact.f32 .rne false x
def val32 (n : Nat) : Exact.Val := Exact.ofBits Exact.f32 n
/-- (-1)^bit times a value. -/
def signed (bit : Bool) (x : Exact.Val) : Exact.Val := if bit then Exact.neg x else x

/-- The record of index k, as a number of 16 bytes. -/
def MRun.norm (r : MRun) (m : Memory) (cid k : Nat) : Nat :=
  let p := r.sampled.sgen
  let as := (List.range 32).map (fun i => r.elemA m cid i k)
  let bs := (List.range 16).map (fun j => r.elemB m cid k j)
  let sq (xs : List Exact.Val) : Nat := rnd32 (Exact.sqrt (sumOf (xs.map (fun x => Exact.mul x x))))
  let pr (off : Nat) (xs : List Exact.Val) : Nat :=
    rnd32 (sumOf ((List.range xs.length).zipWith (fun i x => signed (wbit p (off + i)) x) xs))
  sq as + 2 ^ 32 * sq bs + 2 ^ 64 * pr 0 as + 2 ^ 96 * pr 32 bs

def MRun.norms (r : MRun) (m : Memory) (cid : Nat) : Memory :=
  (List.range r.k).foldl (fun (n : Memory) k =>
    winWrite n cid ((r.d.toNat + 16 * k) % 2 ^ 48) 16 (r.norm m cid k)) m

/-! ### The raffle table (R276) -/

/-- Word w of record k. -/
def normWord (m : Memory) (cid snr k w : Nat) : Nat := winRead m cid ((snr + 16 * k + 4 * w) % 2 ^ 48) 4
/-- w[k] (R276). -/
def weight (m : Memory) (cid snr k : Nat) : Nat :=
  rnd32 (Exact.mul (val32 (normWord m cid snr k 0)) (val32 (normWord m cid snr k 1)))

/-- Finite non-negative values as integers at one scale. -/
def mantissas (xs : List Exact.Val) : List Nat :=
  let lo := xs.foldl (fun (b : Int) x => match x with
    | .fin _ m e => if m = 0 then b else min b e
    | _ => b) 0
  xs.map (fun x => match x with
    | .fin _ m e => if m = 0 then 0 else m * 2 ^ (e - lo).toNat
    | _ => 0)

/-- The queues of the construction: index and q, and the entries made (index, threshold, alias). -/
def raffle : Nat → List (Nat × Nat) → List (Nat × Nat) → List (Nat × Nat × Nat) → List (Nat × Nat × Nat)
  | n + 1, (s, qs) :: ss, (l, ql) :: ls, out =>
    let q := ql - (65536 - qs)
    if q < 65536 then raffle n (ss ++ [(l, q)]) ls ((s, qs, l) :: out)
    else raffle n ss ((l, q) :: ls) ((s, qs, l) :: out)
  | _, _, ls, out => ls.map (fun x => (x.1, 65536, x.1)) ++ out

/-- The shares q[k], with the remainder given to the lowest of the largest (R276). -/
def shares (ws : List Nat) : List Nat :=
  let k := ws.length
  let sum := ws.foldl (· + ·) 0
  let q := ws.map (fun w => 65536 * k * w / sum)
  let top := q.foldl max 0
  let rest := 65536 * k - q.foldl (· + ·) 0
  match findIdx (· == top) q with
  | none => q
  | some (i, x) => setAt q i (x + rest)

def table (ws : List Nat) : List (Nat × Nat × Nat) :=
  let q := (List.range ws.length).zip (shares ws)
  raffle ws.length (q.filter (fun x => x.2 < 65536)) (q.filter (fun x => 65536 ≤ x.2)) []

/-- The end of `malias`: memory and the sampled registers. -/
def MRun.buildTable (r : MRun) (m : Memory) (cid : Nat) (x : Sampled) : Memory × Sampled :=
  let ws := (List.range r.k).map (fun k => val32 (weight m cid r.sampled.snr.toNat k))
  let wx := ws.foldl (Exact.add false) (.fin false 0 0)
  let w := rnd32 wx
  if ws.any (fun v => Exact.isNan v || Exact.isInf v || Exact.lt v (.fin false 0 0)) || Exact.isZero wx || Exact.isInf (val32 w) then
    (m, { x with valid := false, sw := BitVec.ofNat 32 w })
  else
    ((table (mantissas ws)).foldl (fun (n : Memory) e =>
        winWrite n cid ((r.a.toNat + 4 * e.1) % 2 ^ 48) 4 (e.2.2 * 2 ^ 20 + e.2.1)) m,
      { x with stb := BitVec.ofNat 64 (wfld r.a 47 0), sk := r.k, sw := BitVec.ofNat 32 w, valid := true })

/-! ### The draws (R277) -/

/-- A draw: its index and weight. -/
structure Draw where
  k : Nat
  g : Nat
  deriving DecidableEq, Repr

/-- The walk through the draws: generator, stream, the draws so far (latest first), Welford's mean and m2, early stop. -/
structure Draws where
  gen : Word
  stream : Option Stream
  out : List Draw
  mean : Nat
  m2 : Nat
  early : Bool
  deriving DecidableEq, Repr

/-- The stream after a pop of the run (R189, R277). -/
def Stream.popped (m : Memory) (cid : Nat) (t : Stream) : Stream :=
  let j := t.next + 4
  { t with
    next := t.next + 1
    ahead := t.ahead.tail ++ (if j < t.count then [BitVec.ofNat 64 (if isWin (t.addr j) then winRead m cid (t.addr j) t.esize else 0)] else []) }

/-- The next random word (R277): from the generator, or popped. -/
def Draws.random (d : Draws) (m : Memory) (cid : Nat) : Nat × Draws :=
  match d.stream with
  | some t => (wfld (t.ahead.headD 0) 31 0, { d with stream := some (t.popped m cid) })
  | none =>
    let g := d.gen * 0xD1B54A32D192ED05 + 0x9E3B
    (wfld g 63 32, { d with gen := g })

/-- The index drawn (R277). -/
def drawIndex (m : Memory) (cid stb sk r : Nat) : Nat :=
  let i := r / 65536 * sk / 65536
  let e := winRead m cid ((stb + 4 * i) % 2 ^ 48) 4
  if r % 65536 < e % 2 ^ 17 then i else e / 2 ^ 20 % sk

/-- The weight of a draw as a divisor: a w[k] of −0 counts as zero, so that SW / w[k] is +∞ (R276, R277). -/
def divisor (w : Nat) : Exact.Val := if Exact.isZero (val32 w) then .fin false 0 0 else val32 w

/-- One draw and its probe. -/
def MRun.draw (r : MRun) (m : Memory) (cid : Nat) (d : Draws) : Draws :=
  let p := r.sampled
  let snr := p.snr.toNat
  let q := d.random m cid
  let k := drawIndex m cid p.stb.toNat p.sk q.1
  let g := rnd32 (Exact.div (val32 p.sw.toNat) (divisor (weight m cid snr k)))
  let y := rnd32 (Exact.mul (Exact.mul (val32 g) (val32 (normWord m cid snr k 2))) (val32 (normWord m cid snr k 3)))
  let n := d.out.length + 1
  let d1 := rnd32 (Exact.sub false (val32 y) (val32 d.mean))
  let mean := rnd32 (Exact.add false (val32 d.mean) (val32 (rnd32 (Exact.div (val32 d1) (.fin false n 0)))))
  let d2 := rnd32 (Exact.sub false (val32 y) (val32 mean))
  let m2 := rnd32 (Exact.add false (val32 d.m2) (val32 (rnd32 (Exact.mul (val32 d1) (val32 d2)))))
  let v := rnd32 (Exact.div (val32 (variance m2 n)) (.fin false n 0))
  { q.2 with
    out := ⟨k, g⟩ :: d.out, mean := mean, m2 := m2
    early := 2 ≤ n && scfgMin p.scfg ≤ n && Exact.le (val32 v) (val32 (scfgTau p.scfg)) }

def MRun.drawAll (r : MRun) (m : Memory) (cid : Nat) : Nat → Draws → Draws
  | 0, d => d
  | n + 1, d =>
    let e := r.draw m cid d
    if e.early then e else r.drawAll m cid n e

/-- The draws accumulated into the tile in their order, then the division by their number (R277). -/
def MRun.sampleTile (r : MRun) (m : Memory) (cid : Nat) (ds : List Draw) (c : Core) : Core :=
  let g := groupOf r.key
  let t := (tileEntries 0 r.tile).foldl (fun (t : Tally) e =>
    let i := rowOf 0 e
    let j := colOf 0 e
    t.put g e (fun o =>
      let x := r.accumulate o (ds.map (fun d => Exact.mul (Exact.mul (val32 d.g) (r.elemA m cid i d.k)) (r.elemB m cid d.k j)))
      ⟨Exact.round Exact.a36 .rne r.sat (Exact.div (Exact.ofBits Exact.a36 x.bits) (.fin false ds.length 0)), x.excess⟩)) ⟨c, 0, 0⟩
  t.core.count g r.tile t.sat t.nan 0

end Sys2Proof.Machine
end

