-- ==== Sys2Proof/Machine/Links.lean ====
section
/-! DEFINITION. The link instructions of major 30, and the steps of the matrix engine and of the near mesh (R260 to R265). -/

namespace Sys2Proof.Machine
open Bits Tables

/-! ### Link lanes (R264) -/

/-- Words in a lane of a slot, or on their way to it. -/
def State.laneLoad (s : State) (key : Nat) (l : Nat) : Nat :=
  (((s.slot key).lanes.toList[l]?).getD []).length +
    (s.linkNet.filter (fun i => i.key == key && i.lane.code == l && i.unit.isNone)).length

/-- The slot and end where a push on a link end arrives. -/
def State.laneAcross (s : State) (o : Link) : Option (Nat × Link) :=
  match s.partner s.cid s.booth o.code with
  | none => none
  | some p => (Link.ofCode (s.partnerEnd s.cid s.booth o.code p)).map (fun l => (p * 16 + slotOf s.cur, l))

/-- A push: MX_CONFIG without a partner, and parked while the partner's lane is full. -/
def State.pushLane (s : State) (o : Link) (w : Word) (k : State → Step) : Step :=
  match s.laneAcross o with
  | none => s.trapW .mxConfig
  | some (key, l) =>
    if 8 ≤ s.laneLoad key l.code then .retry (.laneFull o)
    else k { s with linkNet := s.linkNet ++ [(⟨key, l, w, none⟩ : LinkItem)] }

/-- A pop: MX_CONFIG without a partner, and parked while the lane is empty, or an earlier posted access of the thread is not performed
(R267: every store is kept before a pop). -/
def State.popLane (s : State) (i : Link) (k : Word → State → Step) : Step :=
  if (s.partner s.cid s.booth i.code).isNone then s.trapW .mxConfig
  else
    let x := s.slot s.cur
    match (x.lanes.toList[i.code]?).getD [] with
    | [] => .retry (.laneEmpty i)
    | w :: ws =>
      if s.storesFly s.uid then .retry .stores
      else k w (s.setSlot s.cur { x with lanes := Vector.ofFn (fun j => if j.val = i.code then ws else x.lanes[j]) }).wakeFull

/-- `lrd` (R264). -/
def State.linkRead (s : State) (d : GReg) (i : Link) : Step :=
  s.checkDest d fun s => s.popLane i fun w t => t.putG d w
/-- `lwr` (R264). -/
def State.linkWrite (s : State) (o : Link) (a : GReg) : Step := s.getG a fun x s => s.pushLane o x fun t => .next t
/-- `lrf` (R264): a missing partner is reported before either lane is looked at, and neither the pop nor the push happens
before both can. -/
def State.linkForward (s : State) (d : GReg) (i o : Link) : Step :=
  if (s.partner s.cid s.booth i.code).isNone || (s.laneAcross o).isNone then s.trapW .mxConfig
  else s.checkDest d fun s => s.popLane i fun w t =>
    match s.pushLane o w (fun u => .next u) with
    | .next _ => t.pushLane o w fun u => u.putG d w
    | r => r

def execLrd (d : GReg) (i : Link) (s : State) : Host.Outcome State Fault Refusal :=
  runWord s (s.needs .m (s.linkRead d i))
def execLrf (d : GReg) (i o : Link) (s : State) : Host.Outcome State Fault Refusal :=
  runWord s (s.needs .m (s.linkForward d i o))
def execLwr (o : Link) (a : GReg) (s : State) : Host.Outcome State Fault Refusal :=
  runWord s (s.needs .m (s.linkWrite o a))

/-! ### Starting a run (R261) -/

/-- The oldest request of the first group, in rotation from the one after the last run's, that has a request. -/
def Core.nextRequest (c : Core) : Option MRun :=
  ((List.range 4).map (fun i => (c.mlast + 1 + i) % 4)).findSome? (fun g => c.mreqs.find? (fun r => groupOf r.key == g))

/-- The free engine starts its next request; NBV.MODE is read (R99, R261). -/
def State.startRun (s : State) (cid : Nat) : Option State :=
  let c := s.core cid
  if c.mrun.isSome || c.lost then none
  else
    match c.nextRequest with
    | none => none
    | some r =>
      some (s.setCore cid { c with
        mreqs := c.mreqs.erase r
        mlast := groupOf r.key
        mrun := some { r with since := s.cycle, mode := (s.regsOf r.uid).nbv } })

/-! ### The operand ring (R254, R265) -/

/-- Operand units in opb of a slot, or on their way to it. -/
def State.opbLoad (s : State) (key : Nat) : Nat :=
  (s.slot key).opb.length + (s.linkNet.filter (fun i => i.key == key && i.unit.isSome)).length

/-- Unit u of B as a run reads it from the scratchpad (R265). -/
def MRun.unitAt (r : MRun) (m : Memory) (cid u : Nat) : List Byte :=
  if descFmt r.mdb = 2 then bytesOf 32 (winRead m cid (descAddr r.b r.mdb (u % 32) (u / 32)) 32)
  else (List.range 16).flatMap (fun j => bytesOf 2 (winRead m cid (descAddr r.b r.mdb j u) 2))

/-- The next unit of B, if there is one, with the state that has given it up. -/
def State.takeUnit (s : State) (cid : Nat) (r : MRun) : Option (List Byte × State) :=
  if descSrc r.mdb then
    let x := s.slot r.key
    match x.opb with
    | [] => none
    | u :: us => some (u, s.setSlot r.key { x with opb := us })
  else some (r.unitAt s.mem cid r.units.length, s)

/-- A forwarding run sends a unit to the east partner, if its opb has a place. -/
def State.sendUnit (s : State) (cid : Nat) (r : MRun) (u : List Byte) : Option State :=
  if r.op ≠ 8 then some s
  else
    match s.partner cid r.booth 1 with
    | none => some s
    | some p =>
      let key := p * 16 + slotOf r.key
      if 32 ≤ s.opbLoad key then none
      else some { s with linkNet := s.linkNet ++ [(⟨key, .w, 0, some u⟩ : LinkItem)] }

/-- The run takes units as far as the ring lets it. -/
def State.pumpGo (cid : Nat) : Nat → State → MRun → State × MRun
  | 0, s, r => (s, r)
  | n + 1, s, r =>
    if r.total ≤ r.units.length then (s, r)
    else
      match s.takeUnit cid r with
      | none => (s, r)
      | some (u, t) =>
        match t.sendUnit cid r u with
        | none => (s, r)
        | some v => State.pumpGo cid n v { r with units := r.units ++ [u] }

def State.pump (s : State) (cid : Nat) : State :=
  match (s.core cid).mrun with
  | none => s
  | some r =>
    let p := State.pumpGo cid r.total s r
    p.1.setCore cid { p.1.core cid with mrun := some p.2 }

/-! ### The end of a run (R243, R245, R260, R262) -/

/-- k steps completed by the units at hand: whole steps, blocks, or groups of four of compressed A (R262). -/
def MRun.steps (r : MRun) : Nat :=
  if r.byUnits then
    (if descFmt r.mda = 2 then 32 * (r.units.length / 32) else if descCmp r.mda then 4 * (r.units.length / 4) else r.units.length)
  else r.k

/-- The memory, core and slot-owned registers that a run leaves, with its STEPS. -/
structure RunEnd where
  mem : Memory
  core : Core
  regs : SlotRegs
  steps : Nat
  deriving DecidableEq, Repr

def MRun.result (r : MRun) (m : Memory) (cid : Nat) (c : Core) (x : SlotRegs) : RunEnd :=
  match r.op with
  | 1 => ⟨m, r.zero c, x, 0⟩
  | 3 => let p := r.store m cid c; ⟨p.1, p.2, x, 0⟩
  | 6 => ⟨r.compress m cid, c, x, 0⟩
  | 9 =>
    ⟨r.norms m cid, c, { x with sampled := { x.sampled with snr := BitVec.ofNat 64 (wfld r.d 47 0), valid := false } }, 0⟩
  | 10 => let p := r.buildTable m cid x.sampled; ⟨p.1, c, { x with sampled := p.2 }, 0⟩
  | 11 =>
    let i := scfgStr r.sampled.scfg
    let st := if scfgStream r.sampled.scfg then (x.streams.toList[i]?).join else none
    let d := r.drawAll m cid r.k ⟨r.sampled.sgen, st, [], 0, 0, false⟩
    let n := d.out.length
    let x1 := { x with sampled := { x.sampled with
      sgen := d.gen, scnt := n, early := d.early, smean := BitVec.ofNat 32 d.mean, sm2 := BitVec.ofNat 32 d.m2 } }
    ⟨m, r.sampleTile m cid d.out.reverse c,
      if st.isSome then { x1 with streams := Vector.ofFn (fun j => if j.val = i then d.stream else x1.streams[j]) } else x1, n⟩
  | _ => ⟨m, r.product m cid r.steps c, x, r.steps⟩

/-- MRS (R245). -/
def mrsWord (op : Nat) (ab : Bool) (steps : Nat) : Word := BitVec.ofNat 64 (op * 2 ^ 20 + b2n ab * 2 ^ 16 + steps)

/-- A run ends: its writes, the counters, MRS, and the end of its thread's wait, kept for a thread that is saved (R269). -/
def State.endRun (s : State) (cid : Nat) (r : MRun) (ab : Bool) : State :=
  let e := r.result s.mem cid (s.core cid) (s.regsOf r.uid)
  let s1 := ({ s with mem := e.mem }.setCore cid { e.core with mrun := none }).modRegsOf r.uid
    (fun _ => { e.regs with mrs := mrsWord r.op ab e.steps })
  if (s1.thread r.uid).map (·.wait) = some .run then s1.finish r.uid else s1

/-- The run goes as far as the ring lets it, and ends when nothing of it is left to take. -/
def State.advanceRun (s : State) (cid : Nat) : Option State :=
  let t := s.pump cid
  match (t.core cid).mrun with
  | none => none
  | some r =>
    if r.total ≤ r.units.length then some (t.endRun cid r false)
    else if (s.core cid).mrun == some r then none
    else some t

/-- A run that waits on the ring stops at the run limit (R262). -/
def State.limitRun (s : State) (cid : Nat) : Option State :=
  let t := s.pump cid
  match (t.core cid).mrun with
  | none => none
  | some r =>
    if r.units.length < r.total && r.since + runLimit ≤ s.cycle then some (t.endRun cid r true) else none

def execMatrixRunStart (cid : Nat) (s : State) : Host.Outcome State Fault Refusal :=
  event "MATRIX_RUN_START" ((s.startRun cid).map (fun t => t.pump cid))
def execMatrixRunEnd (cid : Nat) (s : State) : Host.Outcome State Fault Refusal :=
  event "MATRIX_RUN_END" (s.advanceRun cid)
def execMatrixRunLimit (cid : Nat) (s : State) : Host.Outcome State Fault Refusal :=
  event "MATRIX_RUN_LIMIT" (s.limitRun cid)

/-! ### Arrivals (R263 to R265) -/

/-- The n-th item on the links, when no earlier one goes to the same lane. -/
def State.linkItem (s : State) (n : Nat) : Option LinkItem :=
  match s.linkNet[n]? with
  | none => none
  | some i =>
    if (s.linkNet.take n).any (fun j => j.key == i.key && j.lane == i.lane && j.unit.isSome == i.unit.isSome) then none
    else some i

/-- A unit arrives in opb, and a run that waited for it goes on (R265). -/
def State.unitArrives (s : State) (n : Nat) : Option State :=
  match s.linkItem n with
  | some ⟨key, _, _, some u⟩ =>
    let x := s.slot key
    let s1 := { s with linkNet := dropAt s.linkNet n }.setSlot key { x with opb := x.opb ++ [u] }
    some (s1.pump (cidOf key))
  | _ => none

/-- A word arrives in its lane and wakes a parked reader (R264). -/
def State.wordArrives (s : State) (n : Nat) : Option State :=
  match s.linkItem n with
  | some ⟨key, l, w, none⟩ =>
    let x := s.slot key
    let s1 := { s with linkNet := dropAt s.linkNet n }.setSlot key
      { x with lanes := Vector.ofFn (fun j => if j.val = l.code then x.lanes[j] ++ [w] else x.lanes[j]) }
    some (s1.wake (fun _ t y => t.key == key && y == .laneEmpty l))
  | _ => none

def execOperandUnitArrival (n : Nat) (s : State) : Host.Outcome State Fault Refusal :=
  event "OPERAND_UNIT_ARRIVAL" (s.unitArrives n)
def execLinkWordArrival (n : Nat) (s : State) : Host.Outcome State Fault Refusal :=
  event "LINK_WORD_ARRIVAL" (s.wordArrives n)

end Sys2Proof.Machine
end

