-- ==== Sys2Proof/Machine/Platform.lean ====
section
/-! DEFINITION. Boot, attestation, engagement keys, signed export and power (R383 to R390, R397, R399). -/

namespace Sys2Proof.Machine
open Bits Tables

/-! ### Power (R383, R391, R395, R397, R399) -/

/-- The package of a global address. -/
def addrPkg (a : Nat) : Nat := if a < 2 ^ 64 then a / 2 ^ 52 else pkgOf ((a - 2 ^ 64) / 2 ^ 17)

def Memory.without (m : Memory) (p : Nat) : Memory :=
  { bytes := m.bytes.filter (fun e => addrPkg e.1 != p)
    full := m.full.filter (fun a => addrPkg a != p)
    blocks := m.blocks.filter (fun e => addrPkg e.1 != p)
    keys := m.keys.filter (fun e => addrPkg e.1 != p) }

/-- A table without the entries of a package. -/
def without {α : Type} (f : Nat → Nat) (p : Nat) (t : List (Nat × α)) : List (Nat × α) := t.filter (fun e => f e.1 != p)

/-- Everything that a package holds is gone but its fuses, its manufacturing map and what has failed in it (R383, R394, R395); a booth that reaches other packages has lost the
units that served it and resets there (R329). -/
def State.powerOff (s : State) (p : Nat) : State :=
  let ofCore (c : Nat) : Nat := pkgOf c
  let ofKey (k : Nat) : Nat := pkgOf (cidOf k)
  let ofBooth (n : Nat) : Nat := pkgOf (n / 64)
  let bs := (s.regions.filter (fun e => e.1 / 64 == p)).map (fun e => e.1 % 64)
  let kept := s.launches.filter (fun e => e.2.pkg != p)
  let s1 : State := { s with
    mem := s.mem.without p
    threads := s.threads.filter (fun e => ofKey e.2.key != p)
    slots := without ofKey p s.slots
    cores := without ofCore p s.cores
    booths := without ofBooth p s.booths
    maps := without (· / 64) p s.maps
    l2 := without (fun e => ofCore (e * 16)) p s.l2
    walks := s.walks.filter (fun w => ofCore (w.cluster * 16) != p)
    net := s.net.filter (fun m => nodeAddr m.src != p && nodeAddr m.dst != p)
    switches := s.switches.filter (fun e => !(levelNo e.1 == 3 && placeNo e.1 == p || levelNo e.1 == 2 && placeNo e.1 / 4 == p ||
      levelNo e.1 == 1 && placeNo e.1 / 32 == p || levelNo e.1 == 0 && ofCore (placeNo e.1 * 16) == p))
    feWait := s.feWait.filter (fun w => nodeAddr w.msg.src != p && ofCore w.msg.dst != p)
    agedWait := s.agedWait.filter (fun w => nodeAddr w.msg.src != p && ofCore w.msg.dst != p)
    stops := without ofBooth p s.stops
    rings := without ofBooth p s.rings
    watch := without (· / 1024) p s.watch
    uncredited := s.uncredited.filter (fun e => ofCore (e.1 / 2 ^ 32) != p && ofCore (e.1 % 2 ^ 32 / 64) != p)
    vqs := without (fun e => ofCore (e / 64 * 16)) p s.vqs
    turns := without (fun e => ofCore (e * 16)) p s.turns
    nturns := without (· / 4) p s.nturns
    pulses := s.pulses.filter (fun x => ofKey x.key != p)
    nqs := without (fun e => e / 64 / 4) p s.nqs
    ether := s.ether.filter (fun x => x.src / 4 != p && x.dst / 4 != p)
    etherLost := s.etherLost.filter (fun e => e / 16 != p)
    linkNet := s.linkNet.filter (fun x => ofKey x.key != p)
    stitch := without ofBooth p s.stitch
    launches := kept
    spawnQ := s.spawnQ.filter (fun x => (find kept x.launch).isSome)
    chans := without (fun e => ofBooth (e / 32)) p s.chans
    preempts := s.preempts.filter (fun x => ofKey x.key != p)
    images := without ofBooth p s.images
    spillAreas := without ofBooth p s.spillAreas
    receipts := s.receipts.filter (fun x => x.pkg != p)
    handovers := s.handovers.filter (fun e => e.2.pkg != p)
    areas := without (· / 2 ^ 48) p s.areas
    areaKeys := without (· / 2 ^ 48) p s.areaKeys
    areaBanks := without (· / 2 ^ 48) p s.areaBanks
    areaSlots := without (· / 2 ^ 48) p s.areaSlots
    pkgs := put s.pkgs p { Pkg.init with svn := (s.pkg p).svn, rails := (s.pkg p).rails }
    regions := without (· / 64) p s.regions
    boothPkgs := without (· / 64) p s.boothPkgs
    gangs := without (· / 64) p s.gangs
    repairs := s.repairs.filter (fun e => e.1.pkg != p)
    sparesUsed := without (fun e => ofCore (e * 16)) p s.sparesUsed
    rowsUsed := without ofCore p s.rowsUsed }
  bs.foldl (fun (t : State) b => t.freeze b) s1

/-- The boot ROM sends a boot request on the control channel to the host node that its straps name (R383). -/
def State.bootRequest (s : State) (p : Nat) (k : Pkg) : State :=
  (s.setPkg p { k with bootReq := k.bootReq + 1, bootAt := s.cycle }).inject
    (s.newMsg (pkgNode p) (hostNode (Config.bootHost p % 4096)) 0 0 0 4 .boot)

/-- The host has answered a package's boot requests. -/
def State.bootAnswered (s : State) (p : Nat) : State := { s with net := s.net.filter (fun m => !(m.body == .boot && m.src == pkgNode p)) }

/-- POWER_UP: the next rail of the order comes up. With the last one the in-field test runs, BOOTID is drawn, the journal starts at 1, and
the ROM sends its boot request (R383, R391, R395). -/
def State.powerUp (s : State) (p : Nat) (bootid : Word) : Option State :=
  let k := s.pkg p
  match railOrder[k.rails.length]? with
  | none => none
  | some r =>
    if 4096 ≤ p then none
    else
      let up := k.rails ++ [r]
      if up = railOrder then
        let k1 := { Pkg.init with rails := up, svn := k.svn, bootid := bootid }
        let t := (s.setPkg p k1).testPackage p
        some (t.bootRequest p (t.pkg p))
      else some (s.setPkg p { k with rails := up })

/-- The rail that came up last goes down; with the first to go, a powered package loses what it holds (R397). -/
def State.powerDown (s : State) (p : Nat) : Option State :=
  let rails := (s.pkg p).rails
  if rails.isEmpty then none
  else
    let t := if rails = railOrder then s.powerOff p else s
    some (t.setPkg p { t.pkg p with rails := rails.dropLast })

def execPowerUp (pkg : Nat) (bootid : Word) (s : State) : Host.Outcome State Fault Refusal :=
  event "POWER_UP" (s.powerUp pkg bootid)
def execPowerDown (pkg : Nat) (s : State) : Host.Outcome State Fault Refusal :=
  event "POWER_DOWN" (s.powerDown pkg)
/-- THERMAL_TRIP takes the package down as a power-down does, and nothing is journalled (R399). -/
def execThermalTrip (pkg : Nat) (s : State) : Host.Outcome State Fault Refusal :=
  event "THERMAL_TRIP" (s.powerDown pkg)

/-! ### Boot (R383 to R385) -/

/-- The boot stages of BOOTST. -/
def stageWaiting : Nat := 0
def stageReceiving : Nat := 1
def stageVerifying : Nat := 2
def stageRunning : Nat := 3

/-- The boot request goes out again 2^30 cycles after the last one, while no image has come that runs (R383). -/
def State.bootRetry (s : State) (p : Nat) : Option State :=
  let k := s.pkg p
  if s.powered p && k.stage = stageWaiting && k.bootAt + 2 ^ 30 ≤ s.cycle then some (s.bootRequest p k) else none

/-- n header bytes from an offset, lowest first. -/
def headField (h : List Byte) (off n : Nat) : Nat := ofBytes ((h.drop off).take n)
/-- ERR of the checks of R385, in their order; 0 when every check passes. -/
def imageError (svn : Nat) (h body : List Byte) : Nat :=
  if h.length ≠ 4096 || headField h 0 4 ≠ 0x4D384B31 || headField h 0xC 4 ≠ 0 || headField h 0xC44 956 ≠ 0 then 1
  else if headField h 0x10 8 = 0 || 2 ^ 28 < headField h 0x10 8 || headField h 0x10 8 ≠ body.length then 2
  else if (h.drop 0x20).take 48 ≠ sha384 body then 3
  else if !Config.ecdsaVerifies (h.take 0x50) ((h.drop 0x50).take 96) then 4
  else if !Config.hssVerifies (h.take 0x50) ((h.drop 0xB0).take 2964) then 5
  else if headField h 8 4 < svn then 6
  else 0

/-- The host writes an image into the package's reserved DRAM, under management's key (R383, R388). DESIGN CHOICE (log entry 43): where
that lies is the installation's; with no place named, the bytes stand in Pkg.image only. -/
def State.storeImage (s : State) (p : Nat) (bytes : List Byte) : State :=
  match find s.bootAreas p with
  | none => s
  | some a => s.modMem (fun m => (m.underAll a (s.keyId p 0) true (blocksOf a bytes.length)).write a bytes.length (ofBytes bytes))

/-- What comes of an image that has been verified: it runs, or the ROM asks again (R383, R385). -/
def State.judgeImage (s : State) (p : Nat) (h body : List Byte) : State :=
  let k := s.pkg p
  let e := imageError k.svn h body
  if e = 0 then s.setPkg p { k with stage := stageRunning, err := 0, version := headField h 4 4, entry := headField h 0x18 8 }
  else s.bootRequest p { k with stage := stageWaiting, err := e }

/-- IMAGE_RECEIVED: the image begins to arrive, has arrived whole, and has been verified: a stage each (R385). -/
def State.imageArrives (s : State) (p : Nat) (h body : List Byte) : Option State :=
  let k := s.pkg p
  if !s.powered p then none
  else if k.stage = stageWaiting then
    some (((s.bootAnswered p).setPkg p { k with stage := stageReceiving, image := h ++ body }).storeImage p (h ++ body))
  else if k.image ≠ h ++ body then none
  else if k.stage = stageReceiving then some (s.setPkg p { k with stage := stageVerifying, tries := min 255 (k.tries + 1) })
  else if k.stage = stageVerifying then some (s.judgeImage p h body)
  else none

/-- BOOTST (R385). -/
def Pkg.bootst (k : Pkg) : Word := BitVec.ofNat 64 (k.err * 2 ^ 24 + k.tries * 2 ^ 16 + k.stage)

/-- SVN_RAISE: running firmware raises the fused SVN; it never falls (R385). -/
def State.raiseSvn (s : State) (p : Nat) (svn : Half) : Option State :=
  let k := s.pkg p
  if s.powered p && k.stage = stageRunning then some (s.setPkg p { k with svn := max k.svn svn.toNat }) else none

def execBootRequestRetry (pkg : Nat) (s : State) : Host.Outcome State Fault Refusal :=
  event "BOOT_REQUEST_RETRY" (s.bootRetry pkg)
def execImageReceived (pkg : Nat) (header body : List Byte) (s : State) : Host.Outcome State Fault Refusal :=
  event "IMAGE_RECEIVED" (s.imageArrives pkg header body)
def execSvnRaise (pkg : Nat) (svn : Half) (s : State) : Host.Outcome State Fault Refusal :=
  event "SVN_RAISE" (s.raiseSvn pkg svn)

/-! ### Attestation (R386, R387) -/

/-- A request to the controller of a powered package, answered with a new session state, or refused. -/
def State.colxo (s : State) (p : Nat) (r : Pkg → Option (Spdm × Reply)) : Option State :=
  let k := s.pkg p
  if !s.powered p then none
  else some (s.setPkg p (match r k with
    | some (x, l) => { k with spdm := x, reply := l }
    | none => { k with reply := .refused }))

/-- The versions of SPDM that the controller speaks, and its only algorithms (R386). -/
def spdmVersions : List (Nat × Nat) := [(1, 2), (1, 3)]
def spdmAlgs : List SpdmAlg := [.ecdsaP384, .sha384, .secp384r1, .aes256Gcm]

/-- The bytes of an entry of the repair map: its kind, the unit and the spare. DESIGN CHOICE (log entry 68): the spec gives no layout. -/
def repairEntry (e : RepairUnit × Nat) : List Byte :=
  (match e.1 with
    | .core c => bytesOf 8 0 ++ bytesOf 8 (c * 16)
    | .row a => bytesOf 8 1 ++ bytesOf 8 a
    | .lane _ q l => bytesOf 8 2 ++ bytesOf 8 (q * 2 ^ 8 + l)) ++ bytesOf 8 e.2

/-- The package's repair map: the units that a spare stands for, each with its spare; every other unit stands for itself (R387, R395). -/
def State.repairBytes (s : State) (p : Nat) : List Byte := (s.repairs.filter (fun e => e.1.pkg == p)).flatMap repairEntry

/-- The booth table's bytes: of each booth its region, slot groups and tenant identifier. -/
def State.boothTable (s : State) (p : Nat) : List Byte :=
  (s.regions.filter (fun e => e.1 / 64 == p)).flatMap (fun e =>
    bytesOf 8 (e.1 % 64) ++ bytesOf 8 e.2.tenant.toNat ++ bytesOf 8 e.2.groups ++ e.2.cores.flatMap (bytesOf 8))

/-- The measurement blocks 1 to 5 (R387). -/
def State.measurement (s : State) (p : Nat) (i : Nat) : List Byte :=
  match i with
  | 1 => sha384 (Config.deviceBytes p 0)
  | 2 => sha384 (if (s.pkg p).stage = stageRunning then (s.pkg p).image else [])
  | 3 => bytesOf 4 (s.pkg p).svn ++ Config.deviceBytes p 1
  | 4 => sha384 (s.repairBytes p)
  | _ => sha384 (s.boothTable p)

def State.measurements (s : State) (p : Nat) : List Byte := [1, 2, 3, 4, 5].flatMap (s.measurement p)

def certChain (p : Nat) : List Byte := Config.deviceBytes p 2

/-- GET_VERSION starts the exchange afresh. -/
def execGetVersion (pkg : Nat) (s : State) : Host.Outcome State Fault Refusal :=
  event "GET_VERSION" (s.colxo pkg fun _ => some ({ Spdm.init with version := true }, .versions spdmVersions))
def execGetCapabilities (pkg : Nat) (s : State) : Host.Outcome State Fault Refusal :=
  event "GET_CAPABILITIES" (s.colxo pkg fun k =>
    if k.spdm.version then some ({ k.spdm with caps := true }, .bytes (Config.deviceBytes pkg 3)) else none)
/-- The controller takes its only algorithms, where the requester offers them all (R386). -/
def execNegotiateAlgorithms (x : AlgRequest) (s : State) : Host.Outcome State Fault Refusal :=
  event "NEGOTIATE_ALGORITHMS" (s.colxo x.pkg fun k =>
    if k.spdm.caps && spdmAlgs.all x.offer.contains then some ({ k.spdm with algs := true }, .algorithms spdmAlgs) else none)
/-- Slot 0 holds the only certificate chain. -/
def execGetDigests (pkg : Nat) (s : State) : Host.Outcome State Fault Refusal :=
  event "GET_DIGESTS" (s.colxo pkg fun k =>
    if k.spdm.algs then some (k.spdm, .bytes (sha384 (certChain pkg))) else none)
def execGetCertificate (pkg slot : Nat) (s : State) : Host.Outcome State Fault Refusal :=
  event "GET_CERTIFICATE" (s.colxo pkg fun k => if k.spdm.algs && slot == 0 then some (k.spdm, .bytes (certChain pkg)) else none)
def execChallenge (pkg slot nonce : Nat) (s : State) : Host.Outcome State Fault Refusal :=
  event "CHALLENGE" (s.colxo pkg fun k =>
    if k.spdm.algs && slot == 0 then
      let b := sha384 (certChain pkg) ++ bytesOf 32 nonce
      some (k.spdm, .bytes (b ++ (Config.ecdsaSigns pkg b).toList))
    else none)
def execGetMeasurements (pkg nonce : Nat) (s : State) : Host.Outcome State Fault Refusal :=
  event "GET_MEASUREMENTS" (s.colxo pkg fun k =>
    if k.spdm.algs then
      let b := s.measurements pkg ++ bytesOf 32 nonce
      some (k.spdm, .bytes (b ++ (Config.ecdsaSigns pkg b).toList))
    else none)
def execKeyExchange (pkg peer : Nat) (s : State) : Host.Outcome State Fault Refusal :=
  event "KEY_EXCHANGE" (s.colxo pkg fun k =>
    if k.spdm.algs then some ({ k.spdm with keyed := true, secured := false }, .bytes (Config.exchange pkg peer)) else none)
def execFinish (pkg verify : Nat) (s : State) : Host.Outcome State Fault Refusal :=
  event "FINISH" (s.colxo pkg fun k =>
    if k.spdm.keyed && Config.finishVerifies pkg verify then some ({ k.spdm with secured := true }, .bytes []) else none)
def execEndSession (pkg : Nat) (s : State) : Host.Outcome State Fault Refusal :=
  event "END_SESSION" (s.colxo pkg fun k =>
    if k.spdm.secured then some ({ k.spdm with keyed := false, secured := false }, .bytes []) else none)

/-! ### Engagement keys (R389) -/

/-- Whether a page mapping, a booth's spill areas and log rings, a handover under way or a save area names a key slot. -/
def State.keyNamed (s : State) (p slot : Nat) : Bool :=
  s.maps.any (fun e => e.1 / 64 == p && e.2.any (fun q => q.key == slot)) ||
    s.regions.any (fun e => e.1 / 64 == p && e.2.key == slot) ||
    s.handovers.any (fun e => e.2.pkg == p && (e.2.inKey == slot || e.2.outKey == slot)) ||
    s.areaKeys.any (fun e => e.1 / 2 ^ 48 == p && e.2 == slot)

/-- KEY_LOAD: only in a secured session, bound to a tenant, and into a slot that is not in use. -/
def execKeyLoad (pkg slot tenant key : Nat) (s : State) : Host.Outcome State Fault Refusal :=
  event "KEY_LOAD" (
    let k := s.pkg pkg
    if !s.powered pkg then none
    else if k.spdm.secured && slot < 64 && !s.keyLoaded pkg slot && !s.keyNamed pkg slot then
      some (s.setPkg pkg { k with
        keys := put k.keys slot (BitVec.ofNat 64 tenant, key % 2 ^ 512), reply := .bytes [] })
    else some (s.setPkg pkg { k with reply := .refused }))

/-- KEY_ERASE: refused for management's slot 0 and while anything names the slot. -/
def execKeyErase (pkg slot : Nat) (s : State) : Host.Outcome State Fault Refusal :=
  event "KEY_ERASE" (
    let k := s.pkg pkg
    if !s.powered pkg then none
    else if k.spdm.secured && slot ≠ 0 && !s.keyNamed pkg slot then
      some (s.setPkg pkg { k with keys := del k.keys slot, reply := .bytes [] })
    else some (s.setPkg pkg { k with reply := .refused }))

/-! ### Signed export (R390) -/

/-- The numbers of a range that are present in a ring: not yet overwritten (R213). -/
def Ring.present (g : Ring) (lo hi : Nat) : List Nat :=
  ((List.range (2 ^ g.k)).map (fun i => g.seq - 2 ^ g.k + i)).filter (fun n => 1 ≤ n && lo ≤ n && n ≤ hi && n < g.seq)

/-- The entries of a range, oldest first, as they read under the booth's key (R358, R388). -/
def State.exportBytes (s : State) (g : Ring) (key lo hi : Nat) : List Byte :=
  (g.present lo hi).flatMap (fun n =>
    let a := g.base + 32 * ((n - 1) % 2 ^ g.k)
    bytesOf 32 ((s.mem.under a key false).read a 32))

/-- The 128-byte trailer (R390): one word each of its numbers, in the order of the rule, then the digest, then zeroes. -/
def State.exportTrailer (s : State) (g : Ring) (key home booth lo hi : Nat) : List Byte :=
  bytesOf 8 (home * 16) ++ bytesOf 8 booth ++ bytesOf 8 lo ++ bytesOf 8 hi ++ bytesOf 8 (g.present lo hi).length ++
    bytesOf 8 g.count ++ bytesOf 8 s.cycle ++ sha384 (s.exportBytes g key lo hi) ++ bytesOf 24 0

/-- VENDOR_DEFINED_REQUEST: an export of the arrival log, in a secured session. -/
def execVendorDefinedRequest (pkg home booth lo hi : Nat) (s : State) : Host.Outcome State Fault Refusal :=
  event "VENDOR_DEFINED_REQUEST" (s.colxo pkg fun k =>
    match find s.rings (home * 64 + booth) with
    | none => none
    | some g =>
      if k.spdm.secured && pkgOf home == pkg then
        let key := s.boothKey pkg booth
        let t := s.exportTrailer g key home booth lo hi
        some (k.spdm, .bytes (s.exportBytes g key lo hi ++ t ++ bothSigns pkg t))
      else none)

end Sys2Proof.Machine
end

