-- ==== Sys2Proof/Machine/Dispatch.lean ====
section
/-! DEFINITION. The dispatch of every instruction and event to its meaning, one arm per constructor of Instr. -/

namespace Sys2Proof.Machine

def exec (i : Instr) (s : State) : Host.Outcome State Fault Refusal :=
  match i with
  | .nop => Sys2Proof.Machine.execNop s
  | .ecall => Sys2Proof.Machine.execEcall s
  | .brk => Sys2Proof.Machine.execBrk s
  | .tret => Sys2Proof.Machine.execTret s
  | .ifence => Sys2Proof.Machine.execIfence s
  | .csrr d c => Sys2Proof.Machine.execCsrr d c s
  | .csrw c a => Sys2Proof.Machine.execCsrw c a s
  | .csrs c a => Sys2Proof.Machine.execCsrs c a s
  | .csrc c a => Sys2Proof.Machine.execCsrc c a s
  | .jmp t => Sys2Proof.Machine.execJmp t s
  | .call t => Sys2Proof.Machine.execCall t s
  | .jr a => Sys2Proof.Machine.execJr a s
  | .callr a => Sys2Proof.Machine.execCallr a s
  | .beq a b t => Sys2Proof.Machine.execBeq a b t s
  | .bne a b t => Sys2Proof.Machine.execBne a b t s
  | .blt a b t => Sys2Proof.Machine.execBlt a b t s
  | .bge a b t => Sys2Proof.Machine.execBge a b t s
  | .blo a b t => Sys2Proof.Machine.execBlo a b t s
  | .bhs a b t => Sys2Proof.Machine.execBhs a b t s
  | .bkz k t => Sys2Proof.Machine.execBkz k t s
  | .bknz k t => Sys2Proof.Machine.execBknz k t s
  | .ld d a sz c e o => Sys2Proof.Machine.execLd d a sz c e o s
  | .st d a sz c o => Sys2Proof.Machine.execSt d a sz c o s
  | .ldf d a c o => Sys2Proof.Machine.execLdf d a c o s
  | .ldff d a c o => Sys2Proof.Machine.execLdff d a c o s
  | .fetst d a c o => Sys2Proof.Machine.execFetst d a c o s
  | .stf d a c o => Sys2Proof.Machine.execStf d a c o s
  | .stfill d a c o => Sys2Proof.Machine.execStfill d a c o s
  | .stemp a c o => Sys2Proof.Machine.execStemp a c o s
  | .lda d a m g o => Sys2Proof.Machine.execLda d a m g o s
  | .fetcha d a m g o => Sys2Proof.Machine.execFetcha d a m g o s
  | .pub d a b => Sys2Proof.Machine.execPub d a b s
  | .itset a => Sys2Proof.Machine.execItset a s
  | .itinc => Sys2Proof.Machine.execItinc s
  | .amo o d a b wide c => Sys2Proof.Machine.execAmo o d a b wide c s
  | .cas d a b wide c => Sys2Proof.Machine.execCas d a b wide c s
  | .fence sz => Sys2Proof.Machine.execFence sz s
  | .mig a => Sys2Proof.Machine.execMig a s
  | .migc a => Sys2Proof.Machine.execMigc a s
  | .tlook d a => Sys2Proof.Machine.execTlook d a s
  | .tset a b => Sys2Proof.Machine.execTset a b s
  | .tinv a => Sys2Proof.Machine.execTinv a s
  | .tage d a => Sys2Proof.Machine.execTage d a s
  | .pushCopy a b o r => Sys2Proof.Machine.execPushCopy a b o r s
  | .pushGather a b o r z => Sys2Proof.Machine.execPushGather a b o r z s
  | .pushScatter a b o r z => Sys2Proof.Machine.execPushScatter a b o r z s
  | .pushFill a b o r => Sys2Proof.Machine.execPushFill a b o r s
  | .pushFetcha a b o r => Sys2Proof.Machine.execPushFetcha a b o r s
  | .pushPublish a b o r => Sys2Proof.Machine.execPushPublish a b o r s
  | .pushReduce a b o x t => Sys2Proof.Machine.execPushReduce a b o x t s
  | .pushAbar a b o h => Sys2Proof.Machine.execPushAbar a b o h s
  | .pushArm a b => Sys2Proof.Machine.execPushArm a b s
  | .pushEpopen a b o => Sys2Proof.Machine.execPushEpopen a b o s
  | .pushWsend a b o => Sys2Proof.Machine.execPushWsend a b o s
  | .pushWwrite a b o => Sys2Proof.Machine.execPushWwrite a b o s
  | .pushWread a b o => Sys2Proof.Machine.execPushWread a b o s
  | .pushCtrset a b o => Sys2Proof.Machine.execPushCtrset a b o s
  | .pushCtrwait a b o => Sys2Proof.Machine.execPushCtrwait a b o s
  | .pop d p => Sys2Proof.Machine.execPop d p s
  | .ctrwait a p => Sys2Proof.Machine.execCtrwait a p s
  | .crcfg a => Sys2Proof.Machine.execCrcfg a s
  | .crcfgSet a => Sys2Proof.Machine.execCrcfgSet a s
  | .crcfgAdd a => Sys2Proof.Machine.execCrcfgAdd a s
  | .spawn a b => Sys2Proof.Machine.execSpawn a b s
  | .post a b => Sys2Proof.Machine.execPost a b s
  | .done => Sys2Proof.Machine.execDone s
  | .yield => Sys2Proof.Machine.execYield s
  | .send a b => Sys2Proof.Machine.execSend a b s
  | .chset d a b => Sys2Proof.Machine.execChset d a b s
  | .chclr d a b => Sys2Proof.Machine.execChclr d a b s
  | .resid a => Sys2Proof.Machine.execResid a s
  | .launch d a => Sys2Proof.Machine.execLaunch d a s
  | .mcfg a b => Sys2Proof.Machine.execMcfg a b s
  | .mzero t all => Sys2Proof.Machine.execMzero t all s
  | .mma t a b sz k => Sys2Proof.Machine.execMma t a b sz k s
  | .mst t a b => Sys2Proof.Machine.execMst t a b s
  | .mcnt d t sz => Sys2Proof.Machine.execMcnt d t sz s
  | .mclrTile t => Sys2Proof.Machine.execMclrTile t s
  | .mclrLatch l => Sys2Proof.Machine.execMclrLatch l s
  | .mcmp a b k => Sys2Proof.Machine.execMcmp a b k s
  | .mlink d r => Sys2Proof.Machine.execMlink d r s
  | .mrot t a b sz k => Sys2Proof.Machine.execMrot t a b sz k s
  | .mnorm d a b => Sys2Proof.Machine.execMnorm d a b s
  | .malias a => Sys2Proof.Machine.execMalias a s
  | .msmp t a b sz k => Sys2Proof.Machine.execMsmp t a b sz k s
  | .mvar d sz => Sys2Proof.Machine.execMvar d sz s
  | .mstop a b => Sys2Proof.Machine.execMstop a b s
  | .lrd d im => Sys2Proof.Machine.execLrd d im s
  | .lrf d im o => Sys2Proof.Machine.execLrf d im o s
  | .lwr o a => Sys2Proof.Machine.execLwr o a s
  | .vld v a b m k => Sys2Proof.Machine.execVld v a b m k s
  | .vst v a b m k => Sys2Proof.Machine.execVst v a b m k s
  | .vfence => Sys2Proof.Machine.execVfence s
  | .sbind sz a b => Sys2Proof.Machine.execSbind sz a b s
  | .sfree sz => Sys2Proof.Machine.execSfree sz s
  | .ssync => Sys2Proof.Machine.execSsync s
  | .add t d a b => Sys2Proof.Machine.execAdd t d a b s
  | .sub t d a b => Sys2Proof.Machine.execSub t d a b s
  | .mul t d a b => Sys2Proof.Machine.execMul t d a b s
  | .mulh t d a b => Sys2Proof.Machine.execMulh t d a b s
  | .mulhz t d a b => Sys2Proof.Machine.execMulhz t d a b s
  | .div t d a b => Sys2Proof.Machine.execDiv t d a b s
  | .divz t d a b => Sys2Proof.Machine.execDivz t d a b s
  | .rem t d a b => Sys2Proof.Machine.execRem t d a b s
  | .remz t d a b => Sys2Proof.Machine.execRemz t d a b s
  | .and t d a b => Sys2Proof.Machine.execAnd t d a b s
  | .or t d a b => Sys2Proof.Machine.execOr t d a b s
  | .xor t d a b => Sys2Proof.Machine.execXor t d a b s
  | .andn t d a b => Sys2Proof.Machine.execAndn t d a b s
  | .shl t d a b => Sys2Proof.Machine.execShl t d a b s
  | .shr t d a b => Sys2Proof.Machine.execShr t d a b s
  | .sar t d a b => Sys2Proof.Machine.execSar t d a b s
  | .slt t d a b => Sys2Proof.Machine.execSlt t d a b s
  | .sltz t d a b => Sys2Proof.Machine.execSltz t d a b s
  | .min t d a b => Sys2Proof.Machine.execMin t d a b s
  | .max t d a b => Sys2Proof.Machine.execMax t d a b s
  | .minz t d a b => Sys2Proof.Machine.execMinz t d a b s
  | .maxz t d a b => Sys2Proof.Machine.execMaxz t d a b s
  | .clz t d a => Sys2Proof.Machine.execClz t d a s
  | .ctz t d a => Sys2Proof.Machine.execCtz t d a s
  | .popc t d a => Sys2Proof.Machine.execPopc t d a s
  | .sel t d a b c => Sys2Proof.Machine.execSel t d a b c s
  | .bfx d a e p n => Sys2Proof.Machine.execBfx d a e p n s
  | .bfi d a p n => Sys2Proof.Machine.execBfi d a p n s
  | .addi d a im => Sys2Proof.Machine.execAddi d a im s
  | .andi d a im => Sys2Proof.Machine.execAndi d a im s
  | .ori d a im => Sys2Proof.Machine.execOri d a im s
  | .xori d a im => Sys2Proof.Machine.execXori d a im s
  | .shli d a im => Sys2Proof.Machine.execShli d a im s
  | .shri d a im => Sys2Proof.Machine.execShri d a im s
  | .sari d a im => Sys2Proof.Machine.execSari d a im s
  | .slti d a im => Sys2Proof.Machine.execSlti d a im s
  | .lui d im => Sys2Proof.Machine.execLui d im s
  | .fadd d a b r sz n => Sys2Proof.Machine.execFadd d a b r sz n s
  | .fsub d a b r sz n => Sys2Proof.Machine.execFsub d a b r sz n s
  | .fmul d a b r sz n => Sys2Proof.Machine.execFmul d a b r sz n s
  | .fmin d a b => Sys2Proof.Machine.execFmin d a b s
  | .fmax d a b => Sys2Proof.Machine.execFmax d a b s
  | .feq d a b => Sys2Proof.Machine.execFeq d a b s
  | .flt d a b => Sys2Proof.Machine.execFlt d a b s
  | .fle d a b => Sys2Proof.Machine.execFle d a b s
  | .fcls d a => Sys2Proof.Machine.execFcls d a s
  | .fsgn d a b m => Sys2Proof.Machine.execFsgn d a b m s
  | .ffma d a b c r sz n => Sys2Proof.Machine.execFfma d a b c r sz n s
  | .fcvt d a sz t u r => Sys2Proof.Machine.execFcvt d a sz t u r s
  | .srnd d a b t u sz n => Sys2Proof.Machine.execSrnd d a b t u sz n s
  | .cadd d a b => Sys2Proof.Machine.execCadd d a b s
  | .frcp d a => Sys2Proof.Machine.execFrcp d a s
  | .frsq d a => Sys2Proof.Machine.execFrsq d a s
  | .fsqrt d a => Sys2Proof.Machine.execFsqrt d a s
  | .fdiv d a b => Sys2Proof.Machine.execFdiv d a b s
  | .fex2 d a => Sys2Proof.Machine.execFex2 d a s
  | .flg2 d a => Sys2Proof.Machine.execFlg2 d a s
  | .fsin d a => Sys2Proof.Machine.execFsin d a s
  | .fcos d a => Sys2Proof.Machine.execFcos d a s
  | .ftanh d a => Sys2Proof.Machine.execFtanh d a s
  | .vadd d x y b a => Sys2Proof.Machine.execVadd d x y b a s
  | .vsub d x y b a => Sys2Proof.Machine.execVsub d x y b a s
  | .vmul d x y b a => Sys2Proof.Machine.execVmul d x y b a s
  | .vfma d x y b a => Sys2Proof.Machine.execVfma d x y b a s
  | .vmin d x y b => Sys2Proof.Machine.execVmin d x y b s
  | .vmax d x y b => Sys2Proof.Machine.execVmax d x y b s
  | .vcmp d x y b => Sys2Proof.Machine.execVcmp d x y b s
  | .vsel d x y b => Sys2Proof.Machine.execVsel d x y b s
  | .vred d x b => Sys2Proof.Machine.execVred d x b s
  | .vscan d x b => Sys2Proof.Machine.execVscan d x b s
  | .vcvt d x b a => Sys2Proof.Machine.execVcvt d x b a s
  | .vperm d x y b => Sys2Proof.Machine.execVperm d x y b s
  | .vbcast d b a => Sys2Proof.Machine.execVbcast d b a s
  | .kand d x y => Sys2Proof.Machine.execKand d x y s
  | .kor d x y => Sys2Proof.Machine.execKor d x y s
  | .kxor d x y => Sys2Proof.Machine.execKxor d x y s
  | .knot d x => Sys2Proof.Machine.execKnot d x s
  | .kset d a => Sys2Proof.Machine.execKset d a s
  | .vget d v n => Sys2Proof.Machine.execVget d v n s
  | .vput v a n => Sys2Proof.Machine.execVput v a n s
  | .vbusy d => Sys2Proof.Machine.execVbusy d s
  | .kpop d k => Sys2Proof.Machine.execKpop d k s
  | .remoteReply n => Sys2Proof.Machine.execRemoteReply n s
  | .acknowledgement n => Sys2Proof.Machine.execAcknowledgement n s
  | .orderedCredit n => Sys2Proof.Machine.execOrderedCredit n s
  | .creditTimer n => Sys2Proof.Machine.execCreditTimer n s
  | .fenceProbe n => Sys2Proof.Machine.execFenceProbe n s
  | .fenceEcho n => Sys2Proof.Machine.execFenceEcho n s
  | .postedRefusal n => Sys2Proof.Machine.execPostedRefusal n s
  | .homeLoad n => Sys2Proof.Machine.execHomeLoad n s
  | .homeStore n => Sys2Proof.Machine.execHomeStore n s
  | .homeAtomic n => Sys2Proof.Machine.execHomeAtomic n s
  | .homeSyncAccess n => Sys2Proof.Machine.execHomeSyncAccess n s
  | .feRetryLimit n => Sys2Proof.Machine.execFeRetryLimit n s
  | .feWaitLimit n => Sys2Proof.Machine.execFeWaitLimit n s
  | .homeAgedLoad n => Sys2Proof.Machine.execHomeAgedLoad n s
  | .homeFetcha n => Sys2Proof.Machine.execHomeFetcha n s
  | .homePublish n => Sys2Proof.Machine.execHomePublish n s
  | .lagTimeout n => Sys2Proof.Machine.execLagTimeout n s
  | .stopNotice n => Sys2Proof.Machine.execStopNotice n s
  | .migrationArrival n => Sys2Proof.Machine.execMigrationArrival n s
  | .slotFill key => Sys2Proof.Machine.execSlotFill key s
  | .walkComplete n => Sys2Proof.Machine.execWalkComplete n s
  | .sfuEnqueue cid => Sys2Proof.Machine.execSfuEnqueue cid s
  | .sfuResult cid => Sys2Proof.Machine.execSfuResult cid s
  | .matrixRunStart cid => Sys2Proof.Machine.execMatrixRunStart cid s
  | .matrixRunEnd cid => Sys2Proof.Machine.execMatrixRunEnd cid s
  | .matrixRunLimit cid => Sys2Proof.Machine.execMatrixRunLimit cid s
  | .operandUnitArrival n => Sys2Proof.Machine.execOperandUnitArrival n s
  | .linkWordArrival n => Sys2Proof.Machine.execLinkWordArrival n s
  | .copyCmdStart eng => Sys2Proof.Machine.execCopyCmdStart eng s
  | .chunkCounted eng im chunk => Sys2Proof.Machine.execChunkCounted eng im chunk s
  | .copyCmdComplete eng im => Sys2Proof.Machine.execCopyCmdComplete eng im s
  | .copyFetchaTimeout eng im => Sys2Proof.Machine.execCopyFetchaTimeout eng im s
  | .crierPulse n => Sys2Proof.Machine.execCrierPulse n s
  | .heldCmdEnter eng => Sys2Proof.Machine.execHeldCmdEnter eng s
  | .nwCmdStart eng => Sys2Proof.Machine.execNwCmdStart eng s
  | .nwPacketArrival n => Sys2Proof.Machine.execNwPacketArrival n s
  | .nwAckArrival n => Sys2Proof.Machine.execNwAckArrival n s
  | .nwAckTimer eng im => Sys2Proof.Machine.execNwAckTimer eng im s
  | .nwRtoExpiry eng im pkt => Sys2Proof.Machine.execNwRtoExpiry eng im pkt s
  | .nwReadResponse n => Sys2Proof.Machine.execNwReadResponse n s
  | .nwRefusal n => Sys2Proof.Machine.execNwRefusal n s
  | .nwPortLoss die port => Sys2Proof.Machine.execNwPortLoss die port s
  | .channelMessageArrival n => Sys2Proof.Machine.execChannelMessageArrival n s
  | .sendStall uid => Sys2Proof.Machine.execSendStall uid s
  | .launchComplete h => Sys2Proof.Machine.execLaunchComplete h s
  | .deadlineExpiry h => Sys2Proof.Machine.execDeadlineExpiry h s
  | .preemptRequest cid booth => Sys2Proof.Machine.execPreemptRequest cid booth s
  | .preemptSwap key => Sys2Proof.Machine.execPreemptSwap key s
  | .spillComplete key => Sys2Proof.Machine.execSpillComplete key s
  | .handoverSave h key => Sys2Proof.Machine.execHandoverSave h key s
  | .handoverScrub h key => Sys2Proof.Machine.execHandoverScrub h key s
  | .handoverLoad h key => Sys2Proof.Machine.execHandoverLoad h key s
  | .storeHandover h group => Sys2Proof.Machine.execStoreHandover h group s
  | .pageClear h => Sys2Proof.Machine.execPageClear h s
  | .receiptWrite n => Sys2Proof.Machine.execReceiptWrite n s
  | .gangTick h => Sys2Proof.Machine.execGangTick h s
  | .gangDeadline h => Sys2Proof.Machine.execGangDeadline h s
  | .uncorrectableError booth block => Sys2Proof.Machine.execUncorrectableError booth block s
  | .unitLoss n u => Sys2Proof.Machine.execUnitLoss n u s
  | .hangDetect booth => Sys2Proof.Machine.execHangDetect booth s
  | .boothReset booth => Sys2Proof.Machine.execBoothReset booth s
  | .replay booth => Sys2Proof.Machine.execReplay booth s
  | .replayFenceMark pkg seq => Sys2Proof.Machine.execReplayFenceMark pkg seq s
  | .resize pkg booth => Sys2Proof.Machine.execResize pkg booth s
  | .switchForward que chan k => Sys2Proof.Machine.execSwitchForward que chan k s
  | .combinedReplySplit n => Sys2Proof.Machine.execCombinedReplySplit n s
  | .abortTail n => Sys2Proof.Machine.execAbortTail n s
  | .laneFailure pkg port lane => Sys2Proof.Machine.execLaneFailure pkg port lane s
  | .linkRetrainDone pkg port => Sys2Proof.Machine.execLinkRetrainDone pkg port s
  | .drainReport sw entry => Sys2Proof.Machine.execDrainReport sw entry s
  | .linkTrained pkg port x => Sys2Proof.Machine.execLinkTrained pkg port x s
  | .tailWrite pkg booth entries tail => Sys2Proof.Machine.execTailWrite pkg booth entries tail s
  | .hostLaunch pkg window => Sys2Proof.Machine.execHostLaunch pkg window s
  | .hostFence pkg window => Sys2Proof.Machine.execHostFence pkg window s
  | .handover pkg window => Sys2Proof.Machine.execHandover pkg window s
  | .teardown pkg window => Sys2Proof.Machine.execTeardown pkg window s
  | .watch pkg window => Sys2Proof.Machine.execWatch pkg window s
  | .owner pkg window => Sys2Proof.Machine.execOwner pkg window s
  | .limits pkg window => Sys2Proof.Machine.execLimits pkg window s
  | .trapvec pkg window => Sys2Proof.Machine.execTrapvec pkg window s
  | .region pkg window => Sys2Proof.Machine.execRegion pkg window s
  | .map pkg window => Sys2Proof.Machine.execMap pkg window s
  | .logring pkg window => Sys2Proof.Machine.execLogring pkg window s
  | .gang pkg window => Sys2Proof.Machine.execGang pkg window s
  | .hostAccess adapter booth pkg va sz store => Sys2Proof.Machine.execHostAccess adapter booth pkg va sz store s
  | .interruptDelivery n => Sys2Proof.Machine.execInterruptDelivery n s
  | .powerUp pkg bootid => Sys2Proof.Machine.execPowerUp pkg bootid s
  | .powerDown pkg => Sys2Proof.Machine.execPowerDown pkg s
  | .bootRequestRetry pkg => Sys2Proof.Machine.execBootRequestRetry pkg s
  | .imageReceived pkg header body => Sys2Proof.Machine.execImageReceived pkg header body s
  | .svnRaise pkg svn => Sys2Proof.Machine.execSvnRaise pkg svn s
  | .getVersion pkg => Sys2Proof.Machine.execGetVersion pkg s
  | .getCapabilities pkg => Sys2Proof.Machine.execGetCapabilities pkg s
  | .negotiateAlgorithms x => Sys2Proof.Machine.execNegotiateAlgorithms x s
  | .getDigests pkg => Sys2Proof.Machine.execGetDigests pkg s
  | .getCertificate pkg slot => Sys2Proof.Machine.execGetCertificate pkg slot s
  | .challenge pkg slot nonce => Sys2Proof.Machine.execChallenge pkg slot nonce s
  | .getMeasurements pkg nonce => Sys2Proof.Machine.execGetMeasurements pkg nonce s
  | .keyExchange pkg peer => Sys2Proof.Machine.execKeyExchange pkg peer s
  | .finish pkg verify => Sys2Proof.Machine.execFinish pkg verify s
  | .endSession pkg => Sys2Proof.Machine.execEndSession pkg s
  | .vendorDefinedRequest pkg home booth lo hi => Sys2Proof.Machine.execVendorDefinedRequest pkg home booth lo hi s
  | .keyLoad pkg slot tenant key => Sys2Proof.Machine.execKeyLoad pkg slot tenant key s
  | .keyErase pkg slot => Sys2Proof.Machine.execKeyErase pkg slot s
  | .thermalTrip pkg => Sys2Proof.Machine.execThermalTrip pkg s
  | .flitArrivesInError pkg port => Sys2Proof.Machine.execFlitArrivesInError pkg port s

end Sys2Proof.Machine
end

