-- ==== Sys2Proof/Machine/Issue.lean ====
section
/-! DEFINITION. Issuing a bundle: fetch and framing (R63), the order of decode (R74), the pair check (R64), the checks before
issue (R138, R184), and running its words as one unit (R65, R66, R113, R172). -/

namespace Sys2Proof.Machine
open Bits Tables

/-- The word at an address, as a fetch reads it (R63), under the key of its page (R388). DESIGN CHOICE (log entry 59): no word is
fetched ahead, so a fetch reads memory as it stands when its bundle issues; R63 and R137 allow older words until an `ifence`. -/
def State.fetch (s : State) (va : Nat) : Except Step Nat :=
  match s.look accFetch va with
  | .error r => .error r
  | .ok (.here off) => .ok (s.mem.read (spad s.cid off) 4)
  | .ok (.home p ga) =>
    if s.installed ga 4 then .ok ((s.mem.under ga (s.keyId (pkgOf s.cid) p.key) false).read ga 4) else .error (trap .access (tvV 3 va))

/-- A bundle's words: the first, and the second of a pair (R63). -/
def State.frame (s : State) (pc : Nat) : Except Step (Nat × Option Nat) :=
  match s.fetch pc with
  | .error r => .error r
  | .ok first =>
    if fld first 31 31 = 1 then .ok (first, none)
    else if pc % 8 ≠ 0 then .error (trap .pairAlign pc)
    else
      match s.fetch (pc + 4) with
      | .error r => .error r
      | .ok second =>
        if fld second 31 31 = 1 then .error (trap .framing (2 ^ 63 + second))
        else if fld first 30 30 = 1 then .error (trap .framing first)
        else if fld second 30 30 = 0 then .error (trap .framing (2 ^ 63 + second))
        else .ok (first, some second)

/-- A register with a special-function result pending is named (R184). -/
def State.pending (s : State) (i : Instr) : Bool := i.names.any (fun r => s.th.sfuPend.getLsbD r.val)

/-- The checks of a control-register access before its bundle issues (R138); a source whose result is pending is checked when the
bundle issues again (R184). -/
def State.csrTrap (s : State) (i : Instr) : Option Cause :=
  let p := s.th.ctx.prv
  let v (a : GReg) : Word := if s.pending i then 0 else s.peekG a
  match i with
  | .csrr _ c => csrCheck .read p c 0
  | .csrw c a => csrCheck .write p c (v a)
  | .csrs c a => csrCheck .set p c (v a)
  | .csrc c a => csrCheck .clear p c (v a)
  | _ => none

/-- Steps 1 to 4 of R74 for one word. -/
def State.decodeAt (s : State) (w : Nat) : Except Step Instr :=
  match extOf w with
  | some e => if lists e s.cid then next else .error (s.implicit e)
  | none => next
where
  /-- Steps 3 and 4. -/
  next : Except Step Instr :=
    match decodeWord w with
    | .error _ => .error (s.trapW .illegal)
    | .ok i =>
      if i.supervisor && !s.th.ctx.prv then .error (s.trapW .priv)
      else
        match s.csrTrap i with
        | some c => .error (s.trapW c)
        | none => .ok i

/-- The A word runs in the state that the C word left, or, suppressing both, in the state before either. -/
def State.second (s : State) (hold : Bool) : State := { s with bun := { s.bun with isA := true, hold := hold } }

/-- Runs the only or first word of a bundle; a multi-beat one keeps its results for its last beat (R114). -/
def State.runFirst (s : State) (c : Instr) : Host.Outcome State Fault Refusal :=
  if 1 < c.beats (isEdge s.cid) then exec c { s with bun := { s.bun with hold := true } } else exec c s

/-- The general source values that a bundle reads (R114, R318): those of the C word, fields a and b, then those of the A word. -/
def State.sources (s : State) (c : Instr) (a : Option Instr) : List Word :=
  let pad (n : Nat) (l : List Word) : List Word := (l ++ List.replicate n 0).take n
  match a with
  | some a => pad 2 (s.fieldValues c.fields) ++ pad 3 ((s.popFields c.reads).fieldValues a.fields)
  | none => if fld s.bun.cw 30 30 = 1 then [0, 0] ++ pad 3 (s.fieldValues c.fields) else pad 2 (s.fieldValues c.fields) ++ [0, 0, 0]

/-- A bundle parks before its words have taken effect: the elements that its source fields read are popped and kept for its next issue
(R65 items 1 and 3). Where one of them cannot be popped, the trap is left to that issue. -/
def State.keepSources (s0 : State) (rs : List GReg) (t : State) : State :=
  let l := s0.elements rs
  if l.isEmpty || !s0.poppable rs then t
  else (t.modRegs (fun x => { x with streams := (s0.popFields rs).regs.streams })).modMe (fun y => { y with given := l })

/-- The C word of a pair has run: the A word runs, and a trap or a new issue of it suppresses both (R65, R66). -/
def State.runSecond (s0 t : State) (c a : Instr) (n : Nat) : Host.Outcome State Fault Refusal :=
  match exec a (t.second (1 < n || t.bun.fin == .parked)) with
  | .next u =>
    match u.bun.fin with
    | .trapped c v => .next (((s0.second false).takeTrap c v.toNat).setFin (.trapped c v))
    | .again w => .next (s0.keepSources (c.reads ++ a.reads) (((s0.second false).again w).setFin (.again w)))
    | _ => .next u
  | r => r

/-- The C word parked and is to be issued again: the A word runs, its trap comes first (R113), and its result stands held until the
C word completes (R65 item 3). -/
def State.runAhead (s0 t : State) (c a : Instr) : Host.Outcome State Fault Refusal :=
  match exec a ((s0.popFields c.reads).second true) with
  | .next u =>
    match u.bun.fin with
    | .trapped x v => .next (((s0.second false).takeTrap x v.toNat).setFin (.trapped x v))
    | .again w => .next (s0.keepSources (c.reads ++ a.reads) (((s0.second false).again w).setFin (.again w)))
    | _ =>
      let t1 := s0.keepSources c.reads t
      .next ((t1.modRegs (fun x => { x with streams := u.regs.streams })).modThread s0.uid (fun x => { x with
        held := u.th.held, aRan := true, srcs := s0.sources c (some a) }))
  | r => r

/-- Runs a lone word, or the C word whose A word stands held: where it is to be issued again, its elements are kept. -/
def State.runAgain (s : State) (c : Instr) : Host.Outcome State Fault Refusal :=
  match s.runFirst c with
  | .next t =>
    match t.bun.fin with
    | .again _ | .fenced => .next (s.keepSources c.reads t)
    | _ => .next t
  | r => r

/-- The thread left its slot with the C word: the A word's result goes with the context (R302), but a trap of the A word
suppresses both. -/
def State.runLast (s0 t : State) (c a : Instr) : Host.Outcome State Fault Refusal :=
  if c.carries then .next t
  else
    match exec a ((s0.popFields c.reads).second false) with
    | .next u =>
      match u.bun.fin with
      | .trapped x v => .next (((s0.second false).takeTrap x v.toNat).setFin (.trapped x v))
      | .again w => .next (((s0.second false).again w).setFin (.again w))
      | _ => .next t
    | r => r

/-- The beats of a bundle (R191). -/
def bundleBeats (edge : Bool) (c : Instr) (a : Option Instr) : Nat := max (c.beats edge) ((a.map (Instr.beats edge)).getD 1)

/-- The first beat of a bundle of n beats is over (R34): its last beat comes n - 1 issues later. -/
def State.beatsLeft (s : State) (n : Nat) (srcs : List Word) (r : Host.Outcome State Fault Refusal) : Host.Outcome State Fault Refusal :=
  if n = 1 then r
  else
    match r with
    | .next u =>
      match u.bun.fin with
      | .done | .parked => .next (u.modThread s.uid (fun t => { t with beats := n - 1, total := n, srcs := srcs }))
      | _ => .next u
    | r => r

/-- Runs the words of a bundle (R65, R66). -/
def State.runBundle (s : State) (c : Instr) (a : Option Instr) : Host.Outcome State Fault Refusal :=
  let n := bundleBeats (isEdge s.cid) c a
  s.beatsLeft n (s.sources c a)
    (match a with
    | none => s.runAgain c
    | some ai =>
      match s.runFirst c with
      | .next t =>
        match t.bun.fin with
        | .done | .parked => s.runSecond t c ai n
        | .gone => s.runLast t c ai
        | .again _ | .fenced => if c.carries then .next (s.keepSources c.reads t) else s.runAhead t c ai
        | .trapped _ _ => .next t
      | r => r)

/-- Decodes the words of a framed bundle and runs it. -/
def State.runFramed (s : State) (cw : Nat) (aw : Option Nat) : Host.Outcome State Fault Refusal :=
  match s.decodeAt cw with
  | .error r => runWord s r
  | .ok c =>
    match aw with
    | none => if s.pending c then runWord s (.retry .pending) else s.runBundle c none
    | some w =>
      let sa := s.second false
      match sa.decodeAt w with
      | .error r => runWord sa r
      | .ok a =>
        if c.clash a then runWord sa (sa.trapW .framing)
        else if s.pending c || s.pending a then runWord s (.retry .pending)
        else s.runBundle c (some a)

/-- The bundle context of a thread about to issue: its registers as they stand before either word. -/
def State.bunAt (s : State) (t : Thread) (x : Slot) (size cw aw : Nat) : State :=
  let pc := t.ctx.pc.toNat
  { s with bun := ⟨pc, size, cw, aw, false, false, t.ctx.g, x.regs.v, x.regs.k, x.regs.streams, [], .done⟩ }.modMe
    (fun t => { t with issued := ⟨pc, size, cw, aw, x.regs.streams⟩, ctx := { t.ctx with pc := BitVec.ofNat 48 (pc + size) } })

/-- The A word that came with a migration runs as part of its bundle (R172). -/
def State.runCarried (s : State) (t : Thread) (x : Slot) (w : Nat) : Host.Outcome State Fault Refusal :=
  let s1 := ((s.bunAt t x 8 0 w).modMe (fun t => { t with carry := none })).second false
  match decodeWord w with
  | .error _ => runWord s1 (s1.trapW .illegal)
  | .ok a =>
    let n := a.beats (isEdge s1.cid)
    match s1.beatsLeft n ([0, 0] ++ s1.fieldValues a.fields) (exec a (s1.second (1 < n))) with
    | .next u =>
      match u.bun.fin with
      | .again _ => .next (u.modMe (fun t => { t with carry := some w }))
      | _ => .next u
    | r => r

/-- A bundle that goes on after its issue: its context as it was, from the record of its issue, with the elements popped then. -/
def State.bunOn (s : State) (t : Thread) (x : Slot) : State :=
  { s with bun := ⟨t.issued.pc, t.issued.size, t.issued.cw, t.issued.aw, false, false, t.ctx.g, x.regs.v, x.regs.k, x.regs.streams, t.given,
    .done⟩ }

/-- A trap of a bundle that is issued again consumes none of the elements that its first issue popped (R66). -/
def unpopped (t : Thread) : Host.Outcome State Fault Refusal → Host.Outcome State Fault Refusal
  | .next u =>
    match u.bun.fin with
    | .trapped _ _ => .next (u.modRegs (fun x => { x with streams := t.issued.streams }))
    | _ => .next u
  | r => r

/-- A bundle is issued again with the elements of its first issue (R18, R65 item 3): its C word alone where the A word stands held. -/
def State.reissue (s : State) (t : Thread) (x : Slot) : Host.Outcome State Fault Refusal :=
  let s1 := (s.bunOn t x).modMe (fun t => { t with
    given := [], ctx := { t.ctx with pc := BitVec.ofNat 48 (t.issued.pc + t.issued.size) } })
  let a := if t.issued.size = 8 then (decodeWord t.issued.aw).toOption else none
  match decodeWord t.issued.cw with
  | .error _ => runWord s1 (s1.trapW .illegal)
  | .ok c =>
    unpopped t
      (if t.aRan then
        match s1.beatsLeft (bundleBeats (isEdge s.cid) c a) t.srcs (s1.runAgain c) with
        | .next u =>
          match u.bun.fin with
          | .done => .next (u.finish s1.uid)
          | .parked => .next (u.modThread s1.uid (fun t => { t with aRan := false }))
          | _ => .next u
        | r => r
      else s1.runBundle c a)

/-- One further beat of a multi-beat bundle (R34). A bundle abandoned by a pre-emption or handover runs again from its first beat: a
C word that has acted does not act again, and `vld` reads its lanes afresh with its recorded sources (R114). -/
def State.beat (s : State) (t : Thread) (x : Slot) : Host.Outcome State Fault Refusal :=
  let s0 := s.bunOn t x
  let s1 := s0.modMe (fun t => { t with beats := t.beats - 1 })
  if t.beats = t.total then
    match decodeWord t.issued.cw with
    | .ok (.vld v _ _ m k) =>
      match ({ s1 with bun := { s1.bun with hold := true } }.modMe (fun t => { t with held := [] })).vloadAt v
          (t.srcs.getD 0 0) (t.srcs.getD 1 0) m k with
      | .next u => .next (u.modMe (fun y => { y with
          held := y.held ++ t.held.tail, ctx := { y.ctx with pc := BitVec.ofNat 48 (t.issued.pc + t.issued.size) } }))
      | r => runWord s0 r
    | _ => .next s1
  else if t.beats ≠ 1 then .next s1
  else
    let s2 := s1.finish s1.uid
    .next (if t.wait = .yielding then s2.modMe (fun y => { y with wait := .yielding }) else s2)

/-- A slot whose running thread waits for nothing, or has beats to end before its `yield` (R303), on a core in service whose booth is not
frozen (R100, R328). -/
def State.issuable (s : State) (key : Nat) : Bool :=
  let x := s.slot key
  match x.run with
  | none => false
  | some u =>
    match s.thread u with
    | none => false
    | some t => x.phase == .live && (t.wait == .idle || (t.wait == .yielding && t.beats != 0)) && !(s.core (cidOf key)).lost &&
        !(s.boothPkg (pkgOf (cidOf key)) t.booth).frozen

/-- When the thread of a slot last issued, if it is eligible now: ready, its last wait ended in an earlier cycle (R102), and
not one that issued in any of the 7 cycles before (R32). -/
def State.eligible (s : State) (key : Nat) : Option Nat :=
  match (s.slot key).run with
  | none => none
  | some u =>
    match s.thread u with
    | none => none
    | some t => if s.issuable key && t.woke ≤ s.cycle && (t.last == 0 || t.last + 7 ≤ s.cycle) then some t.last else none

/-- The booth that owns the issue position of a core in this cycle (R32). -/
def State.positionOf (s : State) (cid : Nat) : Option Nat := ((s.core cid).owners.toList[s.cycle % 16 / 4]?).join

/-- Whether the thread of a slot belongs to a booth. -/
def State.runsFor (s : State) (key booth : Nat) : Bool :=
  match (s.slot key).run with
  | none => false
  | some u => match s.thread u with | none => false | some t => t.booth == booth

/-- The slot that a core issues in this cycle: of the eligible threads of the position's booth the one whose last issue lies furthest
back, ties to the lower slot; none where the core has issued in this cycle (R32). -/
def State.dueOn (s : State) (cid : Nat) : Option Nat :=
  match s.positionOf cid with
  | none => none
  | some b =>
    if (s.bc cid b).last = s.cycle + 1 then none
    else
      ((List.range 16).foldl (fun (best : Option (Nat × Nat)) i =>
        let key := cid * 16 + i
        if !s.runsFor key b then best
        else
          match s.eligible key, best with
          | none, _ => best
          | some l, none => some (key, l)
          | some l, some x => if l < x.2 then some (key, l) else best) none).map Prod.fst

/-- Whether a slot issues in this cycle. -/
def State.due (s : State) (key : Nat) : Bool := s.dueOn (cidOf key) == some key

/-- The first core's slot that is due. -/
def State.pickSlot (s : State) : Option Nat := s.cores.findSome? (fun e => s.dueOn e.1)

/-- An issue is counted for its thread and its booth on the core (R32). -/
def State.stamp (s : State) (key : Nat) : State :=
  match (s.slot key).run with
  | none => s
  | some u =>
    match s.thread u with
    | none => s
    | some t => (s.setThread u { t with last := s.cycle + 1 }).modBc (cidOf key) t.booth (fun b => { b with last := s.cycle + 1 })

/-- The slot issues one bundle. -/
def State.issue (s : State) (key : Nat) : Host.Outcome State Fault Refusal :=
  let x := s.slot key
  let s0 := { s.stamp key with cur := key }
  match s0.me with
  | none => .refused .noThread
  | some (_, t) =>
    if t.beats ≠ 0 then s0.beat t x
    else if t.aRan || !t.given.isEmpty then s0.reissue t x
    else
    match t.carry with
    | some w => s0.runCarried t x w
    | none =>
      let s1 := s0.bunAt t x 4 0 0
      match s1.frame t.ctx.pc.toNat with
      | .error r => runWord s1 r
      | .ok (cw, none) => (s0.bunAt t x 4 cw 0).runFramed cw none
      | .ok (cw, some aw) => (s0.bunAt t x 8 cw aw).runFramed cw (some aw)

end Sys2Proof.Machine
end

