-- ==== Sys2Proof/Machine/Pick.lean ====
section
/-! DEFINITION. The default choice of the next step when the agenda is empty. R32 fixes which slot a core issues in a cycle, and the spec fixes
no order among the other steps that the device could take next, so this is the model's own scheduler; an agenda brings about any other
order. What the outside world does (the host, power, faults, attestation) is never chosen here. -/

namespace Sys2Proof.Machine
open Bits Tables

/-- The places of a list. -/
def places {α : Type} (l : List α) : List Nat := List.range l.length

/-- An event as a step. -/
abbrev Event := State → Host.Outcome State Fault Refusal

/-- The n-th message goes on: those before it in its queue and channel are counted. -/
def State.forwardEvent (s : State) (n : Nat) : Event :=
  match s.net[n]? with
  | none => execSwitchForward 0 0 n
  | some m => execSwitchForward m.que m.chan ((s.net.take n).countP (fun x => x.que == m.que && x.chan == m.chan))

/-- What may happen to messages in flight. -/
def State.messageEvents (s : State) : List Event :=
  (places s.net).flatMap (fun n =>
    [s.forwardEvent n, execCombinedReplySplit n, execAbortTail n, execRemoteReply n, execAcknowledgement n, execOrderedCredit n,
      execFenceProbe n, execFenceEcho n, execPostedRefusal n, execHomeLoad n, execHomeStore n, execHomeAtomic n, execHomeSyncAccess n,
      execHomeAgedLoad n, execHomeFetcha n, execHomePublish n, execStopNotice n, execMigrationArrival n, execChannelMessageArrival n,
      execInterruptDelivery n])

/-- What the units of a core may do. -/
def State.coreEvents (s : State) : List Event :=
  s.cores.flatMap (fun e => [execSfuResult e.1, execSfuEnqueue e.1, execMatrixRunEnd e.1, execMatrixRunLimit e.1, execMatrixRunStart e.1])

/-- Arrivals and ends of waits that are no messages of the fabric. -/
def State.arrivalEvents (s : State) : List Event :=
  (places s.walks).map execWalkComplete ++ (places s.linkNet).flatMap (fun n => [execOperandUnitArrival n, execLinkWordArrival n]) ++
    (places s.pulses).map execCrierPulse ++ (places s.ether).flatMap (fun n =>
      [execNwPacketArrival n, execNwAckArrival n, execNwReadResponse n, execNwRefusal n]) ++
    (places s.feWait).flatMap (fun n => [execFeRetryLimit n, execFeWaitLimit n]) ++ (places s.agedWait).map execLagTimeout ++
    (places s.uncredited).map execCreditTimer

/-- What the engines may do. -/
def State.engineEvents (s : State) : List Event :=
  s.vqs.flatMap (fun e => [execHeldCmdEnter (2 * e.1), execCopyCmdStart e.1] ++ (places e.2.running).flatMap (fun i =>
    [execCopyCmdComplete e.1 i, execCopyFetchaTimeout e.1 i] ++
      (((e.2.running[i]?).map (·.chunks)).getD []).map (fun k => execChunkCounted e.1 i k))) ++
  s.nqs.flatMap (fun e => [execHeldCmdEnter (2 * e.1 + 1), execNwCmdStart e.1, execNwAckTimer e.1 16384] ++
    e.2.eps.flatMap (fun p => (places p.2.peers).map (fun i => execNwAckTimer e.1 (256 * p.1 + i))) ++
    (places e.2.running).flatMap (fun i =>
      (places (((e.2.running[i]?).map (·.out)).getD [])).map (fun k => execNwRtoExpiry e.1 i k)))

/-- What the dispatcher may do. -/
def State.dispatchEvents (s : State) : List Event :=
  s.cores.flatMap (fun e => (List.range 16).map (fun i => execSlotFill (e.1 * 16 + i))) ++
  s.slots.flatMap (fun e => [execPreemptSwap e.1, execSpillComplete e.1]) ++
  s.launches.flatMap (fun e => [execLaunchComplete e.1, execDeadlineExpiry e.1]) ++
  s.booths.map (fun e => execPreemptRequest (e.1 / 64) (e.1 % 64)) ++
  (s.threads.map (fun e => execSendStall e.1)) ++
  s.handovers.flatMap (fun e => [execGangTick e.1, execGangDeadline e.1, execPageClear e.1] ++
    e.2.slots.flatMap (fun x => [execHandoverSave e.1 x.1, execHandoverScrub e.1 x.1, execHandoverLoad e.1 x.1]) ++
    e.2.stores.map (fun x => execStoreHandover e.1 x.1)) ++
  (places s.receipts).map execReceiptWrite ++
  s.boothPkgs.flatMap (fun e => [execBoothReset (e.1 % 64), execReplay (e.1 % 64), execResize (e.1 / 64) (e.1 % 64)]) ++
  s.pkgs.flatMap (fun e => (e.2.journal.map (fun j => execReplayFenceMark e.1 j.1)) ++
    e.2.windows.flatMap (fun w => [execHostLaunch e.1 w.1, execHostFence e.1 w.1, execHandover e.1 w.1, execTeardown e.1 w.1,
      execWatch e.1 w.1, execOwner e.1 w.1, execLimits e.1 w.1, execTrapvec e.1 w.1, execRegion e.1 w.1, execMap e.1 w.1, execLogring e.1 w.1,
      execGang e.1 w.1]) ++ e.2.ports.map (fun x => execLinkRetrainDone e.1 x.1)) ++
  s.boothPkgs.map (fun e => execTeardown (e.1 / 64) (e.1 % 64)) ++
  s.switches.flatMap (fun e => e.2.draining.map (fun x => execDrainReport e.1 x))

/-- The first event of a list that takes place. -/
def State.firstOf (s : State) : List Event → Option State
  | [] => none
  | i :: t =>
    match i s with
    | .next u => some u
    | _ => s.firstOf t

/-- The first internal event that can take place. -/
def State.firstEvent (s : State) : Option State :=
  s.firstOf (s.messageEvents ++ s.arrivalEvents ++ s.coreEvents ++ s.engineEvents ++ s.dispatchEvents)

/-- The default choice: a slot that is due issues; when every core has issued what is due, one event takes place and the cycle ends. -/
def State.choose (s : State) : Host.Outcome State Fault Refusal :=
  match s.pickSlot with
  | some key => s.issue key
  | none =>
    let t := s.firstEvent.getD s
    .next { t with cycle := t.cycle + 1 }

end Sys2Proof.Machine
end

