-- ==== Sys2Proof/Machine/Step.lean ====
section
/-! DEFINITION. The step of the device: the next choice of the agenda, else the default choice; and the state in which a
given word is the next to be fetched and run. -/

namespace Sys2Proof.Machine
open Bits Tables

/-- One step. A choice of the agenda that the device cannot make now is passed over: a slot that is not due in this cycle, an event that
is not enabled, the end of a cycle in which a core has yet to issue (R32). With an empty agenda the machine chooses for itself. -/
def step (s : State) : Host.Outcome State Fault Refusal :=
  match s.agenda with
  | .issue key :: rest =>
    let s1 := { s with agenda := rest }
    if s1.due key then s1.issue key else .next s1
  | .event i :: rest =>
    let s1 := { s with agenda := rest }
    if i.isWord then .next s1
    else
      match exec i s1 with
      | .refused (.notEnabled _) => .next s1
      | r => r
  | .tick :: rest => .next { s with agenda := rest, cycle := if s.pickSlot.isSome then s.cycle else s.cycle + 1 }
  | [] => s.choose

/-- The core that runs a word in withFetchWord: an edge core for extension N, else a compute core. -/
def fetchCore (w : Nat) : Nat := if extOf w = some .n then mkCid true 0 0 0 0 else 0

/-- The state with a word (bit 31 set: a lone one) placed where the next step fetches it: in the first bank of the local
window of a core in service whose slot 0 runs a thread that has not issued yet, so that it is due. -/
def State.withFetchWord (s : State) (_nbits w : Nat) : State :=
  let lone := w % 2 ^ 31 + 2 ^ 31
  let cid := fetchCore lone
  let key := cid * 16
  let u := s.nextUid
  let t := { Thread.init 1 key with ctx := { Ctx.zero with pc := BitVec.ofNat 48 winBase } }
  { s with
    mem := s.mem.write (spad cid 0) 4 lone
    cores := put s.cores cid { s.core cid with owners := Vector.replicate 4 (some 1), lost := false }
    booths := put s.booths (cid * 64 + 1) { s.bc cid 1 with last := 0 }
    boothPkgs := put s.boothPkgs (pkgOf cid * 64 + 1) { s.boothPkg (pkgOf cid) 1 with frozen := false }
    slots := put s.slots key { s.slot key with phase := .live, run := some u }
    threads := put s.threads u t
    nextUid := u + 1
    agenda := [.issue key] }

end Sys2Proof.Machine
end

