-- ==== Sys2Proof/Machine/Management.lean ====
section
/-! DEFINITION. What the host reads of a package's management node: the command windows, BOOTST, JSEQ, BOOTID, the journal ring, and the
status word of an Ebtar port (R350, R353, R385, R391, R392). -/

namespace Sys2Proof.Machine
open Bits Tables

/-- The status word of an Ebtar port (R350). -/
def PortStatus.word (x : PortStatus) : Word :=
  BitVec.ofNat 64 (x.retrain % 2 ^ 16 * 2 ^ 48 + x.crcerr % 2 ^ 16 * 2 ^ 32 + x.lanes % 2 ^ 5 * 2 ^ 7 + b2n x.spare * 2 ^ 6 + x.state % 8)

/-- A register or entry word of a command window, by its offset there (R353). -/
def Window.read (w : Window) (off : Nat) : Option Word :=
  if off < 0x1000 then some (dw (getD w.entries (off / 64) []) (off % 64 / 8))
  else if off = 0x1000 then some (BitVec.ofNat 64 (w.head % 2 ^ 32))
  else if off = 0x1008 then some (BitVec.ofNat 64 (b2n w.ovf * 2 ^ 32 + w.tail % 2 ^ 32))
  else none

/-- The eight words of a journal entry (R392). -/
def JEntry.words (e : JEntry) : List Word :=
  [BitVec.ofNat 64 e.seq,
    BitVec.ofNat 64 (e.state * 2 ^ 56 + e.booth * 2 ^ 48 + e.kind * 2 ^ 40 + e.origin * 2 ^ 38 + e.rpl % 2 ^ 32),
    e.tag, BitVec.ofNat 64 e.time] ++ (e.digest ++ [0, 0, 0, 0]).take 4

/-- The entry that stands in a place of the journal ring: the last one written there (R391). -/
def Pkg.entryAt (k : Pkg) (place : Nat) : Option JEntry :=
  k.journal.foldl (fun (b : Option JEntry) x => if x.1 % 65536 = place then some x.2 else b) none

/-- The word that the host reads at an offset of a package's management node. -/
def State.managed (s : State) (p off : Nat) : Option Word :=
  let k := s.pkg p
  if !s.powered p || off % 8 ≠ 0 then none
  else if off < 0x60000 then (s.window p (off / 0x2000)).read (off % 0x2000)
  else if off = 0x60000 then some k.bootst
  else if off = 0x60008 then some (BitVec.ofNat 64 k.jseq)
  else if off = 0x60010 then some k.bootid
  else if 0x1000000 ≤ off && off < 0x1400000 then
    some (match k.entryAt ((off - 0x1000000) / 64) with
      | none => 0
      | some e => dw e.words (off % 64 / 8))
  else none

end Sys2Proof.Machine
end

