-- ==== Sys2Proof/Safety.lean ====
section
/-! DEFINITION. The terms that statements use: what counts as a safe run, what it means for a word to run on its own, and the
plain writes that results are compared with. -/

namespace Sys2Proof.Machine
open Bits Tables

/-- No step among the first n from a state faults. A refusal is a stop of the model, not of the device. -/
def safeFor : Nat → State → Prop
  | 0, _ => True
  | n + 1, s =>
    match step s with
    | .next t => safeFor n t
    | .fault _ => False
    | .refused _ => True

/-- Thread u, with record t, stands in the current slot and runs there. -/
structure State.Runs (s : State) (u : Nat) (t : Thread) : Prop where
  run : (s.slot s.cur).run = some u
  thread : s.thread u = some t
  key : t.key = s.cur
  place : t.place = .slot

/-- A word's result is written at once: it is no A word whose C word parked (R65 item 3), and no word of several beats whose last is
still to come (R114). -/
def State.Prompt (s : State) : Prop := s.bun.hold = false

/-- A register that no stream is bound to, in the slot and in the view of the bundle's words: any but g8 to g11 always is (R186). -/
def State.Unbound (s : State) (r : GReg) : Prop := s.regs.stream r = none ∧ s.source r = none ∧ s.bun.given = []

/-- The value that a source register gives: as it stood before the bundle, g0 always 0 (R65, R103). -/
def State.src (s : State) (r : GReg) : Word := if r.val = 0 then 0 else s.bun.g[r]

/-- The state with one general register of the running thread set; a write of g0 is discarded (R103). -/
def State.withG (s : State) (d : GReg) (w : Word) : State :=
  if d.val = 0 then s else s.modCtx (fun c => { c with g := c.g.set d w })

/-- The state with one vector register of the slot set. -/
def State.withV (s : State) (d : VReg) (v : Vector Half 16) : State := s.modRegs (fun x => { x with v := x.v.set d v })

/-- The state with one mask register of the slot set. -/
def State.withK (s : State) (d : KReg) (k : BitVec 16) : State := s.modRegs (fun x => { x with k := x.k.set d k })

/-- The word has completed. -/
def State.completed (s : State) : State := s.setFin .done

/-- The word has trapped with a cause and the value of TVAL below its A bit (R66, R111). -/
def State.trapped (s : State) (c : Cause) (v : Nat) : State :=
  (s.takeTrap c.code v).setFin (.trapped c.code (BitVec.ofNat 64 v))

/-- The bundle is to be issued again once a condition holds (R18). -/
def State.reissued (s : State) (w : Why) : State := (s.again w).setFin (.again w)

/-- The word has parked its thread. -/
def State.waiting (s : State) : State := s.setFin .parked

/-- Every bank of a thread's window stands in its core: none in a save area or with the images of a resize (R321, R332). -/
def State.AtCore (s : State) (u : Nat) (t : Thread) : Prop := ∀ i, s.bankAt u t i = .core

/-- The state after a fence that had nothing to wait for: TBM is clear (R166). -/
def State.fenced (s : State) : State := s.modCtx (fun c => { c with tbm := 0 })

/-- The thread's bundle holds no result back and has no beat to come: the end of its C word ends it (R65, R114). -/
def Thread.Plain (t : Thread) : Prop := t.held = [] ∧ t.beats = 0

/-- Nothing of a thread is outstanding: no unacknowledged access, no bit of TBM, no refusal (R166, R215). -/
structure Thread.Quiet (t : Thread) : Prop where
  spray : t.spray = []
  offPkg : t.offPkg = []
  tbm : t.ctx.tbm = 0
  refusal : t.refusal = none

/-! ### Reference arithmetic: the tables of R124 to R130 on bit vectors -/

/-- An operation on w-bit operands, for every width. -/
abbrev BinOp := ∀ w, BitVec w → BitVec w → BitVec w

/-- An operation at a type: on 64 bits, or on the low 32 with the result extended (R123). -/
def atType (t : ITy) (f : BinOp) (x y : Word) : Word :=
  match t with
  | .s64 | .z64 => f 64 x y
  | .s32 => (f 32 (x.setWidth 32) (y.setWidth 32)).signExtend 64
  | .z32 => (f 32 (x.setWidth 32) (y.setWidth 32)).setWidth 64

/-- The words of two sources of major 32, with their operations (R124, R125). -/
def intTable : List ((ITy → GReg → GReg → GReg → Instr) × BinOp) :=
  [(.add, fun _ x y => x + y), (.sub, fun _ x y => x - y), (.mul, fun _ x y => x * y),
    (.mulh, fun w x y => BitVec.ofInt w (x.toInt * y.toInt / 2 ^ w)),
    (.mulhz, fun w x y => BitVec.ofNat w (x.toNat * y.toNat / 2 ^ w)),
    (.div, fun _ x y => if y = 0 then -1 else x.sdiv y), (.divz, fun _ x y => if y = 0 then -1 else x.udiv y),
    (.rem, fun _ x y => if y = 0 then x else x.srem y), (.remz, fun _ x y => if y = 0 then x else x.umod y),
    (.and, fun _ x y => x &&& y), (.or, fun _ x y => x ||| y), (.xor, fun _ x y => x ^^^ y), (.andn, fun _ x y => x &&& ~~~y),
    (.shl, fun w x y => x <<< (y.toNat % w)), (.shr, fun w x y => x >>> (y.toNat % w)),
    (.sar, fun w x y => x.sshiftRight (y.toNat % w)),
    (.slt, fun _ x y => if x.slt y then 1 else 0), (.sltz, fun _ x y => if x.ult y then 1 else 0),
    (.min, fun _ x y => if y.slt x then y else x), (.max, fun _ x y => if x.slt y then y else x),
    (.minz, fun _ x y => if y.ult x then y else x), (.maxz, fun _ x y => if x.ult y then y else x)]

/-- The words of one source of major 32: positions counted from the top, from the bottom, and set bits (R124). -/
def countTable : List ((ITy → GReg → GReg → Instr) × (∀ w, BitVec w → Nat)) :=
  [(.clz, fun w x => ((List.range w).find? (fun k => x.getLsbD (w - 1 - k))).getD w),
    (.ctz, fun w x => ((List.range w).find? (fun k => x.getLsbD k)).getD w),
    (.popc, fun w x => ((List.range w).filter (fun k => x.getLsbD k)).length)]

/-- The immediate words, with their operations on the source and the sign-extended immediate (R128). -/
def immTable : List ((GReg → GReg → BitVec 17 → Instr) × (Word → Word → Word)) :=
  [(.addi, fun x i => x + i), (.andi, fun x i => x &&& i), (.ori, fun x i => x ||| i), (.xori, fun x i => x ^^^ i),
    (.slti, fun x i => if x.slt i then 1 else 0)]

/-- The shifts by an immediate amount (R128). -/
def shiftTable : List ((GReg → GReg → Fin 64 → Instr) × (Word → Nat → Word)) :=
  [(.shli, fun x n => x <<< n), (.shri, fun x n => x >>> n), (.sari, fun x n => x.sshiftRight n)]

/-- The comparing branches, with their conditions (R130). -/
def branchTable : List ((GReg → GReg → BitVec 17 → Instr) × (Word → Word → Bool)) :=
  [(.beq, fun x y => x == y), (.bne, fun x y => x != y), (.blt, fun x y => x.slt y), (.bge, fun x y => !x.slt y),
    (.blo, fun x y => x.ult y), (.bhs, fun x y => !x.ult y)]

/-- An address so many words from the bundle's (R68). -/
def State.wordsAway (s : State) {n : Nat} (t : BitVec n) : BitVec 48 := BitVec.ofNat 48 s.bun.pc + (t.signExtend 48) <<< 2

/-- The thread goes on at an address. -/
def State.jumps (s : State) (pc : BitVec 48) : State := s.modCtx (fun c => { c with pc := pc })

/-! ### Control registers (R104 to R109) -/

/-- The control registers: number, whether task mode reads it, and its value. -/
def State.csrTable (s : State) (t : Thread) : List (Nat × Bool × Word) :=
  let x := s.slot s.cur
  let b := s.bc s.cid t.booth
  let r := x.regs
  let edge := isEdge s.cid
  let bit (v : Bool) : Word := if v then 1 else 0
  let cnt (n : Fin 4) : Word :=
    if edge then 0
    else
      let c := getD (s.core s.cid).tileCnt (groupOf s.cur * 4 + n.val) ⟨0, 0, 0⟩
      BitVec.ofNat 64 (c.satc + 2 ^ 16 * c.nanc + 2 ^ 32 * c.bsoc)
  [(0x000, true, BitVec.ofNat 64 (b2n t.ctx.prv + 2 * b2n t.ctx.pprv + 4 * b2n t.ctx.th + 16 * b2n r.streams[0].isSome +
      32 * b2n r.streams[1].isSome + 64 * b2n r.streams[2].isSome + 128 * b2n r.streams[3].isSome)),
    (0x001, false, b.tvec), (0x002, false, r.epc), (0x003, false, r.cause), (0x004, false, r.tval), (0x005, false, r.scratch),
    (0x010, true, t.ctx.it.setWidth 64), (0x011, true, t.ctx.age.setWidth 64), (0x012, true, t.ctx.tbm),
    (0x013, true, BitVec.ofNat 64 (2 ^ 31 + s.cur)), (0x018, true, t.ctx.fda), (0x019, true, t.ctx.fdb), (0x01A, true, t.ctx.fdc),
    (0x020, true, if edge then 2 else 1), (0x021, true, bit r.nbv), (0x030, true, b.feretry), (0x031, true, b.fewait),
    (0x032, true, b.agewait), (0x033, true, b.sndlim), (0x040, true, r.mthr), (0x041, true, cnt 0), (0x042, true, cnt 1),
    (0x043, true, cnt 2), (0x044, true, cnt 3), (0x050, true, BitVec.ofNat 64 x.crCnt), (0x051, true, x.crTerm),
    (0x060, true, BitVec.ofNat 64 (32 - (s.vq (s.cid / 16) t.booth).queue.length)),
    (0x061, true, BitVec.ofNat 64 t.cpOut.length),
    (0x062, true, if !edge then 0 else if s.netTenant (pkgOf s.cid) (dieOf s.cid) t.booth = t.tenant then
      BitVec.ofNat 64 (32 - (s.nq (nqKey s.cid t.booth)).queue.length) else 32),
    (0x063, true, if edge then BitVec.ofNat 64 t.nwOut.length else 0)]

/-- A control register that may be written: number, whether task mode writes it, the bits of its fields, its value, and the
state after a value is written. -/
structure CsrRow where
  num : Nat
  task : Bool
  fields : Word
  get : State → Thread → Word
  set : State → Word → State

/-- The writable registers: PRV and SB of STAT ignore what is written, a booth-owned register changes on the writing core
(R105 to R109). -/
def csrRows : List CsrRow :=
  let own (f : BoothCore → Word → BoothCore) : State → Word → State :=
    fun s w => s.setBc s.cid s.booth (f (s.bc s.cid s.booth) w)
  let slot (f : SlotRegs → Word → SlotRegs) : State → Word → State := fun s w => s.modRegs (fun x => f x w)
  [⟨0x000, false, 0xF7, fun s t => BitVec.ofNat 64 (b2n t.ctx.prv + 2 * b2n t.ctx.pprv + 4 * b2n t.ctx.th +
        16 * b2n s.regs.streams[0].isSome + 32 * b2n s.regs.streams[1].isSome + 64 * b2n s.regs.streams[2].isSome +
        128 * b2n s.regs.streams[3].isSome),
      fun s w => s.modCtx (fun c => { c with pprv := w.getLsbD 1, th := w.getLsbD 2 })⟩,
    ⟨0x001, false, 0xFFFFFFFFFFF8, fun s t => (s.bc s.cid t.booth).tvec, own (fun b w => { b with tvec := w })⟩,
    ⟨0x002, false, 0xFFFFFFFFFFFC, fun s _ => s.regs.epc, slot (fun x w => { x with epc := w })⟩,
    ⟨0x003, false, 0xFF, fun s _ => s.regs.cause, slot (fun x w => { x with cause := w })⟩,
    ⟨0x004, false, -1, fun s _ => s.regs.tval, slot (fun x w => { x with tval := w })⟩,
    ⟨0x005, false, -1, fun s _ => s.regs.scratch, slot (fun x w => { x with scratch := w })⟩,
    ⟨0x010, false, 0xFFFFFF, fun _ t => t.ctx.it.setWidth 64, fun s w => s.modCtx (fun c => { c with it := w.setWidth 24 })⟩,
    ⟨0x021, false, 1, fun s _ => if s.regs.nbv then 1 else 0, slot (fun x w => { x with nbv := w.getLsbD 0 })⟩,
    ⟨0x030, false, 0xFFFFFFFF, fun s t => (s.bc s.cid t.booth).feretry, own (fun b w => { b with feretry := w })⟩,
    ⟨0x031, false, 0xFFFFFFFF, fun s t => (s.bc s.cid t.booth).fewait, own (fun b w => { b with fewait := w })⟩,
    ⟨0x032, false, 0xFFFFFFFF, fun s t => (s.bc s.cid t.booth).agewait, own (fun b w => { b with agewait := w })⟩,
    ⟨0x033, false, 0xFFFFFFFF, fun s t => (s.bc s.cid t.booth).sndlim, own (fun b w => { b with sndlim := w })⟩,
    ⟨0x040, true, 0xFFFF, fun s _ => s.regs.mthr, slot (fun x w => { x with mthr := w })⟩]

/-! ### Memory accesses -/

/-- The memory after elements of a stream have been written from place j on, oldest first, at their addresses in a core's window (R186). -/
def writeElems (m : Memory) (cid : Nat) (t : Stream) : Nat → List Word → Memory
  | _, [] => m
  | j, w :: ws => writeElems (m.write (spad cid (t.addr j - winBase)) t.esize w.toNat) cid t (j + 1) ws

/-- An access at an offset of the own window goes to the scratchpad at once: the booth owns the bank, and no handover holds
it (R140, R322). -/
structure State.Near (s : State) (va off : Nat) : Prop where
  place : va = winBase + off
  inside : off < 2 ^ 17
  owns : s.ownsOff s.cid s.booth off = true
  free : s.bankHeld (s.cid * 16 + off / 8192) = false

/-- An access goes to the home core of a page: the page is mapped for the booth, its mapping is in a translation buffer of
the core or its cluster, and it serves the access (R118, R119, R141). -/
structure State.Far (s : State) (a : Acc) (va : Nat) (p : Page) : Prop where
  away : va < winBase
  page : s.pageFor (pkgOf s.cid) s.booth va = some p
  walked : ((s.core (s.cid)).tlb.contains (s.booth, p) || (getD s.l2 (engOf s.cid) []).contains (s.booth, p)) = true
  serves : pageFault a p s.th.ctx.prv va = none

/-- Global address of a virtual one in a page. -/
def Page.ga (p : Page) (va : Nat) : Nat := p.base + (va - p.va)

/-- A waited-for access has gone to its home, and the thread waits for the reply (R145, R204). -/
structure State.Asks (s s' : State) (u : Nat) (t : Thread) (p : Page) (va : Nat) (c : Cls) (d : GReg) (r : Req) : Prop where
  fin : s'.bun.fin = .parked
  waits : s'.thread u = some { t with wait := .reply s.nextMid }
  sent : ∃ m, s'.net = s.net ++ [m] ∧ m.mid = s.nextMid ∧ m.src = s.cid ∧ m.dst = p.home ∧ m.booth = t.booth ∧ m.uid = u ∧
    m.tid = tidOf s.cur ∧ m.va = va ∧ m.ga = p.ga va ∧ m.d = d ∧ m.posted = false ∧ m.body = .req r ∧ (c = .ord → m.chan = 0)
  memory : s'.mem = s.mem
  slots : s'.slots = s.slots
  booths : s'.booths = s.booths
  others : ∀ v, v ≠ u → s'.thread v = s.thread v

/-- A posted access has gone to its home and is counted in the window; the thread goes on, with the access in TBM, or in the
lists of accesses whose acknowledgement is still to come (R145, R146, R204, R345). -/
structure State.Posts (s s' : State) (u : Nat) (t : Thread) (p : Page) (va n : Nat) (c : Cls) (r : Req) : Prop where
  fin : s'.bun.fin = .done
  thread : s'.thread u = some { t with
    spray := if c = .spray then t.spray ++ [(s.nextMid, p.ga va, n)] else t.spray
    offPkg := if pkgOf p.home = pkgOf s.cid then t.offPkg else t.offPkg ++ [s.nextMid]
    ctx := { t.ctx with tbm :=
      if c = .ord ∧ pkgOf p.home = pkgOf s.cid then t.ctx.tbm ||| BitVec.twoPow 64 (tbmBit p.home) else t.ctx.tbm } }
  sent : ∃ m, s'.net = s.net ++ [m] ∧ m.mid = s.nextMid ∧ m.src = s.cid ∧ m.dst = p.home ∧ m.booth = t.booth ∧ m.uid = u ∧
    m.tid = tidOf s.cur ∧ m.va = va ∧ m.ga = p.ga va ∧ m.posted = true ∧ m.body = .req r ∧
    m.chan = (if c = .ord then 0 else 1) ∧ m.ack = decide (c = .spray ∨ pkgOf p.home ≠ pkgOf s.cid)
  window : s'.bc s.cid t.booth = { s.bc s.cid t.booth with win := { (s.bc s.cid t.booth).win with
    outstanding := (s.bc s.cid t.booth).win.outstanding + 1 } }
  memory : s'.mem = s.mem
  slots : s'.slots = s.slots
  others : ∀ v, v ≠ u → s'.thread v = s.thread v

/-- The posted window of the thread's booth has room (R345). -/
def State.WindowOpen (s : State) : Prop := (s.bc s.cid s.booth).win.outstanding < (s.bc s.cid s.booth).win.window

/-- The synchronising accesses: the state in which the word must be, its state afterwards, whether data is written, and
what is returned (R150). -/
structure SyncRow where
  op : SyncOp
  needs : Option Bool
  after : Bool → Bool
  writes : Bool
  value : Word → Bool → Option Word

def syncRows : List SyncRow :=
  [⟨.ldf, some true, fun _ => false, false, fun w _ => some w⟩, ⟨.ldff, some true, fun f => f, false, fun w _ => some w⟩,
    ⟨.fetst, none, fun f => f, false, fun _ f => some (if f then 1 else 0)⟩,
    ⟨.stf, some false, fun _ => true, true, fun _ _ => none⟩, ⟨.stfill, none, fun _ => true, true, fun _ _ => none⟩,
    ⟨.stemp, none, fun _ => false, false, fun _ _ => none⟩]

/-- The word of a synchronising access, with data and destination in field d. -/
def SyncOp.word (o : SyncOp) (d a : GReg) (c : Cls) (x : BitVec 12) : Instr :=
  match o with
  | .ldf => .ldf d a c x
  | .ldff => .ldff d a c x
  | .fetst => .fetst d a c x
  | .stf => .stf d a c x
  | .stfill => .stfill d a c x
  | .stemp => .stemp a c x

/-- The integer operations of `amo` at width w (R161). -/
def amoRef (o : AmoOp) (w : Nat) (m x : BitVec w) : BitVec w :=
  match o with
  | .add => m + x
  | .and => m &&& x
  | .or => m ||| x
  | .xor => m ^^^ x
  | .min => if x.slt m then x else m
  | .max => if m.slt x then x else m
  | .minz => if x.ult m then x else m
  | .maxz => if m.ult x then x else m
  | .swap | .fadd => x

/-! ### Engine commands -/

/-- NR, Q and OB of a command function (R225). -/
def optBits (o : CpOpt) : Nat := 2 ^ 8 * b2n o.nr + 2 ^ 7 * b2n o.q + 2 ^ 6 * b2n o.ob

/-- BE and BH of a command function (R225). -/
def barBits (r : Bar) : Nat := 2 ^ 5 * b2n r.be + 2 ^ 2 * r.bh.val

/-- The registers and the command function of a push to the copy engine but ARM (R225). -/
def copyPush : Instr → Option (GReg × GReg × Nat)
  | .pushCopy a b o r => some (a, b, 0 * 2 ^ 9 + optBits o + barBits r)
  | .pushGather a b o r z => some (a, b, 1 * 2 ^ 9 + optBits o + barBits r + (match z with | .e8 => 0 | .e64 => 1 | .e512 => 2))
  | .pushScatter a b o r z => some (a, b, 2 * 2 ^ 9 + optBits o + barBits r + (match z with | .e8 => 0 | .e64 => 1 | .e512 => 2))
  | .pushFill a b o r => some (a, b, 3 * 2 ^ 9 + optBits o + barBits r)
  | .pushFetcha a b o r => some (a, b, 4 * 2 ^ 9 + optBits o + barBits r)
  | .pushPublish a b o r => some (a, b, 5 * 2 ^ 9 + optBits o + barBits r)
  | .pushReduce a b o x t => some (a, b, 6 * 2 ^ 9 + optBits o +
      2 ^ 3 * (match x with | .add => 0 | .min => 1 | .max => 2 | .and => 3 | .or => 4 | .xor => 5) +
      (match t with | .f32 => 0 | .s32 => 1 | .z32 => 2 | .s64 => 3 | .z64 => 4 | .a36 => 5))
  | .pushAbar a b o h => some (a, b, 7 * 2 ^ 9 + optBits o + 2 ^ 2 * h.val)
  | _ => none

/-- The registers and the command function of a push to the network engine, and the held slot's term for H = 1 (R365). -/
def netPush (i : Instr) : Option (GReg × GReg × Nat × Option Nat) :=
  let fn (c : Nat) (o : NwOpt) : Nat := c * 2 ^ 9 + 2 ^ 8 * b2n o.nr + 2 ^ 7 * b2n o.q + 2 ^ 6 * b2n o.h + o.t.val
  let row (c : Nat) (a b : GReg) (o : NwOpt) : Option (GReg × GReg × Nat × Option Nat) :=
    some (a, b, fn c o, if o.h then some o.t.val else none)
  match i with
  | .pushEpopen a b o => row 0 a b o
  | .pushWsend a b o => row 1 a b o
  | .pushWwrite a b o => row 2 a b o
  | .pushWread a b o => row 3 a b o
  | .pushCtrset a b o => row 4 a b o
  | .pushCtrwait a b o => row 5 a b o
  | _ => none

/-- No term of a core may fire: each is off (R233). -/
def State.TermsOff (s : State) (cid : Nat) : Prop := ∀ k, cidOf k = cid → wfld (s.slot k).crTerm 31 30 = 0

/-- None of some accesses is on its way to its home, alone or as a member of a combined run (R15). -/
def State.NoneOut (s : State) (mids : List Nat) : Prop :=
  ∀ m ∈ s.net, m.mid ∉ mids ∧ ∀ op n ms, m.body = .req (.amo op n ms) → ∀ x ∈ ms, x.mid ∉ mids

/-! ### The matrix engine -/

/-- Every byte of some spans lies in the own window, in a bank of the booth (R246). -/
def State.InBanks (s : State) (xs : List (Nat × Nat)) : Prop := ∀ x ∈ xs, ∀ i < x.2, s.mine ((x.1 + i) % 2 ^ 48) = true

/-- No counter of a tile has reached a threshold that is set (R244). -/
def State.BelowThreshold (s : State) (tile : Nat) : Prop :=
  let n := s.regs.mthr.toNat % 2 ^ 16
  let c := getD (s.core s.cid).tileCnt (groupOf s.cur * 4 + tile) ⟨0, 0, 0⟩
  n = 0 ∨ (c.satc < n ∧ c.nanc < n ∧ c.bsoc < n)

/-- No handover holds the store of the thread's group or a bank of some spans (R322). -/
def State.Unheld (s : State) (xs : List (Nat × Nat)) : Prop := s.storeHeld = false ∧ s.spansHeld xs = false

/-- A matrix request stands in the engine's queue, with the descriptors and sampled registers of its issue, and its thread
waits for the run (R250, R251, R261). -/
structure State.Queues (s s' : State) (u : Nat) (t : Thread) (op tile : Nat) (a b d : Word) (sat : Bool) (k : Nat) : Prop where
  fin : s'.bun.fin = .parked
  request : s'.core s.cid = { s.core s.cid with mreqs := (s.core s.cid).mreqs ++
    [⟨u, s.cur, t.booth, op, tile, a, b, d, sat, k, s.regs.mda, s.regs.mdb, s.regs.sampled, 0, false, []⟩] }
  waits : s'.thread u = some { t with wait := .run }
  memory : s'.mem = s.mem
  slots : s'.slots = s.slots
  others : ∀ c, c ≠ s.cid → s'.core c = s.core c

/-! ### Floating point (R173 to R182) -/

/-- The value of a register's low half as FP32. -/
def f32Of (w : Word) : Exact.Val := Exact.ofBits Exact.f32 (w.toNat % 2 ^ 32)

/-- The rounded words of two sources with their exact operations; the flag says whether an exact zero sum rounds down. -/
def floatTable : List ((GReg → GReg → GReg → Rnd → Bool → Fin 32 → Instr) × (Bool → Exact.Val → Exact.Val → Exact.Val)) :=
  [(.fadd, Exact.add), (.fsub, Exact.sub), (.fmul, fun _ => Exact.mul)]

/-- The comparisons with their relations (R177). -/
def compareTable : List ((GReg → GReg → GReg → Instr) × (Exact.Val → Exact.Val → Bool)) :=
  [(.feq, Exact.eq), (.flt, Exact.lt), (.fle, Exact.le)]

/-- The special-function words of one source, with their codes (R182). -/
def specialTable : List ((GReg → GReg → Instr) × Nat) :=
  [(.frcp, 0), (.frsq, 1), (.fsqrt, 2), (.fex2, 4), (.flg2, 5), (.fsin, 6), (.fcos, 7), (.ftanh, 8)]

/-- A special-function request stands at the tail of the core's queue, its destination register pending; the word has
completed (R183, R184). -/
structure State.Requests (s s' : State) (u : Nat) (t : Thread) (op : Nat) (d : GReg) (x y : Word) : Prop where
  fin : s'.bun.fin = .done
  queue : s'.core s.cid = { s.core s.cid with sfuQ := (s.core s.cid).sfuQ ++
    [⟨u, groupOf s.cur, op, x.setWidth 32, y.setWidth 32, d⟩] }
  pending : s'.thread u = some { t with sfuPend := t.sfuPend ||| BitVec.twoPow 16 d.val }
  memory : s'.mem = s.mem
  slots : s'.slots = s.slots

/-! ### Vectors (R191 to R198) -/

/-- Whether lane i is active under a mode word (R192). -/
def State.laneActive (s : State) (y : Word) (i : Nat) : Bool :=
  !y.getLsbD 14 || (s.bun.k[(⟨y.toNat / 2 ^ 12 % 4, Nat.mod_lt _ (by decide)⟩ : Fin 4)]).getLsbD i

/-- The fixed tree of a reduction over 2^n values from a place: the lower half on the left (R195). -/
def treeOf (f : Nat → Nat → Nat) (e : Nat → Nat) : Nat → Nat → Nat
  | lo, 0 => e lo
  | lo, n + 1 => f (treeOf f e lo n) (treeOf f e (lo + 2 ^ n) n)

/-- The arithmetic vector words: the exact real operation and the exact integer one on lanes of vx, vy and vd (R194). -/
def vectorTable : List ((VReg → VReg → VReg → GReg → GReg → Instr) ×
    (Bool → Exact.Val → Exact.Val → Exact.Val → Exact.Val) × (Half → Half → Half → Half)) :=
  [(.vadd, (fun r x y _ => Exact.add r x y), fun x y _ => x + y), (.vsub, (fun r x y _ => Exact.sub r x y), fun x y _ => x - y),
    (.vmul, (fun _ x y _ => Exact.mul x y), fun x y _ => x * y),
    (.vfma, (fun r x y d => Exact.add r (Exact.mul x y) d), fun x y d => x * y + d)]

/-! ### Messages at their homes (R145 to R158) -/

/-- The n-th message has been taken and answered with a body. -/
def State.answered (s : State) (n : Nat) (m : Msg) (b : Body) : State := (s.dropMsg n).answer m b

/-- The n-th message in flight has come to its dispatcher, channel table or command window, which takes it when SWITCH_FORWARD names it:
the k-th of its queue and channel. -/
structure State.Comes (s : State) (n k : Nat) (m : Msg) : Prop where
  arrived : s.arrived n = some m
  turn : waitingAt m.que m.chan s.net k = some n

/-- A request has gone to the node of a dispatcher or of a channel's core, and its thread waits for the answer (R299). -/
structure State.Requested (s s' : State) (u : Nat) (t : Thread) (dst chan : Nat) (d : GReg) (a : Ask) : Prop where
  fin : s'.bun.fin = .parked
  waits : s'.thread u = some { t with wait := .reply s.nextMid }
  sent : ∃ m, s'.net = s.net ++ [m] ∧ m.mid = s.nextMid ∧ m.src = s.cid ∧ m.dst = dst ∧ m.booth = t.booth ∧ m.uid = u ∧ m.chan = chan ∧
    m.d = d ∧ m.posted = false ∧ m.body = .ask a
  memory : s'.mem = s.mem
  slots : s'.slots = s.slots
  launches : s'.launches = s.launches
  queue : s'.spawnQ = s.spawnQ
  channels : s'.chans = s.chans
  pkgs : s'.pkgs = s.pkgs
  others : ∀ v, v ≠ u → s'.thread v = s.thread v

/-- The home of an arrived message serves accesses of every size, and keeps no arrival log for the booth. -/
structure State.Serves (s : State) (n : Nat) (m : Msg) : Prop where
  arrived : s.arrived n = some m
  serves : ∀ k, s.refuses m k = false
  unlogged : find s.rings (m.dst * 64 + m.booth) = none

/-- A request as one member of its run sent it. -/
def Msg.asMember (m : Msg) (x : Member) : Msg :=
  { m with mid := x.mid, src := x.src, uid := x.uid, tid := x.tid, posted := x.posted, ack := x.ack, d := x.d }

/-- A reply that brings one value. -/
def valueReply (w : Word) : Body := .reply ⟨some w, none, none, 0, 0⟩

/-! ### Runs of the matrix engine (R243 to R265) -/

/-- The engine of a core is in a run, whose thread waits in its slot with nothing else under way. -/
structure State.Running (s : State) (cid : Nat) (r : MRun) (t : Thread) : Prop where
  run : (s.core cid).mrun = some r
  thread : s.thread r.uid = some t
  place : t.place = .slot
  key : t.key = r.key
  core : cid = r.key / 16
  wait : t.wait = .run
  held : t.held = []
  beats : t.beats = 0

/-- A run has ended: the engine is free, MRS names it, and its thread may issue (R245, R250). -/
structure State.RunOver (s s' : State) (cid : Nat) (r : MRun) (t : Thread) (mrs : Nat) : Prop where
  free : (s'.core cid).mrun = none
  word : (s'.slot r.key).regs.mrs = BitVec.ofNat 64 mrs
  thread : s'.thread r.uid = some { t.woken s.cycle with aRan := false }
  net : s'.net = s.net

/-- An entry of a group's accumulator store. -/
def State.entry (s : State) (cid group e : Nat) : BitVec 36 := getD (s.core cid).acc (group * 2048 + e) 0

/-- The element at place (i, k) of an operand of 16-bit elements: base + i·MS + k·KS (R248). -/
def State.operandElem (s : State) (cid : Nat) (base d : Word) (i k : Nat) : Exact.Val :=
  let a := ((base.toNat + i * ((d >>> 32).setWidth 16).toInt + k * ((d >>> 16).setWidth 16).toInt) % (2 ^ 48 : Int)).toNat
  Exact.ofBits Exact.f16 (s.mem.read (spad cid (a - winBase)) 2)

/-! ### Ends of network commands (R371, R376) -/

/-- A network command has ended with a status and value: its element stands last for its thread, or with NR and status 0, or for a
thread that has migrated since, only its place is free (R224); and its pulse is under way unless Q. -/
structure State.NetDone (s s' : State) (c : NCmd) (t : Thread) (status value : Nat) : Prop where
  element : s'.thread c.uid = some (if (c.fn.testBit 8 = true ∧ status = 0) ∨ t.moves ≠ c.moves then { t with nwCount := t.nwCount - 1 }
    else { t with nwOut := t.nwOut ++ [BitVec.ofNat 64 (c.wb.toNat / 2 ^ 48 * 2 ^ 48 + c.fn / 2 ^ 9 % 16 * 2 ^ 44 +
      status * 2 ^ 40 + value % 2 ^ 40)] })
  pulse : s'.pulses = if c.fn.testBit 7 then s.pulses else s.pulses ++ [⟨c.key, c.booth, c.tenant, true⟩]

/-! ### Issuing, and frames -/

/-- The state in which a slot's words run when the step takes the agenda's choice of that slot: the registers as they stand,
the thread's PC past the bundle, and the issue counted (R32). -/
def State.issuing (s : State) (key : Nat) (rest : List Choice) (t : Thread) (size cw aw : Nat) : State :=
  ({ ({ s with agenda := rest } : State).stamp key with cur := key } : State).bunAt { t with last := s.cycle + 1 } (s.slot key) size cw aw

/-- What a step adds to a word that is to be issued again: the elements that its source fields read stay with the thread (R65). -/
def State.kept (s : State) (rs : List GReg) (t : State) : State :=
  match t.bun.fin with
  | .again _ | .fenced => s.keepSources rs t
  | _ => t

/-- The words that write one general register and nothing else: the register and those that the word reads. -/
def writesOnly : Instr → Option (GReg × List GReg)
  | .add _ d a b | .sub _ d a b | .mul _ d a b | .mulh _ d a b | .mulhz _ d a b | .div _ d a b | .divz _ d a b | .rem _ d a b
  | .remz _ d a b | .and _ d a b | .or _ d a b | .xor _ d a b | .andn _ d a b | .shl _ d a b | .shr _ d a b | .sar _ d a b
  | .slt _ d a b | .sltz _ d a b | .min _ d a b | .max _ d a b | .minz _ d a b | .maxz _ d a b
  | .fadd d a b _ _ _ | .fsub d a b _ _ _ | .fmul d a b _ _ _ | .fmin d a b | .fmax d a b | .feq d a b | .flt d a b | .fle d a b
  | .fsgn d a b _ | .srnd d a b _ _ _ _ | .cadd d a b => some (d, [a, b])
  | .sel _ d a b c | .ffma d a b c _ _ _ => some (d, [a, b, c])
  | .clz _ d a | .ctz _ d a | .popc _ d a | .bfx d a _ _ _ | .bfi d a _ _ | .addi d a _ | .andi d a _ | .ori d a _ | .xori d a _
  | .slti d a _ | .shli d a _ | .shri d a _ | .sari d a _ | .fcls d a | .fcvt d a _ _ _ _ | .tage d a => some (d, [a])
  | .lui d _ | .csrr d _ | .vget d _ _ | .vbusy d | .kpop d _ | .mcnt d _ _ | .mlink d _ | .mvar d _ => some (d, [])
  | _ => none

end Sys2Proof.Machine
end

