-- ==== Sys2Proof/Certificates/Slice0/Obligations.lean ====
section
/-! DEFINITION. The statements for the provers. Where a statement speaks of a word, `s` is the state in which the word runs:
`s.bun` holds its bundle and the registers as they stood before it. -/

open Sys2Proof Sys2Proof.Machine Sys2Proof.Bits Sys2Proof.Tables

/-! ### Encoding -/

/-- The decoder reads the encoding of every well-formed word as that word. -/
def Obligations.EncodedWordsDecode : Prop :=
  ∀ (i : Instr) (w : Nat), i.wf = true → encode i = some w → decodeWord w = .ok i

/-- Every word that decodes is well formed, and the encoder gives back all of its bits below L: no bit is left unread. -/
def Obligations.DecodedWordsEncode : Prop :=
  ∀ (w : Nat) (i : Instr), w < 2 ^ 32 → decodeWord w = .ok i → i.wf = true ∧ encode i = some (w % 2 ^ 31)

/-- R67 to R73: words written out field by field from their encodings (L, major, then the format's fields) decode to what they
stand for; an unassigned major and a field that `nop` leaves reserved are refused by name (R74, R75). -/
def Obligations.DecodesSpecWords : Prop :=
  decodeWord 0b1_100010_0001_0001_00000000000010000 = .ok (.addi 1 1 16) ∧
  decodeWord 0b1_001001_0001_0000_11111111111111100 = .ok (.bne 1 0 (-4)) ∧
  decodeWord 0b1_010000_0011_0001_11_0_00_000000001000 = .ok (.ld 3 1 .b64 .ord .sx 8) ∧
  decodeWord 0b1_000010_0000_0110_00000000000000010 = .ok (.csrw 2 6) ∧
  decodeWord 0b1_010100_0100_0010_11_0_11_100100000000 = .ok (.lda 4 2 .trap (.reg 9) 0) ∧
  decodeWord 0b1_010111_0011_0010_0101_0000010000000 = .ok (.amo .add 3 2 5 true .ord) ∧
  decodeWord 0b1_011010_0001_0011_0100_0000000101000 = .ok (.pushCopy 3 4 ⟨false, false, false⟩ ⟨true, 2⟩) ∧
  decodeWord 0b1_011100_0011_0101_0110_0101000000000 = .ok (.chset 3 5 6) ∧
  decodeWord 0b1_011101_0000_0010_0011_0010000000001 = .ok (.mma 0 2 3 false 1) ∧
  decodeWord 0b1_011110_0011_0011_0001_0100000000000 = .ok (.lrf 3 .w .e) ∧
  decodeWord 0b1_101011_0011_0100_0101_0000100000111 = .ok (.fadd 3 4 5 .rs false 7) ∧
  decodeWord 0b1_101111_0000_0000_0111_0011100101110 = .ok (.vfma 4 5 6 7 0) ∧
  decodeWord 0b1_110000_0001_0100_0000_0011111000000 = .ok (.vput 1 4 15) ∧
  decodeWord 0b1_110001_0000_0000_0000_0000000000000 = .error .unassignedMajor ∧
  decodeWord 0b1_000000_0001_0000_0000_0000000000000 = .error .reservedField

/-! ### Integer words -/

/-- R123 to R125: the words of two integer sources leave the table's result in gD, and change nothing else. R124, R126: `clz`,
`ctz` and `popc` count on w bits, and `sel` chooses by all 64 bits of gC. R128: the immediate forms, with the
immediate sign-extended from 17 bits. R127: `bfx` extracts len bits from pos and extends them, `bfi` puts the low
len bits of gA at pos of the old gD. R65, R114: where the C word of the pair parked, or beats of the bundle are still to come, the
result stands held with the thread. -/
def Obligations.IntegerWords : Prop :=
  (∀ p ∈ intTable, ∀ (ty : ITy) (d a b : GReg) (s : State) (u : Nat) (t : Thread),
    s.Runs u t → s.Prompt → s.Unbound d → s.Unbound a → s.Unbound b →
      exec (p.1 ty d a b) s = .next (s.withG d (atType ty p.2 (s.src a) (s.src b))).completed) ∧
  (∀ p ∈ countTable, ∀ (ty : ITy) (d a : GReg) (s : State) (u : Nat) (t : Thread),
    s.Runs u t → s.Prompt → s.Unbound d → s.Unbound a →
      exec (p.1 ty d a) s =
        .next (s.withG d (atType ty (fun w x _ => BitVec.ofNat w (p.2 w x)) (s.src a) 0)).completed) ∧
  (∀ (ty : ITy) (d a b c : GReg) (s : State) (u : Nat) (t : Thread),
    s.Runs u t → s.Prompt → s.Unbound d → s.Unbound a → s.Unbound b → s.Unbound c →
      exec (.sel ty d a b c) s =
        .next (s.withG d (atType ty (fun _ x _ => x) (if s.src c = 0 then s.src b else s.src a) 0)).completed) ∧
  (∀ p ∈ immTable, ∀ (d a : GReg) (i : BitVec 17) (s : State) (u : Nat) (t : Thread),
    s.Runs u t → s.Prompt → s.Unbound d → s.Unbound a →
      exec (p.1 d a i) s = .next (s.withG d (p.2 (s.src a) (i.signExtend 64))).completed) ∧
  (∀ p ∈ shiftTable, ∀ (d a : GReg) (n : Fin 64) (s : State) (u : Nat) (t : Thread),
    s.Runs u t → s.Prompt → s.Unbound d → s.Unbound a →
      exec (p.1 d a n) s = .next (s.withG d (p.2 (s.src a) n.val)).completed) ∧
  (∀ (d a : GReg) (e : Ext) (p n : Fin 64) (s : State) (u : Nat) (t : Thread),
    s.Runs u t → s.Prompt → s.Unbound d → s.Unbound a → p.val + n.val < 64 →
      ∃ w : Word, exec (.bfx d a e p n) s = .next (s.withG d w).completed ∧
        ∀ j < 64, w.getLsbD j =
          if j ≤ n.val then (s.src a).getLsbD (p.val + j) else (e == .sx && (s.src a).getLsbD (p.val + n.val))) ∧
  (∀ (d a : GReg) (p n : Fin 64) (s : State) (u : Nat) (t : Thread),
    s.Runs u t → s.Prompt → s.Unbound d → s.Unbound a → p.val + n.val < 64 →
      ∃ w : Word, exec (.bfi d a p n) s = .next (s.withG d w).completed ∧
        ∀ j < 64, w.getLsbD j =
          if p.val ≤ j ∧ j ≤ p.val + n.val then (s.src a).getLsbD (j - p.val) else (s.src d).getLsbD j) ∧
  (∀ p ∈ intTable, ∀ (ty : ITy) (d a b : GReg) (s : State) (u : Nat) (t : Thread),
    s.Runs u t → s.bun.hold = true → s.Unbound d → s.Unbound a → s.Unbound b →
      exec (p.1 ty d a b) s =
        .next (s.modMe (fun t => { t with held := t.held ++ [.g d (atType ty p.2 (s.src a) (s.src b))] })).completed)

/-- R129: `lui`: its encoding, and gD := sext(imm21, 21) · 2¹⁷. -/
def Obligations.UpperImmediates : Prop :=
  ∀ (d : GReg) (i : BitVec 21),
    encode (.lui d i) = some (42 * 2 ^ 25 + d.val * 2 ^ 21 + i.toNat) ∧
    decodeWord (42 * 2 ^ 25 + d.val * 2 ^ 21 + i.toNat) = .ok (.lui d i) ∧
    ∀ (s : State) (u : Nat) (t : Thread), s.Runs u t → s.Prompt → s.Unbound d →
      exec (.lui d i) s = .next (s.withG d (BitVec.ofInt 64 (i.toInt * 2 ^ 17))).completed

/-! ### Control flow -/

/-- R130: a branch goes to the target so many words from the bundle when its condition holds, and on to the next bundle
otherwise; it changes nothing else. R132: `jr` and `callr` go to gA[47:0], `callr` leaves the address of the next bundle in g15, and a
register jump to an address that is no multiple of 4 traps ALIGN with that address. That a link wraps at the top of the address
space is the model's choice (log entry 56). -/
def Obligations.ControlTransfers : Prop :=
  (∀ p ∈ branchTable, ∀ (a b : GReg) (x : BitVec 17) (s : State) (u : Nat) (t : Thread),
    s.Runs u t → s.Unbound a → s.Unbound b →
      exec (p.1 a b x) s = .next (if p.2 (s.src a) (s.src b) then s.jumps (s.wordsAway x) else s).completed) ∧
  (∀ (k : KReg) (x : BitVec 17) (s : State) (u : Nat) (t : Thread), s.Runs u t →
    exec (.bkz k x) s = .next (if s.bun.k[k] = 0 then s.jumps (s.wordsAway x) else s).completed ∧
    exec (.bknz k x) s = .next (if s.bun.k[k] = 0 then s else s.jumps (s.wordsAway x)).completed) ∧
  (∀ (a : GReg) (s : State) (u : Nat) (t : Thread), s.Runs u t → s.Unbound a → (s.src a).toNat % 4 = 0 →
    exec (.jr a) s = .next (s.jumps ((s.src a).setWidth 48)).completed ∧
    (s.Prompt → exec (.callr a) s =
      .next ((s.jumps ((s.src a).setWidth 48)).withG 15
        (BitVec.ofNat 64 ((s.bun.pc + s.bun.size) % 2 ^ 48))).completed)) ∧
  (∀ (a : GReg) (s : State) (u : Nat) (t : Thread), s.Runs u t → s.Unbound a → (s.src a).toNat % 4 ≠ 0 →
    exec (.jr a) s = .next (s.trapped .align (2 * 2 ^ 60 + (s.src a).toNat % 2 ^ 48)) ∧
    exec (.callr a) s = exec (.jr a) s)

/-- R131: `jmp` and `call`: their encodings, with the d field that each requires, the target so many words from the bundle
modulo 2⁴⁸, and the address of the next bundle in g15. That this address wraps at the top of the address space is the
model's choice (log entry 56). -/
def Obligations.JumpsAndCalls : Prop :=
  ∀ x : BitVec 21,
    decodeWord (5 * 2 ^ 25 + x.toNat) = .ok (.jmp x) ∧ decodeWord (6 * 2 ^ 25 + 15 * 2 ^ 21 + x.toNat) = .ok (.call x) ∧
    (∀ d < 16, d ≠ 0 → ∃ e, decodeWord (5 * 2 ^ 25 + d * 2 ^ 21 + x.toNat) = .error e) ∧
    (∀ d < 15, ∃ e, decodeWord (6 * 2 ^ 25 + d * 2 ^ 21 + x.toNat) = .error e) ∧
    ∀ (s : State) (u : Nat) (t : Thread), s.Runs u t →
      exec (.jmp x) s = .next (s.jumps (BitVec.ofInt 48 (s.bun.pc + 4 * x.toInt))).completed ∧
      (s.Prompt → exec (.call x) s = .next ((s.jumps (BitVec.ofInt 48 (s.bun.pc + 4 * x.toInt))).withG 15
        (BitVec.ofNat 64 ((s.bun.pc + s.bun.size) % 2 ^ 48))).completed)

/-! ### System words and control registers -/

/-- R110, R112, R135, R136, R159: `nop` changes nothing; `tret` goes to EPC, takes PRV from PPRV and clears TH, and in task
mode traps PRIV; `itinc` adds one to IT, and traps IT_OVERFLOW at the greatest iteration and DEADLINE once the
launch's deadline has passed. -/
def Obligations.NopReturnAndIterations : Prop :=
  ∀ (s : State) (u : Nat) (t : Thread), s.Runs u t →
    exec .nop s = .next s.completed ∧
    (t.ctx.prv = true → exec .tret s =
      .next (s.modCtx (fun c => { c with pc := s.regs.epc.setWidth 48, prv := c.pprv, th := false })).completed) ∧
    (t.ctx.prv = false → exec .tret s = .next (s.trapped .priv s.wordOf)) ∧
    ((∀ c, t.job.deadline = some c → s.cycle < c) →
      (t.ctx.it ≠ -1 → exec .itinc s = .next (s.modCtx (fun c => { c with it := t.ctx.it + 1 })).completed) ∧
      (t.ctx.it = -1 → exec .itinc s = .next (s.trapped .itOverflow s.wordOf))) ∧
    ((∃ c, t.job.deadline = some c ∧ c ≤ s.cycle) → exec .itinc s = .next (s.trapped .deadline t.ctx.it.toNat))

/-- R159: `itset` and `itinc`: their encodings and the functions and fields that major 22 refuses; `itset` sets IT := ga[23:0];
`itinc` traps DEADLINE with IT once the launch's deadline has passed, then IT_OVERFLOW with the word at the greatest iteration, and
else adds one to IT. Neither parks or touches anything else. -/
def Obligations.IterationWords : Prop :=
  decodeWord 0xAC080001 = .ok (.itset 4) ∧ decodeWord 0xAC000002 = .ok .itinc ∧
  (∀ a : GReg, decodeWord (22 * 2 ^ 25 + a.val * 2 ^ 17 + 1) = .ok (.itset a)) ∧
  decodeWord (22 * 2 ^ 25 + 2) = .ok .itinc ∧
  (∀ d < 16, ∀ a < 16, ∀ b < 16, ∀ fn < 2 ^ 13,
    2 < fn ∨ (fn = 1 ∧ (d ≠ 0 ∨ b ≠ 0)) ∨ (fn = 2 ∧ (d ≠ 0 ∨ a ≠ 0 ∨ b ≠ 0)) →
      ∃ e, decodeWord (22 * 2 ^ 25 + d * 2 ^ 21 + a * 2 ^ 17 + b * 2 ^ 13 + fn) = .error e) ∧
  (∀ (a : GReg) (s : State) (u : Nat) (t : Thread), s.Runs u t → s.Unbound a →
    exec (.itset a) s = .next (s.modCtx (fun c => { c with it := BitVec.ofNat 24 ((s.src a).toNat % 2 ^ 24) })).completed) ∧
  ∀ (s : State) (u : Nat) (t : Thread), s.Runs u t →
    exec .itinc s = .next (
      if (∃ c, t.job.deadline = some c ∧ c ≤ s.cycle) then s.trapped .deadline t.ctx.it.toNat
      else if t.ctx.it.toNat = 2 ^ 24 - 1 then s.trapped .itOverflow s.wordOf
      else (s.modCtx (fun c => { c with it := t.ctx.it + 1 })).completed)

/-- R104, R105, R107: `csrr` reads every assigned register, in task mode all but TVEC, EPC, CAUSE, TVAL and SCRATCH, which trap
PRIV; an unassigned number traps ILLEGAL. R105, R106, R138: `csrw` writes gA, `csrs` sets and `csrc` clears the bits of gA,
with the rest of the register as it was. R105, R138: a write of a number that is unassigned or read-only traps ILLEGAL; in
task mode one of a register that only supervisor mode writes traps PRIV; a set bit in a zero or reserved field traps ILLEGAL
in `csrw` and `csrs`. The order of a write's checks is the model's choice (log entry 12). -/
def Obligations.ControlRegisters : Prop :=
  (∀ (c : BitVec 12) (d : GReg) (s : State) (u : Nat) (t : Thread), s.Runs u t → s.Prompt → s.Unbound d →
    (∀ e ∈ s.csrTable t, c.toNat = e.1 →
      (t.ctx.prv = true ∨ e.2.1 = true → exec (.csrr d c) s = .next (s.withG d e.2.2).completed) ∧
      (t.ctx.prv = false → e.2.1 = false → exec (.csrr d c) s = .next (s.trapped .priv s.wordOf))) ∧
    ((∀ e ∈ s.csrTable t, c.toNat ≠ e.1) → exec (.csrr d c) s = .next (s.trapped .illegal s.wordOf))) ∧
  (∀ e ∈ csrRows, ∀ (c : BitVec 12) (a : GReg) (s : State) (u : Nat) (t : Thread), s.Runs u t → s.Unbound a →
    c.toNat = e.num → t.ctx.prv = true ∨ e.task = true →
      (s.src a &&& ~~~e.fields = 0 →
        exec (.csrw c a) s = .next (e.set s (s.src a)).completed ∧
        exec (.csrs c a) s = .next (e.set s (e.get s t ||| s.src a)).completed) ∧
      exec (.csrc c a) s = .next (e.set s (e.get s t &&& ~~~s.src a)).completed) ∧
  (∀ (c : BitVec 12) (a : GReg) (s : State) (u : Nat) (t : Thread), s.Runs u t → s.Unbound a →
    ((∀ e ∈ csrRows, c.toNat ≠ e.num) → ∀ i ∈ [Instr.csrw c a, .csrs c a, .csrc c a],
      exec i s = .next (s.trapped .illegal s.wordOf)) ∧
    (∀ e ∈ csrRows, c.toNat = e.num →
      (t.ctx.prv = false → e.task = false → ∀ i ∈ [Instr.csrw c a, .csrs c a, .csrc c a],
        exec i s = .next (s.trapped .priv s.wordOf)) ∧
      (t.ctx.prv = true ∨ e.task = true → s.src a &&& ~~~e.fields ≠ 0 → ∀ i ∈ [Instr.csrw c a, .csrs c a],
        exec i s = .next (s.trapped .illegal s.wordOf))))

/-! ### Traps -/

/-- R66, R111, R117: a trap with a handler saves the bundle's address in EPC, the code in CAUSE and TVAL with bit 63 set for the
A word, keeps PRV in PPRV, enters supervisor mode with TH set, and goes on at TVEC; nothing else changes. `ecall` and `brk`
take it. R111, R157, R302: a trap with TH set or TVEC 0 stops the thread: its record goes, its slot is free, a stop notice
with its identifier goes to every core of the booth's region, and its launch counts one thread done and one fault. -/
def Obligations.TrapEntry : Prop :=
  (∀ p ∈ [(Instr.ecall, 0x06), (Instr.brk, 0x05)], ∀ (s : State) (u : Nat) (t : Thread), s.Runs u t →
    t.ctx.th = false → (s.bc s.cid t.booth).tvec ≠ 0 →
      ∃ s', exec p.1 s = .next s' ∧
        s'.thread u = some { t.woken s.cycle with held := [], aRan := false, beats := 0, given := [], ctx := { t.ctx with
          pprv := t.ctx.prv, prv := true, th := true, pc := (s.bc s.cid t.booth).tvec.setWidth 48 } } ∧
        s'.slot s.cur = { s.slot s.cur with regs := { (s.slot s.cur).regs with
          epc := BitVec.ofNat 64 s.bun.pc
          cause := BitVec.ofNat 64 p.2
          tval := BitVec.ofNat 64 (if s.bun.isA then s.bun.aw + 2 ^ 63 else s.bun.cw) } } ∧
        s'.mem = s.mem ∧ s'.net = s.net ∧ s'.booths = s.booths ∧ s'.cores = s.cores ∧
        (∀ v, v ≠ u → s'.thread v = s.thread v) ∧ ∀ k, k ≠ s.cur → s'.slot k = s.slot k) ∧
  (∀ i ∈ [Instr.ecall, Instr.brk], ∀ (s : State) (u h : Nat) (t : Thread) (l : Launch), s.Runs u t →
    t.ctx.th = true ∨ (s.bc s.cid t.booth).tvec = 0 → t.job.launch = some h → find s.launches h = some l →
      ∃ s', exec i s = .next s' ∧ s'.threads = del s.threads u ∧ (s'.slot s.cur).run = none ∧
        (s'.slot s.cur).phase = .free ∧
        (∃ ms, s'.net = s.net ++ ms ∧ ms.map (fun m => (m.src, m.dst, m.booth, m.body)) =
          (s.regionCores t.booth).map (fun c => (s.cid, c, t.booth, Body.stop (2 ^ 31 + s.cur)))) ∧
        (∃ l', find s'.launches h = some l' ∧ l'.live = l.live - 1 ∧ l'.ndone = l.ndone + 1 ∧ l'.nfault = l.nfault + 1) ∧
        ∀ k, k ≠ s.cur → s'.slot k = s.slot k)

/-! ### Fences, migration and the tag table -/

/-- R137, R166: a fence of a thread with nothing outstanding completes at once, and clears TBM at the scopes package and fabric;
`ifence` is a fence of fabric scope; with a spray access outstanding a fence waits. R166: a probe that has arrived is
echoed once no earlier ordered access of its source to the home is under way, and not before; the last echo ends the fence of its
thread, and one of package or fabric scope clears TBM; an earlier echo is only counted. R149, R215: while a refusal of one of the
thread's accesses is still under way an echo waits. -/
def Obligations.Fences : Prop :=
  (∀ (s : State) (u : Nat) (t : Thread), s.Runs u t →
    (t.Quiet → exec .ifence s = .next s.fenced.completed ∧
      ∀ sc : Scope, exec (.fence sc) s =
        .next (if sc = .package ∨ sc = .fabric then s.fenced else s).completed) ∧
    (t.spray ≠ [] → exec .ifence s = exec (.fence .fabric) s ∧ ∀ sc : Scope, ∃ s' n, exec (.fence sc) s = .next s' ∧
      s'.bun.fin = .parked ∧ s'.thread u = some { t with wait := .fence n false [] .complete } ∧ s'.mem = s.mem ∧
      s'.net = s.net)) ∧
  (∀ (n : Nat) (s : State) (m : Msg), s.arrived n = some m →
    (m.body = .probe →
      let before (x : Msg) : Prop := x.chan = 0 ∧ x.dst = m.dst ∧ m.src ∈ x.sources
      ((∀ x ∈ s.net.take n, ¬ before x) → exec (.fenceProbe n) s = .next (s.answered n m .echo)) ∧
      ((∃ x ∈ s.net.take n, before x) → exec (.fenceProbe n) s = .refused (.notEnabled "FENCE_PROBE"))) ∧
    (m.body = .echo → (∃ x ∈ dropAt s.net n, x.uid = m.uid ∧ x.party = .core ∧ ∃ va, x.body = .refusal va) →
      exec (.fenceEcho n) s = .refused (.notEnabled "FENCE_ECHO")) ∧
    (∀ (t : Thread) (scope : Nat) (left : List Nat), m.body = .echo → s.thread m.uid = some t → t.Plain →
      (∀ x ∈ s.net, x.uid = m.uid → ∀ va, x.body ≠ .refusal va) →
      t.wait = .fence scope true left .complete → t.refusal = none → m.src ∈ left →
        ∃ s', exec (.fenceEcho n) s = .next s' ∧ s'.mem = s.mem ∧
          (left.length = 1 → s'.thread m.uid = some { t.woken s.cycle with
            aRan := false
            ctx := if 3 ≤ scope then { t.ctx with tbm := 0 } else t.ctx }) ∧
          (1 < left.length → s'.thread m.uid = some { t with wait := .fence scope true (left.erase m.src) .complete })))

/-- R35, R170: `mig` to an address of the own window or of a page at home here and `migc` to the own core have no effect. R35,
R36, R170 to R172: `migc` to another core of the booth's region sends the context there as one message on channel 3 and
frees the slot; a destination outside the region traps MIGRATE_REFUSED. -/
def Obligations.Migrations : Prop :=
  (∀ (a : GReg) (s : State) (u : Nat) (t : Thread), s.Runs u t → s.Unbound a →
    (winBase ≤ (s.src a).toNat % 2 ^ 48 → exec (.mig a) s = .next s.completed) ∧
    (∀ p, s.Far accLoad ((s.src a).toNat % 2 ^ 48) p → p.home = s.cid → exec (.mig a) s = .next s.completed) ∧
    (s.src a = BitVec.ofNat 64 (s.cid * 16) → isCore s.cid = true → exec (.migc a) s = .next s.completed)) ∧
  (∀ (a : GReg) (dst : Nat) (s : State) (u : Nat) (t : Thread), s.Runs u t → s.Unbound a → isCore dst = true → dst ≠ s.cid →
    s.src a = BitVec.ofNat 64 (dst * 16) →
      (s.inRegion t.booth dst = true → t.Quiet → t.sfuPend = 0 → (∀ i : Fin 4, s.regs.streams[i] = none) →
        ∃ s' m, exec (.migc a) s = .next s' ∧ s'.bun.fin = .gone ∧ s'.net = s.net ++ [m] ∧ m.chan = 3 ∧ m.src = s.cid ∧
          m.dst = dst ∧ m.booth = t.booth ∧ m.uid = u ∧ m.body = .context ∧ (s'.slot s.cur).run = none ∧
          (s'.slot s.cur).phase = .free ∧ s'.mem = s.mem ∧
          ∃ t', s'.thread u = some t' ∧ t'.place = .flight ∧ t'.key = dst * 16 + s.cur % 16 ∧ t'.ctx.g = t.ctx.g ∧
            t'.ctx.it = t.ctx.it ∧ t'.ctx.prv = t.ctx.prv ∧
            t'.ctx.pc.toNat = (if s.bun.size = 8 then s.bun.pc else s.bun.pc + 4) % 2 ^ 48) ∧
      (s.inRegion t.booth dst = false → exec (.migc a) s = .next (s.trapped .migrateRefused (dst * 16))))

/-- R167 to R169: `tset` enters a block address for a frame, valid, with age 0 and the slot as owner; `tinv` clears V alone;
`tage` returns V, owner and age; `tlook` finds the lowest frame of the booth that holds a block, or answers all ones. -/
def Obligations.TagTable : Prop :=
  ∀ (d a b : GReg) (s : State) (u : Nat) (t : Thread) (f : Nat), s.Runs u t → s.Unbound a → s.Unbound b →
    f = (s.src a).toNat % 256 → s.ownsOff s.cid t.booth (512 * f) = true → s.bankHeld (s.cid * 16 + f / 16) = false →
      exec (.tset a b) s =
        .next (s.setTag s.cid f ⟨(s.src b).toNat / 512 % 2 ^ 39, true, 0, s.cur % 16⟩).completed ∧
      exec (.tinv a) s = .next (s.setTag s.cid f { s.tag s.cid f with v := false }).completed ∧
      (s.Prompt → s.Unbound d →
        exec (.tage d a) s = .next (s.withG d (BitVec.ofNat 64 ((s.tag s.cid f).age + 2 ^ 56 * (s.tag s.cid f).owner +
          (if (s.tag s.cid f).v then 2 ^ 63 else 0)))).completed) ∧
      (s.Prompt → s.Unbound d → winBase ≤ (s.src b).toNat % 2 ^ 48 → exec (.tlook d b) s =
        .next (s.withG d (match (s.core s.cid).tags.find? (fun e => e.2.v && e.2.vba == (s.src b).toNat % 2 ^ 48 / 512 &&
            s.ownsOff s.cid t.booth (e.1 * 512)) with
          | none => -1
          | some e => BitVec.ofNat 64 e.1)).completed)

/-! ### Memory words -/

/-- R140, R143, R147: a load or store at an aligned address of the own window: a load leaves the bytes, sign- or
zero-extended, a store writes the low bytes of its data register, lowest first. -/
def Obligations.LocalLoadsAndStores : Prop :=
  ∀ (d a : GReg) (z : Size) (c : Cls) (o : BitVec 12) (s : State) (u : Nat) (t : Thread) (off : Nat), s.Runs u t →
    s.Unbound d → s.Unbound a → s.Near (effAddr (s.src a) o) off → off % (Size.bytes z) = 0 →
      (s.Prompt → ∀ e : Ext, exec (.ld d a z c e o) s =
        .next (s.withG d (let b := BitVec.ofNat (8 * (Size.bytes z)) (s.mem.read (spad s.cid off) (Size.bytes z))
          if e = .sx then b.signExtend 64 else b.setWidth 64)).completed) ∧
      exec (.st d a z c o) s = .next (s.modMem (fun m => m.write (spad s.cid off) (Size.bytes z) (s.src d).toNat)).completed

/-- R145 to R147, R345: a load from a home core asks it and parks; a store is posted to it. -/
def Obligations.RemoteLoadsAndStores : Prop :=
  ∀ (d a : GReg) (z : Size) (c : Cls) (o : BitVec 12) (s : State) (u : Nat) (t : Thread) (p : Page) (va : Nat), s.Runs u t →
    s.Unbound d → s.Unbound a → va = effAddr (s.src a) o → va % (Size.bytes z) = 0 →
      t.sprayHolds (p.ga va) (Size.bytes z) = false →
      (s.Far accLoad va p → ∀ e : Ext, ∃ s', exec (.ld d a z c e o) s = .next s' ∧
        s.Asks s' u t p va c d (.load (Size.bytes z) (e == .sx))) ∧
      (s.Far accStore va p → p.kind ≠ 2 → s.WindowOpen → ∃ s', exec (.st d a z c o) s = .next s' ∧
        s.Posts s' u t p va (Size.bytes z) c (.store (Size.bytes z) ((s.src d).toNat % 2 ^ (8 * (Size.bytes z)))))

/-- R116, R118, R119, R140, R143: a misaligned load traps ALIGN before anything else; one in the own window but in no bank of the
booth, and one whose page does not grant it, trap LOAD_XLATE; one whose page no translation buffer holds starts a walk and is
issued again, as does one at an address that is not mapped. Which page a walk of an unmapped address names is the model's
(log entry 50). -/
def Obligations.LoadTraps : Prop :=
  ∀ (d a : GReg) (z : Size) (c : Cls) (e : Ext) (o : BitVec 12) (s : State) (u : Nat) (t : Thread) (va : Nat), s.Runs u t →
    s.Unbound a → va = effAddr (s.src a) o →
      (va % (Size.bytes z) ≠ 0 → exec (.ld d a z c e o) s = .next (s.trapped .align (2 * 2 ^ 60 + va))) ∧
      (va % (Size.bytes z) = 0 → winBase ≤ va → s.ownsOff s.cid t.booth (va - winBase) = false →
        exec (.ld d a z c e o) s = .next (s.trapped .loadXlate (2 ^ 60 + va))) ∧
      (va % (Size.bytes z) = 0 → va < winBase →
        (s.pageFor (pkgOf s.cid) t.booth va = none →
          exec (.ld d a z c e o) s = .next (s.reissued (.walk (s.cid / 16) t.booth (va - va % 65536) 0x09 va))) ∧
        (∀ p, s.pageFor (pkgOf s.cid) t.booth va = some p →
          let buffered := (s.core s.cid).tlb.contains (t.booth, p) || (getD s.l2 (s.cid / 16) []).contains (t.booth, p)
          (buffered = false → exec (.ld d a z c e o) s = .next (s.reissued (.walk (s.cid / 16) t.booth p.va 0x09 va))) ∧
          (buffered = true → p.kind ≠ 2 → p.rd = false ∨ (p.sup = true ∧ t.ctx.prv = false) →
            exec (.ld d a z c e o) s = .next (s.trapped .loadXlate (2 ^ 60 + va)))))

/-- R150, R151: a synchronising access to a word of the own scratchpad that is in the state it needs is performed at once:
memory, the word's full/empty bit and the destination register, by the table; one that is not waits in the word's list.
R161, R162: `amo` and `cas` on the own scratchpad: the old value, zero-extended, in gD, and the new value in memory, all in
one step; `cas` stores only when the old value is the expected one in gD. -/
def Obligations.LocalSynchronisingAndAtomicAccesses : Prop :=
  (∀ e ∈ syncRows, ∀ (d a : GReg) (c : Cls) (o : BitVec 12) (s : State) (u : Nat) (t : Thread) (off : Nat), s.Runs u t →
    s.Unbound d → s.Unbound a → s.Near (effAddr (s.src a) o) off → off % 8 = 0 → t.Plain → t.wait = .idle →
      let ga := spad s.cid off
      let f := s.mem.isFull ga
      (e.needs = none ∨ e.needs = some f → (∀ p ∈ s.feWait, p.msg.ga ≠ ga) →
        ∃ s', exec (e.op.word d a c o) s = .next s' ∧ s'.bun.fin = .done ∧
          s'.mem = (let m := if e.writes then s.mem.write ga 8 (s.src d).toNat else s.mem
            if e.after f = f ∧ e.writes = false then m else m.setFull ga (e.after f)) ∧
          s'.thread u = some { t.woken s.cycle with aRan := false, ctx := { t.ctx with
            g := match e.value (BitVec.ofNat 64 (s.mem.read ga 8)) f with
              | none => t.ctx.g
              | some w => if d.val = 0 then t.ctx.g else t.ctx.g.set d w } }) ∧
      (e.needs = some (!f) → ∃ s' m, exec (e.op.word d a c o) s = .next s' ∧ s'.bun.fin = .parked ∧
        s'.feWait = s.feWait ++ [⟨m, s.cycle, 1⟩] ∧ m.ga = ga ∧ m.uid = u ∧ s'.mem = s.mem ∧
        s'.thread u = some { t with wait := .reply s.nextMid })) ∧
  (∀ (d a b : GReg) (wide : Bool) (c : Cls) (s : State) (u : Nat) (t : Thread) (off : Nat), s.Runs u t → s.Prompt →
    s.Unbound d → s.Unbound a → s.Unbound b → s.Near ((s.src a).toNat % 2 ^ 48) off →
      let n := if wide then 8 else 4
      let ga := spad s.cid off
      let old := BitVec.ofNat (8 * n) (s.mem.read ga n)
      off % n = 0 →
        (∀ op : AmoOp, op ≠ .fadd → exec (.amo op d a b wide c) s =
          .next ((s.modMem (fun m => m.write ga n (amoRef op (8 * n) old ((s.src b).setWidth _)).toNat)).withG d
            (old.setWidth 64)).completed) ∧
        (wide = false → exec (.amo .fadd d a b wide c) s =
          .next ((s.modMem (fun m => m.write ga n (Exact.round Exact.f32 .rne false (Exact.add false (Exact.ofBits Exact.f32 old.toNat)
            (Exact.ofBits Exact.f32 ((s.src b).toNat % 2 ^ 32)))))).withG d (old.setWidth 64)).completed) ∧
        exec (.cas d a b wide c) s =
          .next ((if old = (s.src d).setWidth _ then s.modMem (fun m => m.write ga n ((s.src b).toNat % 2 ^ (8 * n)))
            else s).withG d (old.setWidth 64)).completed)

/-- R145, R150, R152: a synchronising access to a word of a home core asks it, with FERETRY and FEWAIT as they stand. R145,
R161, R162: on a home core an `amo` to g0 is posted, every other `amo` and `cas` is asked. -/
def Obligations.RemoteSynchronisingAndAtomicAccesses : Prop :=
  (∀ e ∈ syncRows, ∀ (d a : GReg) (c : Cls) (o : BitVec 12) (s : State) (u : Nat) (t : Thread) (p : Page) (va : Nat),
    s.Runs u t → s.Unbound d → s.Unbound a → va = effAddr (s.src a) o → va % 8 = 0 →
      s.Far (if e.op.isLoad then accSyncLoad else accSyncStore) va p → t.sprayHolds (p.ga va) 8 = false →
        ∃ s', exec (e.op.word d a c o) s = .next s' ∧
          s.Asks s' u t p va c (if e.op.isLoad then d else 0) (.sync e.op (if e.writes then s.src d else 0)
            (s.bc s.cid t.booth).feretry.toNat (s.bc s.cid t.booth).fewait.toNat)) ∧
  (∀ (d a b : GReg) (wide : Bool) (c : Cls) (s : State) (u : Nat) (t : Thread) (p : Page) (va : Nat), s.Runs u t →
    s.Unbound d → s.Unbound a → s.Unbound b → s.Far accAtomic va p → va = (s.src a).toNat % 2 ^ 48 →
      let n := if wide then 8 else 4
      let v := (s.src b).toNat % 2 ^ (8 * n)
      va % n = 0 → t.sprayHolds (p.ga va) n = false →
        (∀ op : AmoOp, d.val ≠ 0 → ∃ s' e, exec (.amo op d a b wide c) s = .next s' ∧
          s.Asks s' u t p va c d (.amo op n [e]) ∧ e.operand = v ∧ e.uid = u ∧ e.d = d) ∧
        (∀ op : AmoOp, d.val = 0 → s.WindowOpen → ∃ s' e, exec (.amo op d a b wide c) s = .next s' ∧
          s.Posts s' u t p va n c (.amo op n [e]) ∧ e.operand = v ∧ e.uid = u) ∧
        ∃ s', exec (.cas d a b wide c) s = .next s' ∧
          s.Asks s' u t p va c d (.cas n ((s.src d).toNat % 2 ^ (8 * n)) v))

/-- R139, R155, R156, R158: `lda`, `fetcha` and `pub` ask the home of an aged page with the thread's iteration; `pub` sends
the 512 bytes of its frame; a lag is a count or bits [23:0] of a register. -/
def Obligations.AgedAccesses : Prop :=
  ∀ (d a : GReg) (s : State) (u : Nat) (t : Thread) (p : Page) (va : Nat), s.Runs u t → s.Unbound d → s.Unbound a →
    t.spray = [] →
      (∀ (m : AMode) (g : Lag) (o : BitVec 8) (n : Nat), va = effAddr (s.src a) o → va % 8 = 0 → s.Far accAgedLoad va p →
        (∀ k, g = .count k → n = k.val) → (∀ r, g = .reg r → s.Unbound r ∧ n = (s.src r).toNat % 2 ^ 24) →
        (∃ s', exec (.lda d a m g o) s = .next s' ∧ s.Asks s' u t p va .ord d
          (.lda (p.ga va % 512) (m == .park) n t.ctx.it.toNat (s.bc s.cid t.booth).agewait.toNat)) ∧
        (∀ f, f = (s.src d).toNat % 256 → s.ownsOff s.cid t.booth (512 * f) = true →
          s.bankHeld (s.cid * 16 + f / 16) = false →
          ∃ s', exec (.fetcha d a m g o) s = .next s' ∧ s.Asks s' u t p va .ord 0
            (.fetcha f (m == .park) n t.ctx.it.toNat (s.bc s.cid t.booth).agewait.toNat))) ∧
      (∀ b f, va = (s.src a).toNat % 2 ^ 48 → va % 512 = 0 → s.Far accPub va p → s.Unbound b →
        f = (s.src b).toNat % 256 → s.ownsOff s.cid t.booth (512 * f) = true → s.bankHeld (s.cid * 16 + f / 16) = false →
        ∃ s', exec (.pub d a b) s = .next s' ∧
          s.Asks s' u t p va .ord d (.pub (s.mem.read (spad s.cid (512 * f)) 512) t.ctx.it.toNat))

/-! ### Engine words -/

/-- R15, R218, R221, R224, R225, R234: a push to the copy engine that no check refuses enters the booth's queue with its thread's
iteration and limit, and counts against the thread; a refused one traps ENGINE_REFUSED; with the queue full, a released command
still to enter it, or eight commands counted, it is issued again. R221, R235: `push.arm` holds the command that its image names for a slot's term; a refused one traps ENGINE_REFUSED.
R365, R366: a push to the network engine on an edge core enters the queue of the booth in the die's engine, or with H is
held for a slot's term; a refused one traps ENGINE_REFUSED. That a push waits while a handover has the engine serve the booth's other
tenant is the model's choice (log entry 65). -/
def Obligations.EnginePushes : Prop :=
  (∀ (i : Instr) (a b : GReg) (fn : Nat) (s : State) (u : Nat) (t : Thread), copyPush i = some (a, b, fn) → s.Runs u t →
    s.Unbound a → s.Unbound b →
      let q := s.vq (engOf s.cid) t.booth
      let r := s.cmdRefusal fn (s.src a) (s.src b)
      (r ≠ 0 → exec i s = .next (s.trapped .engineRefused (r * 2 ^ 16 + 1))) ∧
      (r = 0 → t.Quiet → q.queue.length < 32 → q.released = [] → t.cpCount < 8 →
        ∃ s', exec i s = .next s' ∧ s'.bun.fin = .done ∧
          s'.vq (engOf s.cid) t.booth = { q with queue := q.queue ++ [⟨fn, s.src a, s.src b, u, s.cur, t.booth, t.ctx.it.toNat,
            (s.bc s.cid t.booth).agewait.toNat, t.job.launch, t.ctx.prv, t.moves, t.tenant, []⟩] } ∧
          s'.thread u = some { t with cpCount := t.cpCount + 1 } ∧ s'.mem = s.mem ∧ s'.net = s.net ∧ s'.slots = s.slots) ∧
      (r = 0 → t.Quiet → 32 ≤ q.queue.length ∨ q.released ≠ [] ∨ 8 ≤ t.cpCount →
        exec i s = .next (s.reissued (.port .copy)))) ∧
  (∀ (a b : GReg) (s : State) (u : Nat) (t : Thread), s.Runs u t → s.Unbound a → s.Unbound b →
    let q := s.vq (engOf s.cid) t.booth
    let r := s.armRefusal (s.src a) (s.src b)
    let off := (s.src b).toNat % 2 ^ 17
    (r ≠ 0 → exec (.pushArm a b) s = .next (s.trapped .engineRefused (r * 2 ^ 16 + 1))) ∧
    (r = 0 → t.Quiet → t.cpCount < 8 → s.TermsOff s.cid →
      ∃ s', exec (.pushArm a b) s = .next s' ∧ s'.bun.fin = .done ∧
        s'.vq (engOf s.cid) t.booth = { q with held := q.held ++
          [⟨s.cid * 16 + (s.src a).toNat / 2 ^ 16 % 16, s.cycle,
            ⟨(s.src a).toNat % 2 ^ 13, s.mem.word (spad s.cid off), s.mem.word (spad s.cid (off + 8)), u, s.cur, t.booth,
              t.ctx.it.toNat, (s.bc s.cid t.booth).agewait.toNat, t.job.launch, t.ctx.prv, t.moves, t.tenant, []⟩⟩] } ∧
        s'.thread u = some { t with cpCount := t.cpCount + 1 } ∧ s'.mem = s.mem)) ∧
  (∀ (i : Instr) (a b : GReg) (fn : Nat) (h : Option Nat) (s : State) (u : Nat) (t : Thread),
    netPush i = some (a, b, fn, h) → s.Runs u t → s.Unbound a → s.Unbound b → isEdge s.cid = true →
      let q := s.nq (nqKey s.cid t.booth)
      let r := s.nwRefusal fn (s.src a) (s.src b)
      let c : NCmd := ⟨fn, s.src a, s.src b, u, s.cur, t.booth, t.job.launch, t.ctx.prv, t.moves, t.tenant, []⟩
      (s.netTenant (pkgOf s.cid) (dieOf s.cid) t.booth ≠ t.tenant → exec i s = .next (s.reissued .handover)) ∧
      (s.netTenant (pkgOf s.cid) (dieOf s.cid) t.booth = t.tenant →
      (r ≠ 0 → exec i s = .next (s.trapped .engineRefused (r * 2 ^ 16 + 2))) ∧
      (r = 0 → t.Quiet → t.nwCount < 8 →
        (h = none → q.queue.length < 32 → q.released = [] → ∃ s', exec i s = .next s' ∧ s'.bun.fin = .done ∧
          s'.nq (nqKey s.cid t.booth) = { q with queue := q.queue ++ [c] } ∧
          s'.thread u = some { t with nwCount := t.nwCount + 1 } ∧ s'.mem = s.mem) ∧
        (∀ k, h = some k → s.TermsOff s.cid → ∃ s', exec i s = .next s' ∧ s'.bun.fin = .done ∧
          s'.nq (nqKey s.cid t.booth) = { q with held := q.held ++ [⟨s.cid * 16 + k, s.cycle, c⟩] } ∧
          s'.thread u = some { t with nwCount := t.nwCount + 1 } ∧ s'.mem = s.mem))))

/-- R222, R375: `pop` takes the oldest result element, and without one is issued again when one has come; `ctrwait` goes on
when its counter has reached the threshold, and else parks. That a `ctrwait` on the network engine waits while a handover has it serve
the booth's other tenant is the model's choice (log entry 65). -/
def Obligations.PopAndCounterWait : Prop :=
  ∀ (d a : GReg) (s : State) (u : Nat) (t : Thread), s.Runs u t →
    (∀ w ws, s.Prompt → s.Unbound d → t.cpOut = w :: ws → exec (.pop d .copy) s =
      .next ((s.setThread u { t with cpOut := ws, cpCount := t.cpCount - 1 }).withG d w).completed) ∧
    (∀ w ws, s.Prompt → s.Unbound d → t.nwOut = w :: ws → isEdge s.cid = true → exec (.pop d .net) s =
      .next ((s.setThread u { t with nwOut := ws, nwCount := t.nwCount - 1 }).withG d w).completed) ∧
    (t.cpOut = [] → exec (.pop d .copy) s = .next (s.reissued (.element .copy))) ∧
    (s.Unbound a →
      ((s.src a).toNat % 2 ^ 16 ≤ (s.slot s.cur).crCnt → exec (.ctrwait a .copy) s = .next s.completed) ∧
      ((s.slot s.cur).crCnt < (s.src a).toNat % 2 ^ 16 → exec (.ctrwait a .copy) s =
        .next (s.setThread u { t with wait := .crier ((s.src a).toNat % 2 ^ 16) }).waiting) ∧
      (isEdge s.cid = true → (s.src a).toNat < 2 ^ 54 → s.netTenant (pkgOf s.cid) (dieOf s.cid) t.booth ≠ t.tenant →
        exec (.ctrwait a .net) s = .next (s.reissued .handover)) ∧
      (isEdge s.cid = true → (s.src a).toNat < 2 ^ 54 → s.netTenant (pkgOf s.cid) (dieOf s.cid) t.booth = t.tenant →
        let c := getD (s.nq (nqKey s.cid t.booth)).ctrs ((s.src a).toNat / 2 ^ 48) 0
        ((s.src a).toNat % 2 ^ 48 ≤ c → exec (.ctrwait a .net) s = .next s.completed) ∧
        (c < (s.src a).toNat % 2 ^ 48 → exec (.ctrwait a .net) s =
          .next (s.setThread u { t with
            wait := .counter ((s.src a).toNat / 2 ^ 48) ((s.src a).toNat % 2 ^ 48) }).waiting)))

/-- R231, R233, R234: `crcfg` sets the slot's term and clears its firings; `crcfg.set` and `crcfg.add` change its counter, which
sticks at 65535; a term that counts its own slot in one word of the window fires once when the counter has reached the
threshold: the counter loses the threshold, and the word holds the number of firings and is full. R20, R231, R234, R235: a pulse
adds one to its counter, which sticks at 65535, if the slot is still its command's booth's and tenant's, and a `ctrwait` whose
threshold the counter has reached returns. R15, R235: a released command enters the tail of its queue, of the copy engine or of the
network engine, when the queue holds fewer than 32 and the accesses that its thread sent before the release have been performed, and not
before. -/
def Obligations.CrierConfigurationAndPulses : Prop :=
  (∀ (a : GReg) (s : State) (u : Nat) (t : Thread), s.Runs u t → s.Unbound a →
    let w := s.src a
    let x := s.slot s.cur
    (w = 0 → exec (.crcfg a) s = .next (s.setSlot s.cur { x with crTerm := 0, crFires := 0 }).completed) ∧
    (∀ off thresh, off % 8 = 0 → off < 2 ^ 17 → 1 ≤ thresh → thresh < 2 ^ 16 → s.ownsOff s.cid t.booth off = true →
      s.ownsGroup s.cid t.booth (s.cur % 16 / 4) = true →
      w = BitVec.ofNat 64 (2 ^ (48 + s.cur % 16) + thresh * 2 ^ 32 + 2 * 2 ^ 30 + off) →
      (x.crCnt < thresh → exec (.crcfg a) s = .next (s.setSlot s.cur { x with crTerm := w, crFires := 0 }).completed) ∧
      (thresh ≤ x.crCnt → x.crCnt < 2 * thresh → s.feWait = [] → ∃ s', exec (.crcfg a) s = .next s' ∧ s'.bun.fin = .done ∧
        s'.slot s.cur = { x with crTerm := w, crFires := 1, crCnt := x.crCnt - thresh } ∧
        s'.mem = (s.mem.write (spad s.cid off) 8 1).setFull (spad s.cid off) true)) ∧
    (w.toNat < 2 ^ 16 → s.TermsOff s.cid → (∀ e ∈ s.threads, ∀ n, e.2.wait ≠ .crier n) →
      exec (.crcfgSet a) s = .next (s.setSlot s.cur { x with crCnt := w.toNat }).completed ∧
      exec (.crcfgAdd a) s = .next (s.setSlot s.cur { x with crCnt := min (x.crCnt + w.toNat) 65535 }).completed) ∧
    (2 ^ 16 ≤ w.toNat → exec (.crcfgSet a) s = .next (s.trapped .illegal s.wordOf) ∧
      exec (.crcfgAdd a) s = .next (s.trapped .illegal s.wordOf))) ∧
  (∀ (n key b : Nat) (tn : Word) (nt : Bool) (s : State), s.pulses[n]? = some ⟨key, b, tn, nt⟩ →
    s.ownsGroup (key / 16) b (key % 16 / 4) = false ∨ s.slotTenant b key ≠ tn →
      exec (.crierPulse n) s = .next { s with pulses := dropAt s.pulses n }) ∧
  (∀ (n key b : Nat) (tn : Word) (nt : Bool) (s : State), s.pulses[n]? = some ⟨key, b, tn, nt⟩ →
    s.ownsGroup (key / 16) b (key % 16 / 4) = true → s.slotTenant b key = tn → s.TermsOff (key / 16) →
    let cnt := min ((s.slot key).crCnt + 1) 65535
    (s.threads = [] → exec (.crierPulse n) s = .next
      (({ s with pulses := dropAt s.pulses n } : State).setSlot key { s.slot key with crCnt := cnt })) ∧
    (∀ u t k, s.threads = [(u, t)] → t.key = key → t.wait = .crier k → t.place ≠ .area → t.Plain → ∃ s',
      exec (.crierPulse n) s = .next s' ∧ (s'.slot key).crCnt = cnt ∧ s'.mem = s.mem ∧ s'.thread u =
        some (if k ≤ cnt then { t.woken s.cycle with aRan := false } else t))) ∧
  (∀ (key : Nat) (c : Cmd) (cs : List Cmd) (s : State), (getD s.vqs key VQueue.init).released = c :: cs →
    ((getD s.vqs key VQueue.init).queue.length < 32 → s.NoneOut c.before →
      ∃ s', exec (.heldCmdEnter (2 * key)) s = .next s' ∧ s'.vqs = put s.vqs key { getD s.vqs key VQueue.init with
        queue := (getD s.vqs key VQueue.init).queue ++ [c], released := cs } ∧ s'.mem = s.mem ∧ s'.slots = s.slots ∧
        ∀ u t, s.thread u = some t → s'.thread u = some (if t.wait = .retry (.port .copy) ∧ t.booth = key % 64 ∧
          t.key / 256 = key / 64 then t.woken s.cycle else t)) ∧
    ((∃ m ∈ s.net, m.mid ∈ c.before ∧ ∃ k d, m.body = .req (.store k d)) →
      exec (.heldCmdEnter (2 * key)) s = .refused (.notEnabled "HELD_CMD_ENTER"))) ∧
  (∀ (key : Nat) (c : NCmd) (cs : List NCmd) (s : State), (s.nq key).released = c :: cs →
    ((s.nq key).queue.length < 32 → s.NoneOut c.before →
      ∃ s', exec (.heldCmdEnter (2 * key + 1)) s = .next s' ∧ s'.nqs = put s.nqs key { s.nq key with
        queue := (s.nq key).queue ++ [c], released := cs } ∧ s'.mem = s.mem ∧ s'.slots = s.slots ∧
        ∀ u t, s.thread u = some t → s'.thread u = some (if t.wait = .retry (.port .net) ∧ nqKey (t.key / 16) t.booth = key then
          t.woken s.cycle else t)) ∧
    ((∃ m ∈ s.net, m.mid ∈ c.before ∧ ∃ k d, m.body = .req (.store k d)) →
      exec (.heldCmdEnter (2 * key + 1)) s = .refused (.notEnabled "HELD_CMD_ENTER")))

/-! ### Dispatcher words -/

/-- R299 to R301: `spawn` asks the dispatcher of its package, with the entry, four argument words from the window and the spawner's
coordinates, and waits; a thread that belongs to no launch traps ILLEGAL. When the request has come the packet enters its cluster's queue
with the next index of its launch, and the spawner is answered; R309: of a launch whose deadline has passed it is skipped. R310: `resid`
of a launch with a residual operation stores the valid bit, the iteration and the low 32 bits of gA in the place of its index and
iteration; without one, and in a spawned thread, it has no effect. R304, R361, R362: `post` sends the host an interrupt message with its
two registers and waits for the receipt; with interrupts off in the booth's owner entry nothing is sent and the thread goes on. What
`post` does with interrupts off, and that the argument words are those of the `spawn`'s issue, are the model's choices (log entries 36
and 23). -/
def Obligations.SpawningResidualsAndPosting : Prop :=
  (∀ (a b : GReg) (s : State) (u : Nat) (t : Thread), s.Runs u t → t.Quiet → s.Unbound a → s.Unbound b →
    (t.job.launch = none → exec (.spawn a b) s = .next (s.trapped .illegal s.wordOf)) ∧
    (∀ h off, t.job.launch = some h → (s.src a).toNat % 2 ^ 48 % 4 = 0 → (s.src b).toNat % 2 ^ 48 = winBase + off → off % 32 = 0 →
      s.ownsOff s.cid t.booth off = true →
      ∃ s', exec (.spawn a b) s = .next s' ∧ s.Requested s' u t (pkgNode (pkgOf s.cid)) 4 0 (.spawn
        ⟨h, 0, (s.src a).toNat % 2 ^ 48, [s.mem.word (spad s.cid off), s.mem.word (spad s.cid off + 8),
          s.mem.word (spad s.cid off + 16), s.mem.word (spad s.cid off + 24)], engOf s.cid, true, t.job.coord⟩))) ∧
  (∀ (n k : Nat) (s : State) (m : Msg) (p : Packet) (l : Launch), s.Comes n k m → m.body = .ask (.spawn p) →
    find s.launches p.launch = some l →
      (l.expired = false → exec (.switchForward m.que m.chan k) s = .next (({ s with
        launches := put s.launches p.launch { l with spawned := l.spawned + 1 }
        spawnQ := s.spawnQ ++ [{ p with index := l.total + l.spawned }] } : State).answered n m (.reply ⟨none, none, none, 0, 0⟩))) ∧
      (l.expired = true → exec (.switchForward m.que m.chan k) s = .next (({ s with
        launches := put s.launches p.launch { l with spawned := l.spawned + 1, nskip := l.nskip + 1 } } : State).answered n m
          (.reply ⟨none, none, none, 0, 0⟩)))) ∧
  (∀ (a : GReg) (s : State) (u : Nat) (t : Thread), s.Runs u t → s.Unbound a →
    (t.job.launch = none → exec (.resid a) s = .next s.completed) ∧
    (∀ h l p va, t.job.launch = some h → find s.launches h = some l →
      (l.rop = 0 ∨ l.total ≤ t.job.index → exec (.resid a) s = .next s.completed) ∧
      (l.rop ≠ 0 → t.job.index < l.total → va = (l.rarea + 8 * (16 * t.job.index + t.ctx.it.toNat % 16)) % 2 ^ 48 →
        s.Far { accStore with near := false } va p → t.sprayHolds (p.ga va) 8 = false → s.WindowOpen →
        ∃ s', exec (.resid a) s = .next s' ∧
          s.Posts s' u t p va 8 .ord (.store 8 (2 ^ 63 + t.ctx.it.toNat * 2 ^ 32 + (s.src a).toNat % 2 ^ 32))))) ∧
  (∀ (a b : GReg) (s : State) (u : Nat) (t : Thread), s.Runs u t → t.Quiet → s.Unbound a → s.Unbound b →
    let o := getD (s.pkg (pkgOf s.cid)).owners t.booth (0, 0)
    (o.1.getLsbD 63 = false → exec (.post a b) s = .next s.fenced.completed) ∧
    (o.1.getLsbD 63 = true → ∃ s' m, exec (.post a b) s = .next s' ∧ s'.bun.fin = .parked ∧ s'.net = s.net ++ [m] ∧
      m.body = .irq [BitVec.ofNat 64 (t.booth * 2 ^ 48 + o.1.toNat % 2 ^ 32), BitVec.ofNat 64 (2 ^ 31 + s.cur), s.src a, s.src b] ∧
      m.chan = 4 ∧ s'.thread u = some { t with wait := .dispatcher s.nextMid } ∧ s'.mem = s.mem))

/-- R302, R309: `done` ends the thread: its record goes, its slot is free, its launch counts it as done and keeps the lowest
iteration, a stop notice goes to every core of the region; R303: `yield` goes on in a slot that nothing waits for, and else waits for
the swap. R299, R305: `launch` asks the dispatcher of its package and waits; R393: with no journal place free it is issued again. R294,
R295, R305: when the request has come, the answer is the kind code of the record's first failing check and the journal's sequence number,
with bit 63 set when it was accepted; a rejected launch enters no launch, an accepted one enters with its product of counts. That spawned
threads count, and that a `launch` without a journal place is issued again, are the model's choices (log entries 14 and 36). -/
def Obligations.ThreadEndsAndLaunches : Prop :=
  (∀ (s : State) (u : Nat) (t : Thread), s.Runs u t →
    (∀ h l, t.Quiet → t.job.launch = some h → find s.launches h = some l →
      ∃ s', exec .done s = .next s' ∧ s'.bun.fin = .gone ∧ s'.threads = del s.threads u ∧ (s'.slot s.cur).run = none ∧
        (s'.slot s.cur).phase = .free ∧ find s'.launches h = some { l with
          live := l.live - 1, ndone := l.ndone + 1
          lowit := some (match l.lowit with | none => t.ctx.it.toNat | some n => min n t.ctx.it.toNat) } ∧
        ∃ ms, s'.net = s.net ++ ms ∧ ms.map (fun m => (m.src, m.dst, m.booth, m.body)) =
          (s.regionCores t.booth).map (fun c => (s.cid, c, t.booth, Body.stop (2 ^ 31 + s.cur)))) ∧
    (s.sourceFor t.booth s.cur = none → exec .yield s = .next s.completed) ∧
    (t.Quiet → (s.sourceFor t.booth s.cur).isSome = true → s.imagesTaken s.cid t.booth < 64 → (∀ p ∈ s.preempts, p.key ≠ s.cur) →
      exec .yield s = .next (s.setThread u { t with wait := .yielding }).waiting)) ∧
  (∀ (d a : GReg) (s : State) (u : Nat) (t : Thread), s.Runs u t → t.Quiet → s.Unbound a → s.Unbound d →
    let p := pkgOf s.cid
    (s.journalFull p = true → exec (.launch d a) s = .next (s.reissued .journal)) ∧
    (s.journalFull p = false → ∃ s' q, exec (.launch d a) s = .next s' ∧
      s.Requested s' u t (pkgNode p) 4 d (.launch ((s.src a).toNat % 2 ^ 48) t.ctx.prv q) ∧
      q = (match t.job.launch.bind (find s.launches) with
        | none => 0
        | some l => l.pkg * 2 ^ 64 + l.seq))) ∧
  (∀ (n k : Nat) (s : State) (m : Msg) (va parent : Nat) (sup : Bool), s.Comes n k m → m.body = .ask (.launch va sup parent) →
    let p := nodeAddr m.dst
    let raw := s.recordAt p m.booth va sup
    let kind := s.launchKind p m.booth va sup raw
    let seq := (s.pkg p).jseq
    (s.journalFull p = true → exec (.switchForward m.que m.chan k) s = .refused (.notEnabled "SWITCH_FORWARD")) ∧
    (s.journalFull p = false → ∃ s' ms r, exec (.switchForward m.que m.chan k) s = .next s' ∧ s'.net = dropAt s.net n ++ ms ++ [r] ∧
      r.dst = m.src ∧ r.mid = m.mid ∧ r.uid = m.uid ∧ r.d = m.d ∧
      (kind ≠ 0 → s'.launches = s.launches ∧ s'.mem = s.mem ∧ r.body = valueReply (BitVec.ofNat 64 (kind * 2 ^ 56 + seq % 2 ^ 48))) ∧
      (kind = 0 → recTotal (raw.getD []) ≠ 0 → r.body = valueReply (BitVec.ofNat 64 (2 ^ 63 + seq % 2 ^ 48)) ∧
        ∃ l, find s'.launches s.nextLaunch = some l ∧ l.pkg = p ∧ l.booth = m.booth ∧ l.seq = seq ∧
          l.total = recTotal (raw.getD []) ∧ l.sup = sup ∧ l.next = 0 ∧ l.byThread = true)))

/-- R299, R307: `chset` and `chclr` ask the channel's core and wait; binding needs supervisor mode, and a channel of a core outside the
booth's region traps REMOTE_NACK. R306, R307: when the request has come, the entry changes, its queued messages are spawned while they
may, and the answer is the entry as it was. R308: `send` sends the four registers from gB on to the channel's core and waits. That a thread
whose channels belong to the other tenant of a handover waits, that a request of the other tenant, or for a core that has left the
region, is refused, and the channel of the fabric that the requests take, are the model's choices (log entries 23 and 65). -/
def Obligations.Channels : Prop :=
  (∀ (d a b : GReg) (s : State) (u : Nat) (t : Thread) (cid n : Nat), s.Runs u t → t.Quiet → s.Unbound a → s.Unbound b →
    cid < 2 ^ 26 → n < 32 → s.src a = BitVec.ofNat 64 (n * 2 ^ 32 + cid * 16) →
      let y := s.src b
      (y.getLsbD 48 = true → t.ctx.prv = false → ∀ i ∈ [Instr.chset d a b, .chclr d a b],
        exec i s = .next (s.trapped .priv s.wordOf)) ∧
      (y.toNat < 2 ^ 49 → y.getLsbD 48 = false ∨ t.ctx.prv = true → s.inRegion t.booth cid = false →
        ∀ i ∈ [Instr.chset d a b, .chclr d a b], exec i s = .next (s.trapped .remoteNack ((s.src a).toNat % 2 ^ 48))) ∧
      (y.toNat < 2 ^ 49 → y.getLsbD 48 = false ∨ t.ctx.prv = true → s.inRegion t.booth cid = true →
        s.chanTenant cid t.booth ≠ t.tenant → ∀ i ∈ [Instr.chset d a b, .chclr d a b],
          exec i s = .next (s.reissued .handover)) ∧
      (s.Unbound d → y.toNat < 2 ^ 49 → y.getLsbD 48 = false ∨ t.ctx.prv = true → s.inRegion t.booth cid = true →
        s.chanTenant cid t.booth = t.tenant → ∀ e ∈ [(Instr.chset d a b, true), (Instr.chclr d a b, false)],
          ∃ s', exec e.1 s = .next s' ∧ s.Requested s' u t cid 0 d (.chan n e.2 y)) ∧
      ((∀ r : GReg, s.Unbound r) → s.inRegion t.booth cid = true → s.chanTenant cid t.booth = t.tenant → ∃ s' m,
        exec (.send a b) s = .next s' ∧ s'.bun.fin = .parked ∧ s'.net = s.net ++ [m] ∧
        m.body = .chan n [s.src b, s.src (b + 1), s.src (b + 2), s.src (b + 3)] ∧ m.dst = cid ∧ m.chan = 0 ∧
        s'.thread u = some { t with
          wait := .send s.nextMid s.cycle ((s.bc s.cid t.booth).sndlim.toNat % 2 ^ 32) cid n } ∧ s'.mem = s.mem)) ∧
  (∀ (i k n : Nat) (y : Word) (set : Bool) (s : State) (m : Msg), s.Comes i k m → m.body = .ask (.chan n set y) →
    let c := s.chan m.dst m.booth n
    let old := BitVec.ofNat 64 (b2n c.bound * 2 ^ 63 + c.queue.length * 2 ^ 56 + b2n c.hold * 2 ^ 49 + b2n c.ready * 2 ^ 48 + c.entry)
    let on (was : Bool) (j : Nat) : Bool := if set then was || y.getLsbD j else was && !y.getLsbD j
    let x := { c with
      bound := on c.bound 48
      entry := if y.getLsbD 48 then (if set then y.toNat % 2 ^ 48 / 4 * 4 else 0) else c.entry
      hold := on c.hold 1
      ready := on c.ready 0 }
    ((∃ v, s.thread m.uid = some v ∧ v.tenant = s.chanTenant m.dst m.booth) → s.inRegion m.booth m.dst = true →
      exec (.switchForward m.que m.chan k) s =
        .next ((((s.dropMsg i).setChan m.dst m.booth n x).spawnFrom m.dst m.booth n).answer m (valueReply old))) ∧
    ((∀ v, s.thread m.uid = some v → v.tenant ≠ s.chanTenant m.dst m.booth) ∨ s.inRegion m.booth m.dst = false →
      exec (.switchForward m.que m.chan k) s = .next (s.answered i m (.trapReply 0x15 (m.va % 2 ^ 48)))))

/-! ### Matrix words -/

/-- R242, R246 to R254, R261, R268: `mma` and `mrot` with operands that pass the checks of R268 enter the engine's queue with K
= the field + 1 and park their thread; a pair of descriptors that does not fit traps MX_CONFIG. R251, R252, R255, R258,
R268: `mzero`, `mst` and `mcmp` enter the engine's queue; `mst` and `mcmp` need every byte that they touch in banks of the
booth. R272, R275 to R278, R280: `mnorm`, `malias` and `msmp` with operands that pass their checks enter the engine's queue.
The order of the checks is the model's choice (log entry 37). -/
def Obligations.MatrixCommands : Prop :=
  (∀ (tile : Tile) (a b : GReg) (sat : Bool) (kf : BitVec 8) (s : State) (u : Nat) (t : Thread), s.Runs u t → s.Unbound a →
    s.Unbound b → isEdge s.cid = false →
      ∀ p ∈ [(Instr.mma tile a b sat kf, 2), (Instr.mrot tile a b sat kf, 8)],
        let k := kf.toNat + 1
        let fa := s.regs.mda
        let fb := s.regs.mdb
        let lns := fa.toNat / 2 ^ 62 = 2
        let ring := fb.getLsbD 61 = true
        let fits := fa.toNat / 2 ^ 62 = fb.toNat / 2 ^ 62 ∧ fa.toNat / 2 ^ 62 ≠ 3 ∧ (lns → tile.val = 0) ∧
          (lns ∨ fa.getLsbD 60 = true → k % 32 = 0) ∧ (ring → s.src b = 0) ∧ (p.2 = 8 → s.partner s.cid t.booth 1 ≠ none)
        let spans := descSpans (s.src a) fa (if lns then 64 else 32) k ++
          (if ring then [] else descSpans (s.src b) fb (if lns then 32 else 16) k)
        (fits → (s.src a).toNat % descAlign fa = 0 → (ring ∨ (s.src b).toNat % descAlign fb = 0) → s.InBanks spans →
          s.BelowThreshold tile.val → s.Unheld spans → ∃ s', exec p.1 s = .next s' ∧
            s.Queues s' u t p.2 tile.val (s.src a) (s.src b) 0 sat k) ∧
        (¬ fits → exec p.1 s = .next (s.trapped .mxConfig s.wordOf))) ∧
  (∀ (tile : Tile) (a b : GReg) (s : State) (u : Nat) (t : Thread), s.Runs u t → s.Unbound a → s.Unbound b →
    isEdge s.cid = false →
      (∀ all, s.Unheld [] → ∃ s', exec (.mzero tile all) s = .next s' ∧ s.Queues s' u t 1 tile.val 0 0 0 all 0) ∧
      (let x := s.src a
       let y := s.src b
       let n := if outFmt y = 3 then 32 else 8
       outOk tile.val y = true → x.toNat % n = 0 → outRow x y 1 % n = 0 → s.InBanks (outSpans x y) →
         s.BelowThreshold tile.val → s.Unheld (outSpans x y) →
         ∃ s', exec (.mst tile a b) s = .next s' ∧ s.Queues s' u t 3 tile.val x y 0 false 0) ∧
      (∀ kf : BitVec 8, let k := kf.toNat + 1
       let rd := descSpans (s.src a) s.regs.mda 32 k
       let wr := cmpSpans (s.src b) k
       s.regs.mda.toNat / 2 ^ 62 ≤ 1 → s.regs.mda.getLsbD 60 = false → (s.src a).toNat % 2 = 0 → (s.src b).toNat % 8 = 0 →
         s.InBanks rd → s.InBanks wr → s.Unheld (rd ++ wr) →
         ∃ s', exec (.mcmp a b kf) s = .next s' ∧ s.Queues s' u t 6 0 (s.src a) (s.src b) 0 false k)) ∧
  (∀ (d a b : GReg) (tile : Tile) (sat : Bool) (kf : BitVec 8) (s : State) (u : Nat) (t : Thread), s.Runs u t → s.Unbound a →
    s.Unbound b → s.Unbound d → isEdge s.cid = false →
      let fa := s.regs.mda
      let fb := s.regs.mdb
      let x := s.regs.sampled
      let k := x.scfg.toNat % 2 ^ 12 + 1
      let rd := descSpans (s.src a) fa 32 k ++ descSpans (s.src b) fb 16 k
      (sampledFormats fa fb = true → 8 + max k (ceilDiv (112 * k) 64) ≤ 4096 → (s.src a).toNat % 2 = 0 → (s.src b).toNat % 2 = 0 →
        (s.src d).toNat % 16 = 0 → s.InBanks rd → s.InBanks (recordSpans (s.src d).toNat k) →
        s.Unheld (rd ++ recordSpans (s.src d).toNat k) →
        ∃ s', exec (.mnorm d a b) s = .next s' ∧ s.Queues s' u t 9 0 (s.src a) (s.src b) (s.src d) false k) ∧
      (8 + ceilDiv k 2 + ceilDiv (20 * k) 64 ≤ 4096 → x.snr.toNat % 16 = 0 → (s.src a).toNat % 4 = 0 →
        s.InBanks (recordSpans x.snr.toNat k) → s.InBanks (tableSpans (s.src a).toNat k) →
        s.Unheld (recordSpans x.snr.toNat k ++ tableSpans (s.src a).toNat k) →
        ∃ s', exec (.malias a) s = .next s' ∧ s.Queues s' u t 10 0 (s.src a) 0 0 false k) ∧
      (let rs := descSpans (s.src a) fa 32 x.sk ++ descSpans (s.src b) fb 16 x.sk ++ tableSpans x.stb.toNat x.sk ++
         recordSpans x.snr.toNat x.sk
       x.valid = true → sampledFormats fa fb = true → x.scfg.getLsbD 31 = false → (s.src a).toNat % 2 = 0 →
         (s.src b).toNat % 2 = 0 → s.InBanks rs → s.BelowThreshold tile.val → s.Unheld rs →
         ∃ s', exec (.msmp tile a b sat kf) s = .next s' ∧
           s.Queues s' u t 11 tile.val (s.src a) (s.src b) 0 sat (kf.toNat + 1)) ∧
      (x.valid = false → exec (.msmp tile a b sat kf) s = .next (s.trapped .mxConfig s.wordOf)))

/-- R251, R256, R257, R259, R274, R279: the words that only move registers of the engine: `mcfg`, `mcnt`, `mclr`, `mlink`,
`mvar` and `mstop`. -/
def Obligations.MatrixRegisters : Prop :=
  ∀ (d a b : GReg) (tile : Tile) (s : State) (u : Nat) (t : Thread), s.Runs u t → isEdge s.cid = false →
    (s.Unbound a → s.Unbound b →
      (descOk false (s.src a) = true → descOk true (s.src b) = true →
        exec (.mcfg a b) s = .next (s.modRegs (fun r => { r with mda := s.src a, mdb := s.src b })).completed) ∧
      (descOk false (s.src a) = false ∨ descOk true (s.src b) = false →
        exec (.mcfg a b) s = .next (s.trapped .mxConfig s.wordOf)) ∧
      ((s.src a).toNat / 2 ^ 12 % 2 ^ 8 = 0 → (s.src a).getLsbD 63 = false → (s.src a).toNat / 2 ^ 20 % 2 ^ 9 ≤ 256 →
        Exact.isNan (Exact.ofBits Exact.f32 ((s.src a).toNat / 2 ^ 32)) = false →
        ((s.src a).getLsbD 31 = false → (s.src a).toNat / 2 ^ 29 % 4 = 0) →
        exec (.mstop a b) s = .next (s.modRegs (fun r => { r with
          sampled := { r.sampled with scfg := s.src a, sgen := s.src b } })).completed)) ∧
    (s.Prompt → s.Unbound d →
      (s.storeHeld = false →
        exec (.mcnt d tile 0) s = .next (s.withG d (let c := getD (s.core s.cid).tileCnt (groupOf s.cur * 4 + tile.val) ⟨0, 0, 0⟩
          BitVec.ofNat 64 (c.satc + 2 ^ 16 * c.nanc + 2 ^ 32 * c.bsoc))).completed ∧
        exec (.mcnt d tile 1) s = .next (s.withG d s.regs.mrs).completed ∧
        exec (.mcnt d tile 2) s = .next (s.withG d s.regs.mda).completed ∧
        exec (.mcnt d tile 3) s = .next (s.withG d s.regs.mdb).completed) ∧
      (∀ l : Link, exec (.mlink d l) s = .next (s.withG d (match s.partner s.cid t.booth l.code with
        | none => 0
        | some p => BitVec.ofNat 64 (2 ^ 63 + p * 16))).completed) ∧
      (let x := s.regs.sampled
       exec (.mvar d 0) s = .next (s.withG d (BitVec.ofNat 64 (x.sw.toNat * 2 ^ 32 + b2n x.valid * 2 ^ 31 + b2n x.early * 2 ^ 30 +
         x.scnt % 512))).completed ∧
       exec (.mvar d 1) s = .next (s.withG d (x.smean.setWidth 64)).completed ∧
       exec (.mvar d 2) s = .next (s.withG d (BitVec.ofNat 64 (if x.scnt < 2 then 0 else
         Exact.round Exact.f32 .rne false (Exact.div (Exact.ofBits Exact.f32 x.sm2.toNat) (.fin false (x.scnt - 1) 0))))).completed ∧
       exec (.mvar d 3) s = .next (s.withG d x.sgen).completed)) ∧
    (s.storeHeld = false → ∃ s', exec (.mclrTile tile) s = .next s' ∧ s'.bun.fin = .done ∧ s'.mem = s.mem ∧
      s'.threads = s.threads ∧ s'.slots = s.slots ∧ (s'.core s.cid).acc = (s.core s.cid).acc ∧
      (rising (s.core s.cid).tileCnt = true →
        getD (s'.core s.cid).tileCnt (groupOf s.cur * 4 + tile.val) ⟨0, 0, 0⟩ = ⟨0, 0, 0⟩)) ∧
    exec (.mclrLatch .opa) s = .next (s.setSlot s.cur { s.slot s.cur with opaFull := false }).completed ∧
    exec (.mclrLatch .opb) s = .next (s.setSlot s.cur { s.slot s.cur with opb := [] }).completed ∧
    (∀ l : Link, ∃ s', exec (.mclrLatch (.lane l)) s = .next s' ∧ s'.bun.fin = .done ∧ s'.mem = s.mem ∧
      ∀ j : Fin 4, (s'.slot s.cur).lanes[j] = if j.val = l.code then [] else (s.slot s.cur).lanes[j])

/-- R264: `lrd` takes the oldest word of an inbound lane, `lwr` sends a word to the partner's lane, `lrf` does both; an empty
lane or a full one has the bundle issued again, and a link end without a partner traps MX_CONFIG. R267: a pop waits for the
thread's earlier posted accesses. R264, R265: a word that
arrives on a link stands last in its lane, and a thread that waits for a word there issues again; an operand unit stands
last in opb. That words in flight count against a lane is the model's choice (log entry 40). -/
def Obligations.LinkWords : Prop :=
  (∀ (d a : GReg) (i o : Link) (s : State) (u : Nat) (t : Thread), s.Runs u t → isEdge s.cid = false → t.wait = .idle →
    (∀ p w ws, s.Prompt → s.Unbound d → s.partner s.cid t.booth i.code = some p →
      ((s.slot s.cur).lanes.toList[i.code]?).getD [] = w :: ws →
        (s.storesFly u = true → exec (.lrd d i) s = .next (s.reissued .stores)) ∧
        (s.storesFly u = false → ∃ s', exec (.lrd d i) s = .next s' ∧ s'.bun.fin = .done ∧ s'.mem = s.mem ∧ s'.linkNet = s.linkNet ∧
          s'.thread u = some { t with ctx := { t.ctx with g := if d.val = 0 then t.ctx.g else t.ctx.g.set d w } } ∧
          ∀ j : Fin 4, (s'.slot s.cur).lanes[j] = if j.val = i.code then ws else (s.slot s.cur).lanes[j]) ∧
        (∀ key l, s.storesFly u = false → s.laneAcross o = some (key, l) → s.laneLoad key l.code < 8 →
          ∃ s', exec (.lrf d i o) s = .next s' ∧ s'.bun.fin = .done ∧ s'.mem = s.mem ∧
            s'.linkNet = s.linkNet ++ [⟨key, l, w, none⟩] ∧
            s'.thread u = some { t with ctx := { t.ctx with g := if d.val = 0 then t.ctx.g else t.ctx.g.set d w } } ∧
            ∀ j : Fin 4, (s'.slot s.cur).lanes[j] = if j.val = i.code then ws else (s.slot s.cur).lanes[j])) ∧
    (s.Unbound a → ∀ key l, s.laneAcross o = some (key, l) →
      (s.laneLoad key l.code < 8 →
        exec (.lwr o a) s = .next ({ s with linkNet := s.linkNet ++ [⟨key, l, s.src a, none⟩] } : State).completed) ∧
      (8 ≤ s.laneLoad key l.code → exec (.lwr o a) s = .next (s.reissued (.laneFull o)))) ∧
    (s.Unbound d → ∀ p, s.partner s.cid t.booth i.code = some p → ((s.slot s.cur).lanes.toList[i.code]?).getD [] = [] →
      exec (.lrd d i) s = .next (s.reissued (.laneEmpty i))) ∧
    (s.Unbound d → s.partner s.cid t.booth i.code = none → exec (.lrd d i) s = .next (s.trapped .mxConfig s.wordOf))) ∧
  (∀ (key : Nat) (l : Link) (w : Word) (s : State) (rest : List LinkItem),
    (s.linkNet = ⟨key, l, w, none⟩ :: rest → ∃ s', exec (.linkWordArrival 0) s = .next s' ∧ s'.linkNet = rest ∧
      s'.mem = s.mem ∧ (∀ j : Fin 4, (s'.slot key).lanes[j] =
        if j.val = l.code then (s.slot key).lanes[j] ++ [w] else (s.slot key).lanes[j]) ∧
      ∀ u t, s.thread u = some t → t.key = key → t.wait = .retry (.laneEmpty l) →
        s'.thread u = some (t.woken s.cycle)) ∧
    (∀ u, s.linkNet = ⟨key, l, w, some u⟩ :: rest → (s.core (key / 16)).mrun = none →
      exec (.operandUnitArrival 0) s =
        .next (({ s with linkNet := rest } : State).setSlot key { s.slot key with opb := (s.slot key).opb ++ [u] })))

/-- R13, R74, R76: a word of an extension that the core does not list, be it any matrix word on an edge core or any push, `pop` or `ctrwait`
of the network port on a compute core, traps MIGRATE_REFUSED with the word in TVAL where no core of the booth's region lists the
extension. R35, R76: else the thread, with nothing outstanding and no stream bound, migrates to the nearest core of the region that lists
it, ties to the lower number, and goes on there with the same bundle. -/
def Obligations.AbsentExtensions : Prop :=
  ∀ (i : Instr) (w : Nat) (e : Extension) (s : State) (u : Nat) (t : Thread), encode i = some w → extOf w = some e → s.Runs u t →
    (match e with | .m => isEdge s.cid = true | .n => isEdge s.cid = false) →
    let has (c : Nat) : Bool := match e with | .m => !isEdge c | .n => isEdge c
    ((∀ c ∈ s.regionCores t.booth, has c = false) → exec i s = .next (s.trapped .migrateRefused s.wordOf)) ∧
    ((∃ c ∈ s.regionCores t.booth, has c = true) → t.Quiet → t.sfuPend = 0 → (∀ k : Fin 4, s.regs.streams[k] = none) →
      ∃ s' m t', exec i s = .next s' ∧ s'.bun.fin = .gone ∧ s'.net = s.net ++ [m] ∧ m.body = .context ∧ m.chan = 3 ∧ m.src = s.cid ∧
        m.booth = t.booth ∧ m.uid = u ∧ m.dst ∈ s.regionCores t.booth ∧ has m.dst = true ∧
        (∀ c ∈ s.regionCores t.booth, has c = true →
          s.hops s.cid m.dst < s.hops s.cid c ∨ s.hops s.cid m.dst = s.hops s.cid c ∧ m.dst ≤ c) ∧
        (s'.slot s.cur).run = none ∧ (s'.slot s.cur).phase = .free ∧ s'.mem = s.mem ∧
        s'.thread u = some t' ∧ t'.place = .flight ∧ t'.key = m.dst * 16 + s.cur % 16 ∧ t'.ctx.g = t.ctx.g ∧
        t'.ctx.pc.toNat = s.bun.pc % 2 ^ 48)

/-! ### Floating point -/

/-- R89, R90, R173 to R176: `fadd`, `fsub` and `fmul` round the exact result once to FP32; under stochastic rounding the
random bits are those of the old gD; `ffma` rounds the exact x·y + z once. -/
def Obligations.FloatArithmetic : Prop :=
  (∀ p ∈ floatTable, ∀ (d a b : GReg) (r : Rnd) (sat : Bool) (n : Fin 32) (s : State) (u : Nat) (t : Thread), s.Runs u t →
    s.Prompt → s.Unbound d → s.Unbound a → s.Unbound b →
      exec (p.1 d a b r sat n) s = .next (s.withG d (BitVec.ofNat 64 (Exact.round Exact.f32
        (match r with
          | .rne => .rne | .rz => .rz | .rd => .rd | .ru => .ru
          | .rs => .rs ((s.src d).toNat % 2 ^ (n.val + 1)) (n.val + 1)) sat
        (p.2 (decide (r = .rd)) (f32Of (s.src a)) (f32Of (s.src b)))))).completed) ∧
  (∀ (d a b c : GReg) (r : Rnd) (sat : Bool) (n : Fin 32) (s : State) (u : Nat) (t : Thread), s.Runs u t → s.Prompt →
    s.Unbound d → s.Unbound a → s.Unbound b → s.Unbound c →
      exec (.ffma d a b c r sat n) s = .next (s.withG d (BitVec.ofNat 64 (Exact.round Exact.f32
        (match r with
          | .rne => .rne | .rz => .rz | .rd => .rd | .ru => .ru
          | .rs => .rs ((s.src d).toNat % 2 ^ (n.val + 1)) (n.val + 1)) sat
        (Exact.add (decide (r = .rd)) (Exact.mul (f32Of (s.src a)) (f32Of (s.src b))) (f32Of (s.src c)))))).completed)

/-- R177, R179 to R181: comparisons, minimum and maximum, classes, signs, conversions, `srnd` and `cadd`, each written to gD
and nothing else. -/
def Obligations.FloatComparisonsAndConversions : Prop :=
  ∀ (d a b : GReg) (s : State) (u : Nat) (t : Thread), s.Runs u t → s.Prompt → s.Unbound d → s.Unbound a → s.Unbound b →
    let x := s.src a
    let y := s.src b
    (∀ p ∈ compareTable, exec (p.1 d a b) s =
      .next (s.withG d (if p.2 (f32Of x) (f32Of y) then 1 else 0)).completed) ∧
    (exec (.fmin d a b) s = .next (s.withG d (BitVec.ofNat 64
      (Exact.minmaxBits Exact.f32 false (x.toNat % 2 ^ 32) (y.toNat % 2 ^ 32)))).completed ∧
     exec (.fmax d a b) s = .next (s.withG d (BitVec.ofNat 64
      (Exact.minmaxBits Exact.f32 true (x.toNat % 2 ^ 32) (y.toNat % 2 ^ 32)))).completed) ∧
    (∃ n : Nat, exec (.fcls d a) s = .next (s.withG d (BitVec.twoPow 64 n)).completed ∧ n < 10 ∧
      (let e := x.toNat / 2 ^ 23 % 2 ^ 8
       let f := x.toNat % 2 ^ 23
       let neg := x.getLsbD 31
       (n = 0 ↔ e = 255 ∧ f = 0 ∧ neg = true) ∧ (n = 7 ↔ e = 255 ∧ f = 0 ∧ neg = false) ∧
       (n = 3 ↔ e = 0 ∧ f = 0 ∧ neg = true) ∧ (n = 4 ↔ e = 0 ∧ f = 0 ∧ neg = false) ∧
       (n = 2 ↔ e = 0 ∧ f ≠ 0 ∧ neg = true) ∧ (n = 5 ↔ e = 0 ∧ f ≠ 0 ∧ neg = false) ∧
       (n = 8 ↔ e = 255 ∧ f ≠ 0 ∧ x.getLsbD 22 = false) ∧ (n = 9 ↔ e = 255 ∧ f ≠ 0 ∧ x.getLsbD 22 = true) ∧
       (n = 1 ↔ e ≠ 0 ∧ e ≠ 255 ∧ neg = true) ∧ (n = 6 ↔ e ≠ 0 ∧ e ≠ 255 ∧ neg = false))) ∧
    (∀ m : SgnMode, ∃ w : Word, exec (.fsgn d a b m) s = .next (s.withG d w).completed ∧
      (∀ j < 31, w.getLsbD j = x.getLsbD j) ∧ (∀ j, 31 < j → w.getLsbD j = false) ∧
      w.getLsbD 31 = (match m with
        | .j => y.getLsbD 31
        | .jn => !y.getLsbD 31
        | .jx => x.getLsbD 31 != y.getLsbD 31)) ∧
    (∀ (sat : Bool) (dst fr : CTy) (r : Rnd), exec (.fcvt d a sat dst fr r) s = .next (s.withG d
      (let v := Exact.toCTy dst (Exact.mode r (s.src d).toNat 32) sat (Exact.ofCTy fr x.toNat)
       if dst = .s32 then (BitVec.ofNat 32 v).signExtend 64 else BitVec.ofNat 64 v)).completed) ∧
    (∀ (dst : SrndD) (fr : SrndS) (sat : Bool) (n : Fin 32), exec (.srnd d a b dst fr sat n) s = .next (s.withG d
      (BitVec.ofNat 64 (Exact.round (match dst with | .f32 => Exact.f32 | .f16 => Exact.f16 | .bf16 => Exact.bf16)
        (.rs (y.toNat % 2 ^ (n.val + 1)) (n.val + 1)) sat
        (match fr with
          | .f32 => Exact.ofBits Exact.f32 (x.toNat % 2 ^ 32)
          | .a36 => Exact.ofBits Exact.a36 (x.toNat % 2 ^ 36))))).completed) ∧
    exec (.cadd d a b) s = .next (s.withG d (BitVec.ofNat 64
      (Exact.pairAdd (x.toNat / 2 ^ 32) (y.toNat / 2 ^ 32) * 2 ^ 32 +
        Exact.pairAdd (x.toNat % 2 ^ 32) (y.toNat % 2 ^ 32)))).completed

/-- R182 to R184: a special-function word enters the core's queue when its booth's share has room, and marks gD pending; with
the share full its bundle is issued again. R183, R185: the request at the head of a special-function queue finishes: its
result enters the destination register, whose pending bit is cleared; the first deferred request whose share has room enters
the queue, and its bundle completes. How far the transcendental results are rounded is the model's choice (log entry 19). -/
def Obligations.SpecialFunctions : Prop :=
  (∀ (d a b : GReg) (s : State) (u : Nat) (t : Thread), s.Runs u t → s.Prompt → s.Unbound d → s.Unbound a → s.Unbound b →
    let c := s.core s.cid
    (c.sfuShare t.booth < c.sfuRoom t.booth →
      (∀ p ∈ specialTable, ∃ s', exec (p.1 d a) s = .next s' ∧ s.Requests s' u t p.2 d (s.src a) 0) ∧
      ∃ s', exec (.fdiv d a b) s = .next s' ∧ s.Requests s' u t 3 d (s.src a) (s.src b)) ∧
    (c.sfuRoom t.booth ≤ c.sfuShare t.booth →
      (∀ p ∈ specialTable, exec (p.1 d a) s = .next (s.reissued .sfuFull)) ∧
      exec (.fdiv d a b) s = .next (s.reissued .sfuFull))) ∧
  (∀ (cid : Nat) (s : State) (t : Thread) (r : SfuReq) (rs : List SfuReq), (s.core cid).sfuQ = r :: rs →
    s.thread r.uid = some t → t.place = .slot → t.wait = .idle → (s.slot t.key).regs.stream r.d = none →
      ∃ s', exec (.sfuResult cid) s = .next s' ∧ (s'.core cid).sfuQ = rs ∧ s'.mem = s.mem ∧ s'.slots = s.slots ∧
        s'.thread r.uid = some { t with
          sfuPend := t.sfuPend &&& ~~~BitVec.twoPow 16 r.d.val
          issued := { t.issued with streams := (match streamNo r.d with
            | some n => if h : n < 4 then t.issued.streams.set n none h else t.issued.streams
            | none => t.issued.streams) }
          ctx := { t.ctx with
            g := if r.d.val = 0 then t.ctx.g
              else t.ctx.g.set r.d (BitVec.ofNat 64 (Exact.special r.op r.x.toNat r.y.toNat)) } }) ∧
  (∀ (cid : Nat) (s : State) (t : Thread) (r : SfuReq) (rs : List SfuReq), (s.core cid).sfuWait = r :: rs →
    (s.core cid).sfuQ = [] → (s.core cid).owners = Vector.replicate 4 (some t.booth) → r.group < 4 →
    s.thread r.uid = some t → t.wait = .sfuQueue →
      ∃ s', exec (.sfuEnqueue cid) s = .next s' ∧ (s'.core cid).sfuQ = [r] ∧ (s'.core cid).sfuWait = rs ∧
        s'.mem = s.mem ∧ s'.slots = s.slots ∧ s'.thread r.uid = some { t.woken s.cycle with
          sfuPend := t.sfuPend ||| BitVec.twoPow 16 r.d.val })

/-! ### Vectors -/

/-- R192: a mode word is read when its reserved bits are clear, its rounding is one of five, its lane type one of five, and NM1
is 0 but under stochastic rounding; every vector word traps VEC_CONFIG on another. R192 to R194: `vadd`, `vsub`, `vmul` and
`vfma` on FP32 lanes round once, on integer lanes without SAT wrap; `vmin` and `vmax` choose; inactive lanes of vd keep
their values. -/
def Obligations.VectorModeAndArithmetic : Prop :=
  (∀ w : Word, (vmode w).isSome = true ↔
    w.toNat / 2 ^ 20 = 0 ∧ w.getLsbD 15 = false ∧ w.toNat % 8 < 5 ∧ w.toNat / 8 % 8 < 5 ∧
      (w.toNat / 8 % 8 ≠ 4 → w.toNat / 2 ^ 7 % 32 = 0)) ∧
  (∀ (d x y : VReg) (k : KReg) (b a : GReg) (s : State) (u : Nat) (t : Thread), s.Runs u t → s.Unbound a → s.Unbound b →
    vmode (s.src b) = none →
      ∀ i ∈ [Instr.vadd d x y b a, .vsub d x y b a, .vmul d x y b a, .vfma d x y b a, .vmin d x y b, .vmax d x y b,
          .vcmp k x y b, .vsel d x y b, .vred d x b, .vscan d x b, .vcvt d x b a, .vperm d x y b, .vbcast d b a],
        exec i s = .next (s.trapped .vecConfig s.wordOf)) ∧
  (∀ (d x y : VReg) (b a : GReg) (s : State) (u : Nat) (t : Thread) (m : VMode), s.Runs u t → s.Prompt → s.Unbound a →
    s.Unbound b → vmode (s.src b) = some m → m.type ≤ 2 → m.sub = 0 →
      (∀ p ∈ vectorTable, ∃ v, exec (p.1 d x y b a) s = .next (s.withV d v).completed ∧ ∀ i : Fin 16, v[i] =
        if s.laneActive (s.src b) i.val then
          (if m.type = 0 then BitVec.ofNat 32 (Exact.round Exact.f32
              (match m.rnd with
                | .rne => .rne | .rz => .rz | .rd => .rd | .ru => .ru
                | .rs => .rs (((s.src a).rotateRight (4 * i.val)).toNat % 2 ^ (m.n + 1)) (m.n + 1)) m.sat
              (p.2.1 (decide (m.rnd = .rd)) (Exact.ofBits Exact.f32 (s.bun.v[x])[i].toNat) (Exact.ofBits Exact.f32 (s.bun.v[y])[i].toNat)
                (Exact.ofBits Exact.f32 (s.bun.v[d])[i].toNat)))
           else if m.sat then v[i] else p.2.2 (s.bun.v[x])[i] (s.bun.v[y])[i] (s.bun.v[d])[i])
        else (s.bun.v[d])[i]) ∧
      (∀ q ∈ [(Instr.vmin d x y b, false), (Instr.vmax d x y b, true)],
        ∃ v, exec q.1 s = .next (s.withV d v).completed ∧ ∀ i : Fin 16,
          let e := (s.bun.v[x])[i]
          let f := (s.bun.v[y])[i]
          v[i] = if s.laneActive (s.src b) i.val then
              (if m.type = 0 then BitVec.ofNat 32 (Exact.minmaxBits Exact.f32 q.2 e.toNat f.toNat)
               else if (if m.type = 1 then e.slt f else e.ult f) = q.2 then f else e)
            else (s.bun.v[d])[i]))

/-- R196: the mask group: its encoding, the words that it refuses, and the five results. -/
def Obligations.MaskWords : Prop :=
  let word (a b code kd ka kb : Nat) : Nat :=
    47 * 2 ^ 25 + a * 2 ^ 17 + b * 2 ^ 13 + 13 * 2 ^ 9 + code * 2 ^ 6 + kd * 2 ^ 4 + ka * 2 ^ 2 + kb
  decodeWord 0xDE001A1B = .ok (.kand 1 2 3) ∧ decodeWord 0xDE0A1B20 = .ok (.kset 2 5) ∧
  (∀ k k1 k2 : KReg, decodeWord (word 0 0 0 k.val k1.val k2.val) = .ok (.kand k k1 k2) ∧
    decodeWord (word 0 0 1 k.val k1.val k2.val) = .ok (.kor k k1 k2) ∧
    decodeWord (word 0 0 2 k.val k1.val k2.val) = .ok (.kxor k k1 k2) ∧
    decodeWord (word 0 0 3 k.val k1.val 0) = .ok (.knot k k1) ∧
    ∀ a : GReg, decodeWord (word a.val 0 4 k.val 0 0) = .ok (.kset k a)) ∧
  (∀ a < 16, ∀ b < 16, ∀ code < 8, ∀ kd < 4, ∀ ka < 4, ∀ kb < 4,
    4 < code ∨ b ≠ 0 ∨ (code ≠ 4 ∧ a ≠ 0) ∨ (3 ≤ code ∧ kb ≠ 0) ∨ (code = 4 ∧ ka ≠ 0) →
      ∃ e, decodeWord (word a b code kd ka kb) = .error e) ∧
  ∀ (k k1 k2 : KReg) (a : GReg) (s : State) (u : Nat) (t : Thread), s.Runs u t → s.Prompt → s.Unbound a →
      exec (.kand k k1 k2) s = .next (s.withK k (s.bun.k[k1] &&& s.bun.k[k2])).completed ∧
      exec (.kor k k1 k2) s = .next (s.withK k (s.bun.k[k1] ||| s.bun.k[k2])).completed ∧
      exec (.kxor k k1 k2) s = .next (s.withK k (s.bun.k[k1] ^^^ s.bun.k[k2])).completed ∧
      exec (.knot k k1) s = .next (s.withK k (~~~s.bun.k[k1])).completed ∧
      exec (.kset k a) s = .next (s.withK k ((s.src a).setWidth 16)).completed

/-- R194, R195: comparison, selection, reduction, scan, conversion, permutation and broadcast. -/
def Obligations.VectorMoves : Prop :=
  ∀ (d x y : VReg) (k : KReg) (b a : GReg) (s : State) (u : Nat) (t : Thread), s.Runs u t → s.Prompt → s.Unbound a →
    s.Unbound b →
      (∀ m, vmode (s.src b) = some m →
        let on (i : Nat) : Bool := s.laneActive (s.src b) i
        let keep (f : Fin 16 → Half) (v : Vector Half 16) : Prop := ∀ i : Fin 16, v[i] = if on i.val then f i else (s.bun.v[d])[i]
        (m.type ≤ 2 → m.sub ≤ 5 → ∃ w, exec (.vcmp k x y b) s = .next (s.withK k w).completed ∧ ∀ i : Fin 16,
          w.getLsbD i.val = (on i.val && laneCmp m (s.bun.v[x])[i].toNat (s.bun.v[y])[i].toNat)) ∧
        (m.masked = true → m.sub = 0 → ∃ v, exec (.vsel d x y b) s = .next (s.withV d v).completed ∧ ∀ i : Fin 16,
          v[i] = if on i.val then (s.bun.v[x])[i] else (s.bun.v[y])[i]) ∧
        (m.type ≤ 2 → m.sub ≤ 2 → m.rnd ≠ .rs →
          let e (i : Nat) : Nat := if on i then ((s.bun.v[x]).toList.getD i 0).toNat else laneIdent m
          (∃ v, exec (.vred d x b) s = .next (s.withV d v).completed ∧
            v[(0 : Fin 16)] = BitVec.ofNat 32 (treeOf (laneMerge m) e 0 4) ∧ ∀ i : Fin 16, i.val ≠ 0 → v[i] = 0) ∧
          (∃ v, exec (.vscan d x b) s = .next (s.withV d v).completed ∧
            keep (fun i => BitVec.ofNat 32 ((List.range i.val).foldl (fun n j => laneMerge m n (e (j + 1))) (e 0))) v)) ∧
        (m.sub ≤ 4 → m.sub ≠ m.type → ∃ v, exec (.vcvt d x b a) s = .next (s.withV d v).completed ∧
          keep (fun i => BitVec.ofNat 32 (laneCvt m (m.random (s.src a) i.val) (s.bun.v[x])[i].toNat)) v) ∧
        (m.sub = 0 →
          (∃ v, exec (.vperm d x y b) s = .next (s.withV d v).completed ∧
            keep (fun i => (s.bun.v[x])[(⟨(s.bun.v[y])[i].toNat % 16, Nat.mod_lt _ (by decide)⟩ : Fin 16)]) v) ∧
          ∃ v, exec (.vbcast d b a) s = .next (s.withV d v).completed ∧ keep (fun _ => (s.src a).setWidth 32) v))

/-- R197 to R199: lanes to and from general registers and the scratchpad: `vget`, `vput`, `vbusy`, `kpop`, `vld`, `vst` and
`vfence`. R114: the lanes of a `vst` in a word of several beats, or behind a C word that parked, are written at its end, at their places in the
thread's window. -/
def Obligations.LanesAndVectorMemory : Prop :=
  ∀ (d a b : GReg) (v : VReg) (k : KReg) (n : Fin 16) (s : State) (u : Nat) (t : Thread), s.Runs u t → s.Unbound a →
    s.Unbound b →
      (s.Prompt → s.Unbound d →
        exec (.vget d v n) s = .next (s.withG d ((s.bun.v[v])[n].setWidth 64)).completed ∧
        exec (.vbusy d) s = .next (s.withG d (BitVec.ofNat 64 (t.sfuPend.toNat * 2 ^ 16 +
          (((s.core s.cid).sfuQ ++ (s.core s.cid).sfuWait).filter (fun r => r.uid == u)).length % 16))).completed ∧
        exec (.kpop d k) s = .next (s.withG d (BitVec.ofNat 64
          ((List.range 16).filter (fun i => (s.bun.k[k]).getLsbD i)).length)).completed) ∧
      (s.Prompt → exec (.vput v a n) s = .next (s.withV v ((s.bun.v[v]).set n ((s.src a).setWidth 32))).completed) ∧
      ((∀ r ∈ (s.core s.cid).sfuQ ++ (s.core s.cid).sfuWait, r.uid ≠ u) → exec .vfence s = .next s.completed) ∧
      (∀ (m : Bool) (off : Nat → Nat),
        let on (i : Nat) : Bool := !m || (s.bun.k[k]).getLsbD i
        (∀ i < 16, on i = true → off i % 4 = 0 ∧
          s.Near (((s.src a).toNat + i * (s.src b).toNat) % 2 ^ 48) (off i)) →
        (s.Prompt → ∃ x, exec (.vld v a b m k) s = .next (s.withV v x).completed ∧ ∀ i : Fin 16,
          x[i] = if on i.val then BitVec.ofNat 32 (s.mem.read (spad s.cid (off i.val)) 4) else (s.bun.v[v])[i]) ∧
        (s.Prompt → s.AtCore u t → exec (.vst v a b m k) s = .next (s.modMem (fun mem => ((List.range 16).filter on).foldl
          (fun mem i => mem.write (spad s.cid (off i)) 4 ((s.bun.v[v]).toList.getD i 0).toNat) mem)).completed) ∧
        (s.bun.hold = true → exec (.vst v a b m k) s = .next (s.setThread u { t with held := t.held ++ [.lanes
          (((List.range 16).filter on).map (fun i => (off i, ((s.bun.v[v]).toList.getD i 0).toNat)))] }).completed))

/-! ### Streams -/

/-- R189: `sbind` of a free stream to a well-formed descriptor and base completes: the stream stands at element 0, an in-stream with its
first elements read ahead, and its register is undefined; `sfree` of a bound one completes: what is unwritten is written and the
stream is unbound; `ssync` completes: out-streams have written everything. R190: `sbind` of a bound stream and `sfree` of an
unbound one trap STREAM_FAULT with reasons 5 and 6. R186, R189: a source register bound to an in-stream gives its elements in
order, a destination bound to an out-stream takes them, writing groups of eight; past the last element they trap with reason 1.
What stands in a register after `sbind` and `sfree` is a free value (log entry 3). -/
def Obligations.Streams : Prop :=
  (∀ (n : Fin 4) (a b : GReg) (s : State) (u : Nat) (t : Thread), s.Runs u t → s.Unbound a → s.Unbound b →
    let e := if (s.src b).getLsbD 1 then 4 else 8
    (s.regs.streams[n] = none → (s.src b).toNat / 4 % 2 ^ 22 = 0 → (s.src b).toNat / 2 ^ 40 ≠ 0 →
      (s.src b).toNat / 2 ^ 24 % e = 0 → (s.src a).toNat % e = 0 →
      ∃ s' x, exec (.sbind n a b) s = .next s' ∧ s'.bun.fin = .done ∧ s'.regs.streams[n] = some x ∧ x.desc = s.src b ∧
        x.base = s.src a ∧ x.next = 0 ∧ x.unwritten = [] ∧ s'.mem = s.mem ∧
        x.ahead.length = (if (s.src b).getLsbD 0 then 0 else min 4 ((s.src b).toNat / 2 ^ 40)) ∧
        (∀ q : GReg, q.val ≠ 8 + n.val → s'.th.ctx.g[q] = t.ctx.g[q]) ∧
        ∀ i : Fin 4, i ≠ n → s'.regs.streams[i] = s.regs.streams[i]) ∧
    (∀ x, s.regs.streams[n] = some x → exec (.sbind n a b) s = .next (s.trapped .streamFault (5 * 16 + n.val)))) ∧
  (∀ (n : Fin 4) (s : State) (u : Nat) (t : Thread), s.Runs u t →
    (∀ x, s.regs.streams[n] = some x → s.AtCore u t → ∃ s', exec (.sfree n) s = .next s' ∧ s'.bun.fin = .done ∧ s'.regs.streams[n] = none ∧
      s'.mem = writeElems s.mem s.cid x (x.next - x.unwritten.length) x.unwritten ∧
      (∀ q : GReg, q.val ≠ 8 + n.val → s'.th.ctx.g[q] = t.ctx.g[q]) ∧
      ∀ i : Fin 4, i ≠ n → s'.regs.streams[i] = s.regs.streams[i]) ∧
    (s.regs.streams[n] = none → exec (.sfree n) s = .next (s.trapped .streamFault (6 * 16 + n.val)))) ∧
  (∀ (s : State) (u : Nat) (t : Thread), s.Runs u t →
    ∃ s', exec .ssync s = .next s' ∧ s'.bun.fin = .done ∧ s'.threads = s.threads ∧
      ∀ i : Fin 4, ∀ x, s.regs.streams[i] = some x → ∃ y, s'.regs.streams[i] = some y ∧ y.next = x.next ∧ y.desc = x.desc ∧
        y.base = x.base ∧ (x.desc.getLsbD 0 = true → y.unwritten = [])) ∧
  (∀ (n : Fin 4) (d a : GReg) (x : Stream) (s : State) (u : Nat) (t : Thread), s.Runs u t → s.Prompt →
    s.regs.streams[n] = some x →
    let r : GReg := ⟨8 + n.val, by omega⟩
    (∀ w ws, s.Unbound d → s.bun.src[n] = some x → x.desc.getLsbD 0 = false → x.next < x.desc.toNat / 2 ^ 40 →
      s.elemOk x x.next = true → x.ahead = w :: ws →
        ∃ s' y, exec (.addi d r 0) s = .next s' ∧ s'.bun.fin = .done ∧ s'.mem = s.mem ∧ s'.regs.streams[n] = some y ∧
          y.next = x.next + 1 ∧ (∃ zs, y.ahead = ws ++ zs ∧ zs.length ≤ 1) ∧ (d.val ≠ 0 → s'.th.ctx.g[d] = w)) ∧
    (s.Unbound a → s.AtCore u t → x.desc.getLsbD 0 = true → x.next < x.desc.toNat / 2 ^ 40 → s.elemOk x x.next = true →
        ∃ s' y, exec (.addi r a 0) s = .next s' ∧ s'.bun.fin = .done ∧ s'.regs.streams[n] = some y ∧ y.next = x.next + 1 ∧
          s'.threads = s.threads ∧
          ((x.next + 1) % 8 ≠ 0 → s'.mem = s.mem ∧ y.unwritten = x.unwritten ++ [s.src a]) ∧
          ((x.next + 1) % 8 = 0 → y.unwritten = [] ∧
            s'.mem = writeElems s.mem s.cid x (x.next + 1 - (x.unwritten.length + 1)) (x.unwritten ++ [s.src a]))) ∧
    (s.bun.src[n] = some x → s.bun.given = [] → x.desc.getLsbD 0 = false → x.desc.toNat / 2 ^ 40 ≤ x.next →
      exec (.addi d r 0) s = .next (s.trapped .streamFault (16 + n.val))))

/-! ### The machine as a whole -/

/-- R62 to R66, R74: when the bytes at the program counter decode to an instruction, a step that issues the slot is `exec` of it, in the
state that holds its bundle, the thread's PC past it and the issue counted; a word that is to be issued again keeps the stream elements
that its source fields read. The two words of a pair run one after the other, the A word's result held where the C word parks, and a
trap of the A word suppresses both. A word that does not decode traps ILLEGAL, a pair at an address that is no multiple of 8 traps
PAIR_ALIGN, two words that are no pair trap FRAMING, and a supervisor word in task mode traps PRIV, each with its TVAL and before anything
else of the bundle. R34, R114: a word of several beats runs at its first beat, its results held, and they are written at its last. R32,
R102: a core issues, of the ready threads of the position's booth that have not issued in the 7 cycles before and whose wait ended in an
earlier cycle, the one whose last issue lies furthest back; a choice of another slot is passed over, and a cycle ends when no slot is
due. What the beats before the last do, and the agenda with its passed choices and the end of a cycle, are the model's choices (log
entries 6 and 7). -/
def Obligations.StepRunsDecodedInstruction : Prop :=
  (∀ (s : State) (key : Nat) (rest : List Choice) (u : Nat) (t : Thread), s.agenda = .issue key :: rest → s.due key = true →
    (s.slot key).run = some u → s.thread u = some t → t.key = key → t.place = .slot →
    (∀ off, t.beats = 0 → t.aRan = false → t.given = [] → t.carry = none → t.sfuPend = 0 → s.handovers = [] →
      t.ctx.pc.toNat = winBase + off → s.ownsOff (key / 16) t.booth off = true →
        let w := s.mem.read (spad (key / 16) off) 4
        let v := s.mem.read (spad (key / 16) (off + 4)) 4
        let blank := s.issuing key rest t 4 0 0
        let lone := s.issuing key rest t 4 w 0
        let pair := s.issuing key rest t 8 w v
        let beats (i : Instr) : Nat := i.beats (isEdge (key / 16))
        let here (x : Nat) : Prop := ∀ e, extOf x = some e → lists e (key / 16) = true
        let runs (x : Nat) (i : Instr) (b : State) : Prop :=
          decodeWord x = .ok i ∧ here x ∧ (i.supervisor = true → t.ctx.prv = true) ∧ b.csrTrap i = none
        (∀ i, w / 2 ^ 31 = 1 → runs w i lone →
          (beats i = 1 → (∀ r ∈ i.reads, (s.slot key).regs.stream r = none) → step s = exec i lone) ∧
          (beats i = 1 → ∀ c, exec i lone = .next c → step s = .next (lone.kept i.reads c)) ∧
          (1 < beats i → ∀ c, exec i { lone with bun := { lone.bun with hold := true } } = .next c → c.bun.fin = .done →
            ∃ x, step s = .next (c.modThread u (fun y => { y with beats := beats i - 1, total := beats i, srcs := x })))) ∧
        (∀ c a c', off % 8 = 0 → w / 2 ^ 30 = 0 → v / 2 ^ 30 = 1 → runs w c pair → runs v a (pair.second false) →
          c.clash a = false → beats c = 1 → beats a = 1 → exec c pair = .next c' →
            (∀ x y, c'.bun.fin = .trapped x y → step s = .next c') ∧
            (c'.bun.fin = .done ∨ c'.bun.fin = .parked → ∀ a', exec a (c'.second (c'.bun.fin == .parked)) = .next a' →
              (a'.bun.fin = .done ∨ a'.bun.fin = .parked → step s = .next a') ∧
              ∀ x y, a'.bun.fin = .trapped x y →
                step s = .next (((pair.second false).takeTrap x y.toNat).setFin (.trapped x y)))) ∧
        (w / 2 ^ 31 = 1 → here w →
          (∀ e, decodeWord w = .error e → step s = .next (lone.trapped .illegal w)) ∧
          (∀ i, decodeWord w = .ok i → i.supervisor = true → t.ctx.prv = false → step s = .next (lone.trapped .priv w)) ∧
          ∀ i x, decodeWord w = .ok i → (i.supervisor = true → t.ctx.prv = true) → lone.csrTrap i = some x →
            step s = .next (lone.trapped x w)) ∧
        (w / 2 ^ 31 = 0 → off % 8 ≠ 0 → step s = .next (blank.trapped .pairAlign (winBase + off))) ∧
        (w / 2 ^ 31 = 0 → off % 8 = 0 →
          (v / 2 ^ 31 = 1 ∨ w / 2 ^ 30 = 0 ∧ v / 2 ^ 30 = 0 → step s = .next (blank.trapped .framing (2 ^ 63 + v))) ∧
          (w / 2 ^ 30 = 1 → v / 2 ^ 31 = 0 → step s = .next (blank.trapped .framing w))) ∧
        (off % 8 = 0 → w / 2 ^ 30 = 0 → v / 2 ^ 30 = 1 → here w →
          (∀ e, decodeWord w = .error e → step s = .next (pair.trapped .illegal w)) ∧
          ∀ c, runs w c pair → here v →
            (∀ e, decodeWord v = .error e → step s = .next ((pair.second false).trapped .illegal v)) ∧
            ∀ a, runs v a (pair.second false) → c.clash a = true → step s = .next ((pair.second false).trapped .framing v)) ∧
        lone.bun = ⟨winBase + off, 4, w, 0, false, false, t.ctx.g, (s.slot key).regs.v, (s.slot key).regs.k,
          (s.slot key).regs.streams, [], .done⟩ ∧
        lone.cur = key ∧ lone.mem = s.mem ∧ lone.net = s.net ∧ lone.agenda = rest ∧ lone.cycle = s.cycle ∧
        lone.thread u = some { t with
          last := s.cycle + 1, issued := ⟨winBase + off, 4, w, 0, (s.slot key).regs.streams⟩
          ctx := { t.ctx with pc := BitVec.ofNat 48 (winBase + off + 4) } }) ∧
    (∀ n, t.beats = n + 1 → t.beats ≠ t.total → ∃ s', step s = .next s' ∧ s'.agenda = rest ∧
      (0 < n → s'.mem = s.mem ∧ s'.thread u = some { t with last := s.cycle + 1, beats := n }) ∧
      ∀ d w, n = 0 → t.wait = .idle → t.held = [.g d w] → d.val ≠ 0 → (s.slot key).regs.stream d = none → s'.mem = s.mem ∧
        s'.thread u = some { t.woken s.cycle with
          last := s.cycle + 1, beats := 0, held := [], aRan := false, ctx := { t.ctx with g := t.ctx.g.set d w } })) ∧
  (∀ (s : State) (cid key : Nat), s.dueOn cid = some key → key / 16 = cid ∧ ∃ b u t,
    (s.core cid).owners.toList[s.cycle % 16 / 4]? = some (some b) ∧ (s.slot key).run = some u ∧ s.thread u = some t ∧
    t.booth = b ∧ (s.slot key).phase = .live ∧ (t.wait = .idle ∨ t.wait = .yielding ∧ t.beats ≠ 0) ∧ t.woke ≤ s.cycle ∧
    (t.last = 0 ∨ t.last + 7 ≤ s.cycle) ∧ (s.bc cid b).last ≠ s.cycle + 1 ∧
    ∀ k v x, k / 16 = cid → (s.slot k).run = some v → s.thread v = some x → x.booth = b → s.issuable k = true → x.woke ≤ s.cycle →
      x.last = 0 ∨ x.last + 7 ≤ s.cycle → t.last < x.last ∨ t.last = x.last ∧ key ≤ k) ∧
  (∀ (s : State) (rest : List Choice),
    (∀ key, s.agenda = .issue key :: rest → s.due key = false → step s = .next { s with agenda := rest }) ∧
    (s.agenda = .tick :: rest → s.pickSlot = none → step s = .next { s with agenda := rest, cycle := s.cycle + 1 }))

/-- R104, R325, R345, R383: at reset no rail of a package is up, no slot runs a thread, every slot-owned register reads 0, the
limits and the posted window hold the values given for reset, and memory lists nothing, which is its canonical form. That
unwritten memory reads 0 and empty and that slots start as a scrub leaves them is the model's choice (log entries 2 and 4).
-/
def Obligations.ResetState : Prop :=
  (∀ p, (State.reset.pkg p).rails = []) ∧ (∀ u, State.reset.thread u = none) ∧
  (∀ k, (State.reset.slot k).phase = .free ∧ (State.reset.slot k).run = none ∧ (State.reset.slot k).regs = SlotRegs.zero ∧
    (State.reset.slot k).crCnt = 0 ∧ (State.reset.slot k).crTerm = 0) ∧
  (∀ c b, (State.reset.bc c b).tvec = 0 ∧ (State.reset.bc c b).feretry = 64 ∧ (State.reset.bc c b).fewait = 1048576 ∧
    (State.reset.bc c b).agewait = 4194304 ∧ (State.reset.bc c b).sndlim = 65536 ∧ (State.reset.bc c b).win.window = 64) ∧
  State.reset.net = [] ∧ State.reset.mem.wf = true ∧ ∀ a, State.reset.mem.byte a = 0 ∧ State.reset.mem.isFull a = false

/-- Every step keeps the canonical form of memory: rising addresses, and nothing listed that an unlisted address reads as. What memory
holds is the spec's: bytes, the full words of R144, the blocks with age and writer of R43, the key of each block of R388. That it is listed
in one form, and that a byte that nothing has written reads 0, is the model's own (log entry 2). -/
def Obligations.MemoryStaysCanonical : Prop :=
  ∀ s s' : State, s.mem.wf = true → step s = .next s' → s'.mem.wf = true

/-- R65, R103, R147, R150, R161: frames. A word that writes one general register and completes leaves every other register, memory and the
rest of the device as they were. A word that stores and completes changes, of all of memory, at most the bytes it stores to, at the
address that the meaning computes: a store and a synchronising access by its effective address (of these `stf` and `stfill` store, the
others none), an atomic of either width by its register, `vst` by its lanes; an access that goes to a home core changes none here. A load,
an aged access and a publish change no byte and no slot, whether they complete or wait. -/
def Obligations.Frames : Prop :=
  (∀ (i : Instr) (d : GReg) (rs : List GReg) (s s' : State) (u : Nat) (t : Thread), writesOnly i = some (d, rs) → s.Runs u t →
    s.Unbound d → (∀ r ∈ rs, s.Unbound r) → exec i s = .next s' → s'.bun.fin = .done →
      s'.mem = s.mem ∧ s'.net = s.net ∧ s'.slots = s.slots ∧ s'.cores = s.cores ∧ s'.booths = s.booths ∧ s'.vqs = s.vqs ∧
        s'.nqs = s.nqs ∧ s'.launches = s.launches ∧ s'.pkgs = s.pkgs ∧ (∀ v, v ≠ u → s'.thread v = s.thread v) ∧
        ∃ t', s'.thread u = some t' ∧
          (∀ r : GReg, r ≠ d → t'.ctx.g[r] = t.ctx.g[r]) ∧ t'.ctx.g[(0 : GReg)] = t.ctx.g[(0 : GReg)] ∧
          { t' with ctx := { t'.ctx with g := t.ctx.g }, held := t.held } = t) ∧
  (∀ (d a b : GReg) (c : Cls) (o : BitVec 12) (s s' : State) (u : Nat) (t : Thread), s.Runs u t → s.Unbound d →
    s.Unbound a → s.Unbound b → s'.bun.fin = .done →
      let only (l : Except Machine.Step Target) (n : Nat) : Prop :=
        (∀ off, l = .ok (.here off) → ∀ x, x < spad s.cid off ∨ spad s.cid off + n ≤ x → s'.mem.byte x = s.mem.byte x) ∧
          ∀ p ga, l = .ok (.home p ga) → s'.mem = s.mem
      (∀ z : Size, exec (.st d a z c o) s = .next s' → only (s.look accStore (effAddr (s.src a) o)) (Size.bytes z)) ∧
      (∀ e ∈ syncRows, exec (e.op.word d a c o) s = .next s' → t.Plain →
        (∀ off, effAddr (s.src a) o = winBase + off → ∀ p ∈ s.feWait, p.msg.ga ≠ spad s.cid off) →
        only (s.look (if e.op.isLoad then accSyncLoad else accSyncStore) (effAddr (s.src a) o)) (if e.writes then 8 else 0)) ∧
      (∀ (op : AmoOp) (wide : Bool), exec (.amo op d a b wide c) s = .next s' →
        only (s.look accAtomic ((s.src a).toNat % 2 ^ 48)) (if wide then 8 else 4)) ∧
      (∀ wide : Bool, exec (.cas d a b wide c) s = .next s' →
        only (s.look accAtomic ((s.src a).toNat % 2 ^ 48)) (if wide then 8 else 4)) ∧
      (∀ (v : VReg) (m : Bool) (k : KReg), exec (.vst v a b m k) s = .next s' → s.AtCore u t → ∀ x,
        (∀ i < 16, m = false ∨ (s.bun.k[k]).getLsbD i = true →
          let lane := spad s.cid (((s.src a).toNat + i * (s.src b).toNat) % 2 ^ 48 - winBase)
          x < lane ∨ lane + 4 ≤ x) →
        s'.mem.byte x = s.mem.byte x)) ∧
  (∀ (d a b : GReg) (z : Size) (c : Cls) (e : Ext) (o : BitVec 12) (m : AMode) (g : Lag) (x : BitVec 8) (s s' : State) (u : Nat)
    (t : Thread), s.Runs u t → s.Unbound d → s.Unbound a → s.Unbound b → (∀ r, g = .reg r → s.Unbound r) →
      ∀ i ∈ [Instr.ld d a z c e o, .lda d a m g x, .fetcha d a m g x, .pub d a b], exec i s = .next s' →
        s'.bun.fin = .done ∨ s'.bun.fin = .parked →
          s'.mem = s.mem ∧ s'.slots = s.slots ∧ s'.cores = s.cores ∧ s'.booths = s.booths ∧ ∀ v, v ≠ u → s'.thread v = s.thread v)

/-! ### Homes -/

/-- R141, R147, R149, R161, R162, R344: a home performs the load, store, atomic or `cas` that arrives, as one access, and
answers with the value, or an acknowledgement where one is due; one that it refuses it answers with a refusal, or the trap
REMOTE_NACK where the requester waits; an atomic that it lacks, with ATOMIC_UNSUP. R388, R389: its block is seen under the key of
the mapping: as it is if it stands under that key or, for a read, under none, else as what its cipher text reads as under
that key; a scratchpad word stands under no key. How a block under another key or under none is seen, and what the key material is, is
the model's choice (log entries 47 and 62). -/
def Obligations.HomeAccesses : Prop :=
  (∀ (n k : Nat) (s : State) (m : Msg), s.Serves n m →
    (let r := s.underKey m false
     ∀ sg, m.body = .req (.load k sg) → exec (.homeLoad n) s = .next (r.answered n m (valueReply
      (let b := BitVec.ofNat (8 * k) (r.mem.read m.ga k)
       if sg then b.signExtend 64 else BitVec.ofNat 64 (r.mem.read m.ga k))))) ∧
    (let w := s.underKey m true
     (∀ v, m.body = .req (.store k v) → m.ack = true →
      exec (.homeStore n) s = .next (((w.modMem (fun x => x.write m.ga k v)).oneLess m.uid).answered n m .ack)) ∧
     (∀ e v, m.body = .req (.cas k e v) →
      (s.lacks m 10 k = false → exec (.homeAtomic n) s = .next
        ((if w.mem.read m.ga k = e then w.modMem (fun x => x.write m.ga k v) else w).answered n m
          (valueReply (BitVec.ofNat 64 (w.mem.read m.ga k))))) ∧
      (s.lacks m 10 k = true → m.posted = false →
        exec (.homeAtomic n) s = .next (s.answered n m (.trapReply 0x14 (m.va % 2 ^ 48))))) ∧
     (∀ op x, m.body = .req (.amo op k [x]) →
      (s.lacks m (AmoOp.code op) k = false → op ≠ .fadd → x.posted = false → x.operand < 2 ^ (8 * k) →
        exec (.homeAtomic n) s = .next ((w.modMem (fun y => y.write m.ga k
          (amoRef op (8 * k) (BitVec.ofNat _ (w.mem.read m.ga k)) (BitVec.ofNat _ x.operand)).toNat)).answered n m
            (valueReply (BitVec.ofNat 64 (w.mem.read m.ga k))))) ∧
      (s.lacks m (AmoOp.code op) k = true →
        (x.posted = false →
          exec (.homeAtomic n) s = .next (s.answered n (m.asMember x) (.trapReply 0x14 (m.va % 2 ^ 48)))) ∧
        (x.posted = true →
          exec (.homeAtomic n) s = .next ((s.oneLess x.uid).answered n (m.asMember x) (.refusal m.va))))))) ∧
  (∀ (n k : Nat) (s : State) (m : Msg), s.arrived n = some m → s.refuses m k = true → s.installed m.ga k = true →
    (∀ sg, m.body = .req (.load k sg) → m.posted = false →
      exec (.homeLoad n) s = .next (s.answered n m (.trapReply 0x15 (m.va % 2 ^ 48)))) ∧
    (∀ v, m.body = .req (.store k v) → m.posted = true →
      exec (.homeStore n) s = .next ((s.oneLess m.uid).answered n m (.refusal m.va))) ∧
    (∀ e w, m.body = .req (.cas k e w) → m.posted = false →
      exec (.homeAtomic n) s = .next (s.answered n m (.trapReply 0x15 (m.va % 2 ^ 48))))) ∧
  (∀ (n : Nat) (s : State) (m : Msg) (b : Body), ∃ a, (s.answered n m b).net = dropAt s.net n ++ [a] ∧ a.src = m.dst ∧
    a.dst = m.src ∧ a.booth = m.booth ∧ a.uid = m.uid ∧ a.mid = m.mid ∧ a.d = m.d ∧ a.mark = m.mark ∧ a.chan = 2 ∧
    a.body = b ∧ (s.answered n m b).mem = s.mem) ∧
  (∀ (s : State) (m : Msg) (wr : Bool) (p : Page), s.pageFor m.pkg m.booth m.va = some p →
    let blk := m.ga - m.ga % 512
    let k := s.keyId m.pkg p.key
    (2 ^ 64 ≤ m.ga → s.underKey m wr = s) ∧
    (m.ga < 2 ^ 64 →
      (find s.mem.keys blk = some k → s.underKey m wr = s) ∧
      (find s.mem.keys blk = none → s.underKey m false = s ∧
        (s.underKey m true).mem = { s.mem with keys := put s.mem.keys blk k }) ∧
      ∀ j, find s.mem.keys blk = some j → j ≠ k → (s.underKey m wr).mem =
        ({ s.mem with keys := put s.mem.keys blk k } : Memory).write blk 512
          (xtsDecrypt (keyValue k) (blk % 2 ^ 52 / 512) (xtsEncrypt (keyValue j) (blk % 2 ^ 52 / 512) (s.mem.read blk 512)))))

/-- R150 to R152, R156 to R158: a synchronising access at its home is performed when the word is in the state it needs, and
waits in the word's list otherwise; an aged request is answered when the block's age reaches its iteration within the lag,
traps when it may not wait or the block's writer has stopped, and waits otherwise; a publish that is not older than the
block replaces it, with its iteration as age and its thread as writer, an older one leaves memory as it is, and either takes its
thread off the stop list. That a list is walked once is the model's reading (log entry 13). -/
def Obligations.HomeSynchronisation : Prop :=
  (∀ e ∈ syncRows, ∀ (n r l : Nat) (w : Word) (s : State) (m : Msg), s.Serves n m → m.ga % 8 = 0 → m.src ≠ m.dst →
    m.body = .req (.sync e.op w r l) → s.feWait = [] →
      let f := s.mem.isFull m.ga
      let v := s.underKey m (!e.op.isLoad)
      (e.needs = none ∨ e.needs = some f → ∃ s' a, exec (.homeSyncAccess n) s = .next s' ∧
        s'.mem = (let x := if e.writes then v.mem.write m.ga 8 w.toNat else v.mem
          if e.after f = f ∧ e.writes = false then x else x.setFull m.ga (e.after f)) ∧ s'.feWait = [] ∧
        s'.net = dropAt s.net n ++ [a] ∧ a.dst = m.src ∧ a.mid = m.mid ∧
        a.body = .reply ⟨e.value (BitVec.ofNat 64 (v.mem.read m.ga 8)) f, none, none, 0, 0⟩) ∧
      (e.needs = some (!f) →
        exec (.homeSyncAccess n) s = .next { s.dropMsg n with feWait := [⟨m, s.cycle, 1⟩] })) ∧
  (∀ (n f w lag it limit : Nat) (park : Bool) (s : State) (m : Msg), s.Serves n m →
    let r := s.underKey m false
    ∀ p ∈
    [(Instr.homeAgedLoad n, Req.lda w park lag it limit, (⟨some (r.mem.word (m.ga - m.ga % 512 + w)),
        some (s.mem.block m.ga).age, none, 0, 0⟩ : Answer)),
      (.homeFetcha n, .fetcha f park lag it limit, ⟨none, some (s.mem.block m.ga).age, some f,
        r.mem.read (m.ga - m.ga % 512) 512, r.mem.fulls (m.ga - m.ga % 512) 64⟩)], m.body = .req p.2.1 →
      let b := s.mem.block m.ga
      let stopped := (getD s.stops (m.dst * 64 + m.booth) []).contains b.writer
      (it ≤ b.age + lag → exec p.1 s = .next (r.answered n m (.reply p.2.2))) ∧
      (b.age + lag < it → park = false → exec p.1 s = .next (s.answered n m (.trapReply 0x10 b.age))) ∧
      (b.age + lag < it → park = true → stopped = true →
        exec p.1 s = .next (s.answered n m (.trapReply 0x11 (b.age * 2 ^ 32 + b.writer)))) ∧
      (b.age + lag < it → park = true → stopped = false →
        exec p.1 s = .next { s.dropMsg n with agedWait := s.agedWait ++ [⟨m, s.cycle, 1⟩] })) ∧
  (∀ (n it v : Nat) (s : State) (m : Msg), s.Serves n m → m.body = .req (.pub v it) → s.feWait = [] → s.agedWait = [] →
    let b := s.mem.block m.ga
    let w := s.underKey m true
    ∃ s', exec (.homePublish n) s = .next s' ∧ (getD s'.stops (m.dst * 64 + m.booth) []).contains m.tid = false ∧
      (it < b.age → s'.mem = w.mem ∧ s'.net = (s.answered n m (valueReply (BitVec.ofNat 64 b.age))).net) ∧
      (b.age ≤ it →
        s'.mem = ((w.mem.write (m.ga - m.ga % 512) 512 v).setFulls (m.ga - m.ga % 512) 64 (2 ^ 64 - 1)).setBlock
          (m.ga - m.ga % 512) ⟨it, m.tid⟩ ∧
        s'.net = (s.answered n m (valueReply (BitVec.ofNat 64 it))).net))

/-! ### Answers, credits and fences -/

/-- R65, R111, R145, R156: a reply completes the access that its thread waits for: the destination register, AGE where the
reply brings an age, and the thread may issue again; a reply that brings a trap enters the handler with the address of the
bundle that the thread issued, its streams as they stood at that issue. -/
def Obligations.RepliesReachTheirThreads : Prop :=
  ∀ (n : Nat) (s : State) (m : Msg) (t : Thread), s.arrived n = some m → m.party = .core → s.thread m.uid = some t →
    t.wait = .reply m.mid → t.place = .slot → t.Plain →
      (∀ (w : Word) (age : Option Nat), (s.slot t.key).regs.stream m.d = none → m.body = .reply ⟨some w, age, none, 0, 0⟩ →
        ∃ s', exec (.remoteReply n) s = .next s' ∧ s'.thread m.uid = some { t.woken s.cycle with
            aRan := false
            ctx := { t.ctx with
              g := if m.d.val = 0 then t.ctx.g else t.ctx.g.set m.d w
              age := match age with
                | none => t.ctx.age
                | some a => BitVec.ofNat 24 a } } ∧
          s'.mem = s.mem ∧ s'.slots = s.slots ∧ s'.net = dropAt s.net n ∧
          ∀ v, v ≠ m.uid → s'.thread v = s.thread v) ∧
      (∀ c v, m.body = .trapReply c v → t.ctx.th = false → (s.bc (t.key / 16) t.booth).tvec ≠ 0 →
        m.dst = t.key / 16 → m.booth = t.booth →
        ∃ s', exec (.remoteReply n) s = .next s' ∧ s'.thread m.uid = some { t.woken s.cycle with
            aRan := false, given := []
            ctx := { t.ctx with
              pprv := t.ctx.prv, prv := true, th := true, pc := (s.bc (t.key / 16) t.booth).tvec.setWidth 48 } } ∧
          (s'.slot t.key).regs = { (s.slot t.key).regs with
            streams := t.issued.streams, epc := BitVec.ofNat 64 t.issued.pc, cause := BitVec.ofNat 64 c,
            tval := BitVec.ofNat 64 v } ∧
          s'.mem = s.mem ∧ s'.net = dropAt s.net n)

/-- R145, R149, R204, R215, R344, R345: a credit takes its accesses off the window's count; without a mark the window grows
by one, to 64 at most, once as many accesses as it holds have come back clean; with a mark it is halved, but never below one
nor twice within one window. An acknowledgement ends its access; a refusal does too, and is recorded for the thread's next
fence. A home credits the accesses it has performed for a source with one message, 32 cycles after the first. -/
def Obligations.CreditsAndAcknowledgements : Prop :=
  (∀ (n c : Nat) (s : State) (m : Msg), s.arrived n = some m → m.body = .credit c →
    let w := (s.bc m.dst m.booth).win
    ∃ s' w', exec (.orderedCredit n) s = .next s' ∧ s'.mem = s.mem ∧ s'.net = dropAt s.net n ∧
      s'.bc m.dst m.booth = { s.bc m.dst m.booth with win := w' } ∧ w'.outstanding = w.outstanding - c ∧
      (m.mark = false → w.window ≤ w.clean + c → w'.window = min 64 (w.window + 1)) ∧
      (m.mark = false → w.clean + c < w.window → w'.window = w.window ∧ w'.clean = w.clean + c) ∧
      (m.mark = true → w.window ≤ w.sincecut → w'.window = max 1 (w.window / 2) ∧ w'.sincecut = c) ∧
      (m.mark = true → w.sincecut < w.window → w'.window = w.window ∧ w'.sincecut = w.sincecut + c)) ∧
  (∀ (n : Nat) (s : State) (m : Msg) (t : Thread), s.arrived n = some m → m.party = .core → s.thread m.uid = some t → t.wait = .idle →
    let settled := { t with
      spray := t.spray.filter (fun (x : Nat × Nat × Nat) => x.1 != m.mid)
      offPkg := t.offPkg.filter (· != m.mid) }
    (m.body = .ack → ∃ s', exec (.acknowledgement n) s = .next s' ∧ s'.thread m.uid = some settled ∧ s'.mem = s.mem ∧
      (s'.bc m.dst m.booth).win.outstanding = (s.bc m.dst m.booth).win.outstanding - 1) ∧
    (∀ va, m.body = .refusal va → t.refusal = none → ∃ s' c, exec (.postedRefusal n) s = .next s' ∧
      s'.thread m.uid = some { settled with refusal := some ⟨va, c, 0⟩ } ∧ s'.mem = s.mem ∧
      (m.src = t.key / 16 → c = 0) ∧ (pkgOf m.src ≠ pkgOf (t.key / 16) → c = 4) ∧
      (s'.bc m.dst m.booth).win.outstanding = (s.bc m.dst m.booth).win.outstanding - 1)) ∧
  (∀ (n c home src booth since : Nat) (mark : Bool) (s : State), src < 2 ^ 26 → booth < 64 → since + 32 ≤ s.cycle →
    s.uncredited[n]? = some (home * 2 ^ 32 + src * 64 + booth, c, mark, since) →
      ∃ s' m, exec (.creditTimer n) s = .next s' ∧ s'.uncredited = dropAt s.uncredited n ∧ s'.net = s.net ++ [m] ∧
        m.src = home ∧ m.dst = src ∧ m.booth = booth ∧ m.mark = mark ∧ m.body = .credit c ∧ s'.mem = s.mem)

/-- R118, R152, R156, R157, R308: a full/empty request that has been tried FERETRY + 1 times, or has waited FEWAIT cycles, is
answered with the trap FE_LIMIT, bit 59 of its value set for the time; an aged request that has waited AGEWAIT cycles with
LAG_TIMEOUT and the block's age; a stop notice enters the stop list first and releases the requests on its writer's blocks;
a blocked send that has waited SNDLIM cycles is withdrawn and traps; a page walk, one of the four that its cluster runs, brings its
page into the cluster's buffer and that of the core whose thread waits, which issues again, or ends in the thread's trap where
the booth maps no page. The model's choices: a limit is ended by a step of its own (log entries 17 and 51), and an address that no
page maps has its trap at the end of a walk (log entry 50). -/
def Obligations.LimitsNoticesAndWalks : Prop :=
  (∀ (n retry limit : Nat) (op : SyncOp) (w : Word) (s : State) (p : Parked), s.feWait[n]? = some p →
    p.msg.body = .req (.sync op w retry limit) → p.msg.src ≠ p.msg.dst →
      (retry ≠ 0 → retry < p.tries → exec (.feRetryLimit n) s = .next (({ s with feWait := dropAt s.feWait n } : State).answer
        p.msg (.trapReply 0x13 (p.msg.va % 2 ^ 48)))) ∧
      (limit ≠ 0 → p.since + limit ≤ s.cycle → exec (.feWaitLimit n) s =
        .next (({ s with feWait := dropAt s.feWait n } : State).answer p.msg
          (.trapReply 0x13 (2 ^ 59 + p.msg.va % 2 ^ 48))))) ∧
  (∀ (n f lag it limit : Nat) (park : Bool) (s : State) (p : Parked), s.agedWait[n]? = some p →
    p.msg.body = .req (.lda f park lag it limit) ∨ p.msg.body = .req (.fetcha f park lag it limit) → p.msg.party = .core →
    limit ≠ 0 →
      p.since + limit ≤ s.cycle → exec (.lagTimeout n) s = .next (({ s with agedWait := dropAt s.agedWait n } : State).answer
        p.msg (.trapReply 0x12 (s.mem.block p.msg.ga).age))) ∧
  (∀ (n tid : Nat) (s : State) (m : Msg), s.arrived n = some m → m.body = .stop tid → tid ≠ 0 →
    let key := m.dst * 64 + m.booth
    let l := (tid :: (getD s.stops key []).filter (· != tid)).take 32
    (s.agedWait = [] → exec (.stopNotice n) s = .next { s.dropMsg n with stops := put s.stops key l }) ∧
    (∀ p, s.agedWait = [p] → p.msg.dst = m.dst → p.msg.booth = m.booth → (s.mem.block p.msg.ga).writer = tid →
      exec (.stopNotice n) s = .next (({ s.dropMsg n with stops := put s.stops key l, agedWait := [] } : State).answer p.msg
        (.trapReply 0x11 ((s.mem.block p.msg.ga).age * 2 ^ 32 + tid))))) ∧
  (∀ (u mid since limit dst k : Nat) (m : Msg) (s : State) (t : Thread), s.thread u = some t → t.place = .slot →
    t.wait = .send mid since limit dst k → limit ≠ 0 → since + limit ≤ s.cycle → t.ctx.th = false →
      (s.bc (t.key / 16) t.booth).tvec ≠ 0 → (s.chan dst t.booth k).senders = [m] → m.mid = mid → (∀ x ∈ s.net, x.mid ≠ mid) →
        ∃ s', exec (.sendStall u) s = .next s' ∧ (s'.slot t.key).regs.cause = 0x16 ∧
          (s'.slot t.key).regs.tval = BitVec.ofNat 64 (k * 2 ^ 32 + dst * 16) ∧
          (s'.slot t.key).regs.epc = BitVec.ofNat 64 t.issued.pc ∧ s'.mem = s.mem ∧
          (s'.thread u).map (fun x => (x.wait, x.ctx.prv, x.ctx.th)) = some (.idle, true, true) ∧
          (s'.chan dst t.booth k).senders = [] ∧ (s'.chan dst t.booth k).queue = (s.chan dst t.booth k).queue) ∧
  (∀ (n u cause tval : Nat) (w : Walk) (t : Thread) (s : State), s.walks[n]? = some w → s.threads = [(u, t)] →
    ((s.walks.take n).filter (fun x => x.cluster == w.cluster)).length < 4 →
    t.wait = .retry (.walk w.cluster w.booth w.va cause tval) → ∃ s', exec (.walkComplete n) s = .next s' ∧
      s'.walks = dropAt s.walks n ∧ s'.mem = s.mem ∧
      (∀ p, s.pageFor (pkgOf (w.cluster * 16)) w.booth w.va = some p → s'.thread u = some (t.woken s.cycle) ∧
        (w.booth, p) ∈ getD s'.l2 w.cluster [] ∧ (w.booth, p) ∈ (s'.core (t.key / 16)).tlb) ∧
      (s.pageFor (pkgOf (w.cluster * 16)) w.booth w.va = none → t.place = .slot → t.ctx.th = false →
        (s.bc (t.key / 16) t.booth).tvec ≠ 0 → (s'.slot t.key).regs.cause = BitVec.ofNat 64 cause ∧
          (s'.slot t.key).regs.tval = BitVec.ofNat 64 tval ∧ (s'.slot t.key).regs.epc = BitVec.ofNat 64 t.issued.pc ∧
          (s'.thread u).map (fun x => (x.wait, x.ctx.prv, x.ctx.th)) = some (.idle, true, true)))

/-! ### Runs of the matrix engine and the near mesh -/

/-- R243, R245, R252, R253, R261, R262: the free engine starts the request of the group after the last run's; a run that ends
frees the engine, leaves its code and steps in MRS and lets its thread issue; `mzero` sets the entries of its tile, or all,
to +0; an FP16 product adds, for each k in order, A(i, k)·B(k, j) to each entry with one rounding; a run that waits on the
ring 4,096 cycles after its start ends with AB = 1 and the steps done. That a run reads and writes at its end is the model's
choice (log entry 38). -/
def Obligations.MatrixRuns : Prop :=
  (∀ (cid : Nat) (s : State) (t : Thread) (r q : MRun), (s.core cid).mrun = none → (s.core cid).lost = false →
    (s.core cid).mlast < 4 → (s.core cid).mreqs = [q, r] → groupOf r.key = ((s.core cid).mlast + 1) % 4 →
    groupOf q.key ≠ groupOf r.key → r.op ∉ [2, 8] → s.thread r.uid = some t → t.place = .slot → t.key = r.key →
      ∃ s', exec (.matrixRunStart cid) s = .next s' ∧ s'.mem = s.mem ∧ s'.threads = s.threads ∧ s'.slots = s.slots ∧
        s'.core cid = { s.core cid with
          mreqs := [q], mlast := groupOf r.key
          mrun := some { r with since := s.cycle, mode := (s.slot r.key).regs.nbv } }) ∧
  (∀ (cid : Nat) (s : State) (t : Thread) (r : MRun), s.Running cid r t →
    (r.op ∈ [1, 3, 6, 9, 10] → ∃ s', exec (.matrixRunEnd cid) s = .next s' ∧ s.RunOver s' cid r t (r.op * 2 ^ 20)) ∧
    (r.op = 1 → rising (s.core cid).acc = true → ∃ s', exec (.matrixRunEnd cid) s = .next s' ∧ s'.mem = s.mem ∧
      ∀ e < 2048, s'.entry cid (groupOf r.key) e =
        if r.sat = true ∨ e / 512 = r.tile then 0 else s.entry cid (groupOf r.key) e) ∧
    (r.op = 2 → r.mda.toNat / 2 ^ 62 = 0 → r.mdb.toNat / 2 ^ 62 = 0 → r.mda.getLsbD 60 = false → r.mdb.getLsbD 61 = false →
      r.mode = false → rising (s.core cid).acc = true → ∃ s', exec (.matrixRunEnd cid) s = .next s' ∧ s'.mem = s.mem ∧
        s.RunOver s' cid r t (2 * 2 ^ 20 + r.k) ∧
        ∀ e < 2048, s'.entry cid (groupOf r.key) e =
          if e / 512 = r.tile then BitVec.ofNat 36 ((List.range r.k).foldl (fun n k =>
            Exact.round Exact.a36 .rne r.sat (Exact.add false (Exact.ofBits Exact.a36 n)
              (Exact.mul (s.operandElem cid r.a r.mda (e % 512 / 16) k) (s.operandElem cid r.b r.mdb (e % 16) k))))
            (s.entry cid (groupOf r.key) e).toNat)
          else s.entry cid (groupOf r.key) e) ∧
    (r.op = 2 → r.mda.toNat / 2 ^ 62 = 0 → r.mda.getLsbD 60 = false → r.mdb.getLsbD 61 = true → (s.slot r.key).opb = [] →
      r.units.length < r.k → r.since + 4096 ≤ s.cycle →
        ∃ s', exec (.matrixRunLimit cid) s = .next s' ∧ s'.mem = s.mem ∧
          s.RunOver s' cid r t (2 * 2 ^ 20 + 2 ^ 16 + r.units.length)))

/-! ### Commands of the copy engine, and pulses -/

/-- R219, R229: the command at the head of the queue whose turn it is starts when its deficit covers its cost, with all its chunks to
do, GATHER and SCATTER with their lists, and BE with its handle's object; BE with an unbound handle ends at once with status 6; REDUCE,
whose bit 5 is its operation's (R225), has its chunks whatever that bit is; ABAR binds its object, sets EXPECTED and empties the gate.
One with OB does not start while another of its queue runs or has its pulse under way (R237). R227, R230: a chunk's requests are issued;
once they are answered, the chunk is done and the bytes performed are counted into the object, whose phase completes when ARRIVED
reaches EXPECTED. R223, R224, R231: a command without chunks left ends: its result element, unless NR, and its pulse, unless Q. R227: a
FETCHA block whose age stays short until the limit ends with status 3. The model's choices: a chunk's requests are issued in one step, and
in the pusher's window its bytes move in that step (log entry 20); where a resize has taken the bank of the list or object since the
push, the command ends with status 1, and nothing is counted into an object that has left the booth (log entry 82). -/
def Obligations.CopyEngineCommands : Prop :=
  (∀ (eng b : Nat) (c : Cmd) (cs : List Cmd) (s : State), b < 48 →
    let key := eng * 64 + b
    let q := getD s.vqs key VQueue.init
    let code := c.fn / 2 ^ 9 % 16
    let barrier := c.fn.testBit 5 = true ∧ code ≠ 6
    let list := c.wa.toNat % 2 ^ 48
    let has := code ∉ [1, 2] ∨ s.keeps c (list - winBase) (8 * (c.wa.toNat / 2 ^ 48 + 1)) = true
    let last := q.running = [] ∧ ∀ p ∈ s.pulses, p.booth = b → p.key / 256 = eng → p.net = true
    q.queue = c :: cs →
    (c.fn.testBit 6 = true → ¬ last → exec (.copyCmdStart key) s = .refused (.notEnabled "COPY_CMD_START")) ∧
    (c.fn.testBit 6 = false ∨ last → getD s.turns eng 0 = b → c.cost ≤ q.deficit →
      (∀ e ∈ s.vqs, e.1 / 64 = eng → ∀ r ∈ e.2.running, r.todo = [] ∧ r.vals = []) →
        ∃ s' r, exec (.copyCmdStart key) s = .next s' ∧ r.cmd = c ∧ r.wait = [] ∧ r.done = [] ∧
          (getD s'.vqs key VQueue.init).queue = cs ∧ (getD s'.vqs key VQueue.init).running = q.running ++ [r] ∧
          (getD s'.vqs key VQueue.init).deficit = q.deficit - c.cost ∧
          (code ≠ 7 → s'.mem = s.mem ∧ r.todo = r.chunks ∧ (getD s'.vqs key VQueue.init).handles = q.handles ∧
            (¬ barrier → has → r.chunks = r.allChunks ∧ r.status = 0 ∧ r.obj = none ∧ r.limit = cmdBytes c.fn c.wa) ∧
            (barrier → has → q.handles.toList[c.fn / 4 % 8]? = some none → r.chunks = [] ∧ r.status = 6) ∧
            (∀ o, barrier → has → q.handles.toList[c.fn / 4 % 8]? = some (some o) →
              r.chunks = r.allChunks ∧ r.status = 0 ∧ r.obj = some o ∧ r.limit = cmdBytes c.fn c.wa) ∧
            (code ∈ [1, 2] → has → ¬ barrier → r.addrs = (List.range (c.wa.toNat / 2 ^ 48 + 1)).map (fun e =>
              s.mem.read (spad (c.key / 16) (list - winBase + 8 * e)) 8 % 2 ^ 48)) ∧
            (¬ has → r.chunks = [] ∧ r.status = 1)) ∧
          (code = 7 → s.feWait = [] →
            let obj := spad (c.key / 16) (c.wa.toNat % 2 ^ 17)
            r.chunks = [] ∧
            (s.keeps c (c.wa.toNat % 2 ^ 17) 16 = true → r.status = 0 ∧
              (getD s'.vqs key VQueue.init).handles.toList[c.fn / 4 % 8]? = some (some obj) ∧
              s'.mem =
                ((s.mem.write obj 8 (c.wa.toNat / 2 ^ 32 % 2 ^ 31 * 2 ^ 32)).write (obj + 8) 8 0).setFull (obj + 8) false) ∧
            (s.keeps c (c.wa.toNat % 2 ^ 17) 16 = false → r.status = 1 ∧ s'.mem = s.mem ∧
              (getD s'.vqs key VQueue.init).handles = q.handles)))) ∧
  (∀ (key i k : Nat) (r : Run) (s : State), (getD s.vqs key VQueue.init).running[i]? = some r →
    (k ∈ r.todo → ∃ s' r', exec (.chunkCounted key i k) s = .next s' ∧ (getD s'.vqs key VQueue.init).running[i]? = some r' ∧
      r'.cmd = r.cmd ∧ r'.chunks = r.chunks ∧ r'.todo = r.todo.filter (· != k)) ∧
    (k ∉ r.todo → k ∈ r.chunks → (∀ w ∈ r.wait, r.inChunk k w.2.1 = true → w.2.2.2 = false ∧ r.limit ≤ w.2.1) →
      (∀ v ∈ r.vals, r.inChunk k v.1 = false) → ∃ s' r', exec (.chunkCounted key i k) s = .next s' ∧
        (getD s'.vqs key VQueue.init).running[i]? = some r' ∧ r'.cmd = r.cmd ∧ r'.status = r.status ∧
        r'.chunks = r.chunks.filter (· != k) ∧
        (r.obj = none ∨ (∀ o ∈ r.done, r.inChunk k o = false) → s'.mem = s.mem)) ∧
    (k ∉ r.todo → k ∈ r.chunks → (∃ w ∈ r.wait, r.inChunk k w.2.1 = true ∧ (w.2.2.2 = true ∨ w.2.1 < r.limit)) →
      exec (.chunkCounted key i k) s = .refused (.notEnabled "CHUNK_COUNTED")) ∧
    (k ∉ r.todo → k ∉ r.chunks → exec (.chunkCounted key i k) s = .refused (.notEnabled "CHUNK_COUNTED"))) ∧
  (∀ (key i off v : Nat) (r : Run) (s : State), (getD s.vqs key VQueue.init).running[i]? = some r → r.limit = 8 →
    cmdBytes r.cmd.fn r.cmd.wa = 8 → off < 2 ^ 17 → off % 64 = 0 → s.ownsOff (r.cmd.key / 16) r.cmd.booth off = true →
      let dst := spad (r.cmd.key / 16) off
      (0 ∈ r.todo → (r.cmd.fn / 2 ^ 9 % 16 = 3 ∧ r.cmd.wa.toNat % 2 ^ 48 = winBase + off ∧
          v = r.cmd.wb.toNat % 2 ^ 32 * 2 ^ 32 + r.cmd.wb.toNat % 2 ^ 32) ∨
        (∃ src, r.cmd.fn / 2 ^ 9 % 16 = 0 ∧ r.cmd.wb.toNat % 2 ^ 48 = winBase + off ∧
          r.cmd.wa.toNat % 2 ^ 48 = winBase + src ∧ src < 2 ^ 17 ∧
          s.ownsOff (r.cmd.key / 16) r.cmd.booth src = true ∧ v = s.mem.read (spad (r.cmd.key / 16) src) 8) →
        ∃ s', exec (.chunkCounted key i 0) s = .next s' ∧ s'.mem = s.mem.write dst 8 v) ∧
      (∀ obj ex arr, 0 ∉ r.todo → 0 ∈ r.chunks → r.wait = [] → r.vals = [] → r.done = [0] → r.cmd.fn / 2 ^ 9 % 16 = 3 →
        r.cmd.wa.toNat % 2 ^ 48 = winBase + off → obj % 8 = 0 → obj < 2 ^ 17 →
        let o := spad (r.cmd.key / 16) obj
        r.obj = some o → s.mem.read o 8 = ex * 2 ^ 32 + arr → 0 < ex → ex < 2 ^ 31 → s.feWait = [] →
        rising s.mem.bytes = true → ∃ s', exec (.chunkCounted key i 0) s = .next s' ∧
          (s.ownsOff (r.cmd.key / 16) r.cmd.booth obj = true →
            (arr + 8 < ex → s'.mem.read o 8 = ex * 2 ^ 32 + arr + 8 ∧ s'.mem.read (o + 8) 8 = s.mem.read (o + 8) 8 ∧
              s'.mem.isFull (o + 8) = s.mem.isFull (o + 8)) ∧
            (arr + 8 = ex → s'.mem.read o 8 = 2 ^ 63 + ex * 2 ^ 32 ∧
              s'.mem.read (o + 8) 8 = 2 ^ 63 + ex * 2 ^ 32 ∧ s'.mem.isFull (o + 8) = true)) ∧
          (s.ownsOff (r.cmd.key / 16) r.cmd.booth obj = false → s'.mem = s.mem))) ∧
  (∀ (key i : Nat) (r : Run) (s : State), (getD s.vqs key VQueue.init).running[i]? = some r →
    let status := if r.status = 0 ∧ r.stale ≠ 0 then 5 else r.status
    let value := if r.status = 0 ∧ r.stale ≠ 0 then r.stale * 2 ^ 24 + r.staleAge else r.value
    (r.chunks ≠ [] → exec (.copyCmdComplete key i) s = .refused (.notEnabled "COPY_CMD_COMPLETE")) ∧
    (r.chunks = [] → ∃ s', exec (.copyCmdComplete key i) s = .next s' ∧ s'.mem = s.mem ∧
      (getD s'.vqs key VQueue.init).running = dropAt (getD s.vqs key VQueue.init).running i ∧
      s'.pulses = (if r.cmd.fn.testBit 7 then s.pulses else s.pulses ++ [⟨r.cmd.key, r.cmd.booth, r.cmd.tenant, false⟩]) ∧
      ∀ t, s.thread r.cmd.uid = some t → t.wait = .idle → s'.thread r.cmd.uid = some
        (if (r.cmd.fn.testBit 8 = true ∧ status = 0) ∨ t.moves ≠ r.cmd.moves then { t with cpCount := t.cpCount - 1 }
          else { t with cpOut := t.cpOut ++ [BitVec.ofNat 64 (r.cmd.wb.toNat / 2 ^ 48 * 2 ^ 48 +
            r.cmd.fn / 2 ^ 9 % 16 * 2 ^ 44 + status * 2 ^ 40 + value % 2 ^ 40)] }))) ∧
  (∀ (key i o row : Nat) (pub : Bool) (p : Parked) (r : Run) (s : State),
    (getD s.vqs key VQueue.init).running[i]? = some r → s.agedWait = [p] → r.wait = [(p.msg.mid, o, row, pub)] →
    r.cmd.agewait ≠ 0 → p.since + r.cmd.agewait ≤ s.cycle → o < r.limit → ∃ s', exec (.copyFetchaTimeout key i) s = .next s' ∧
      s'.mem = s.mem ∧ (getD s'.vqs key VQueue.init).running[i]? = some { r with
        status := 3, value := o / 512 * 2 ^ 24 + (s.mem.block p.msg.ga).age, limit := o })

/-! ### The network engine -/

/-- R364, R374: the engine starts the command at the head of the queue whose turn it is: CTRSET sets its counter, CTRWAIT ends when
the counter has reached its value and waits until then, EPOPEN closes its endpoint, a read of at most one packet sends one
request in its context. R371, R373, R376, R378: an acknowledgement of the last packet, the last read response, a refusal and the end of
the retries each end their command with its status and value; a packet whose time has passed is sent again; a lost port ends the
command on its endpoint and drops the packets under way at it. R363, R369, R372, R373: the bytes of a new written packet go to the
home of the peer's memory region; a packet already received changes no memory and is acknowledged again, and one refused is refused
again; a new context of the sender starts afresh; one for no open endpoint is refused with reason 1, and one of another delivery service
with reason 5; packets received and not yet acknowledged are acknowledged by the timer. The model's choices: the bytes of a transfer in a
window move in the same step (log entry 20), a target's accesses have the privilege of its opener (log entry 78), a read's packet is settled
by its response and not by an acknowledgement (log entry 80), an acknowledgement names the packets refused, of which the refusal ends the
command, packets of a replaced context are discarded, and a received message is counted after it is acknowledged (log entry 83), and a
command whose block a resize has taken ends with status 1 (log entry 82). -/
def Obligations.NetworkEngine : Prop :=
  (∀ (eng b : Nat) (c : NCmd) (cs : List NCmd) (t : Thread) (s : State), b < 48 →
    let k := eng * 64 + b
    (s.nq k).queue = c :: cs → (s.nq k).jobs = [] → getD s.nturns eng 0 = b → s.thread c.uid = some t → t.wait = .idle →
    (∀ e ∈ s.threads, ∀ h n, e.2.wait ≠ .counter h n) →
      let v := c.wa.toNat % 2 ^ 48
      let ctr := c.wa.toNat / 2 ^ 48 % 2 ^ 6
      (c.fn / 2 ^ 9 % 16 = 4 → ∃ s', exec (.nwCmdStart k) s = .next s' ∧ s.NetDone s' c t 0 0 ∧ s'.mem = s.mem ∧
        (s'.nq k).queue = cs ∧ (rising (s.nq k).ctrs = true → getD (s'.nq k).ctrs ctr 0 = v)) ∧
      (c.fn / 2 ^ 9 % 16 = 5 → v ≤ getD (s.nq k).ctrs ctr 0 → ∃ s', exec (.nwCmdStart k) s = .next s' ∧
        s.NetDone s' c t 0 0 ∧ s'.nq k = { s.nq k with queue := cs } ∧ s'.mem = s.mem) ∧
      (c.fn / 2 ^ 9 % 16 = 5 → getD (s.nq k).ctrs ctr 0 < v →
        exec (.nwCmdStart k) s = .refused (.notEnabled "NW_CMD_START")) ∧
      (c.fn / 2 ^ 9 % 16 = 0 → (s.nq k).running = [] → s.keepsBlock c = true → (s.blockWord c 1).getLsbD 27 = true → ∃ s',
        exec (.nwCmdStart k) s = .next s' ∧ s.NetDone s' c t 0 0 ∧ s'.mem = s.mem ∧
          (s'.nq k).eps = del (s.nq k).eps ((s.blockWord c 0).toNat / 2 ^ 56 % 2 ^ 6)) ∧
      (c.fn / 2 ^ 9 % 16 = 0 → (s.nq k).running = [] → s.keepsBlock c = false → ∃ s',
        exec (.nwCmdStart k) s = .next s' ∧ s.NetDone s' c t 1 0 ∧ s'.mem = s.mem ∧ (s'.nq k).eps = (s.nq k).eps) ∧
      (c.fn / 2 ^ 9 % 16 = 3 → s.keepsBlock c = true → ∀ e p d, find (s.nq k).eps (s.request c).ep = some e →
        s.badRequest c (s.request c) (some e) = false → e.peers[(s.request c).peer]? = some p → s.portAt p.addr = some d →
        eng * 4 + e.port ∉ s.etherLost → d ∉ s.etherLost → (s.request c).len ≤ 1024 * 2 ^ e.pmtu →
        (s.request c).len ≤ (s.nq k).deficit → ∃ s' x,
          exec (.nwCmdStart k) s = .next s' ∧ s'.mem = s.mem ∧ s'.ether = s.ether ++ [x] ∧ x.src = eng * 4 + e.port ∧
            x.dst = d ∧ x.dstJob = p.job ∧ x.dstPid = p.pid ∧ x.psn = (e.pdc (s.request c).peer).psn ∧ x.rid = s.nextRid ∧
            x.service = .rud ∧ x.ctx = (if (e.pdc (s.request c).peer).id = 0 then s.nextRid + 1 else (e.pdc (s.request c).peer).id) ∧
            x.body = .data 3 0 (s.request c).roff 0 0 1 (s.request c).len false 0 (s.request c).len 0)) ∧
  (∀ (k n : Nat) (r : NRun) (t : Thread) (e : Endpoint) (s : State), s.thread r.cmd.uid = some t → t.wait = .idle →
    r.lc = false → (s.nq k).running = [r] → (s.nq k).jobs = [] → find (s.nq k).eps r.ep = some e →
      (∀ x cum above refused pi p, s.ether[n]? = some x → x.body = .ack (cum :: above) refused → r.op ≠ 3 → r.unsent = 0 →
        s.endpointAt (x.dst / 4) x.dstJob x.dstPid = some (k, r.ep, e) → e.peerFrom x = some (pi, p) → r.peer = pi →
        ((e.pdc pi).id = x.ctx → (∀ y ∈ r.out, y.psn < cum ∧ y.psn ∉ refused) →
          ∃ s', exec (.nwAckArrival n) s = .next s' ∧ s.NetDone s' r.cmd t 0 r.len ∧ (s'.nq k).running = [] ∧
            s'.ether = dropAt s.ether n ∧ s'.mem = s.mem) ∧
        (∀ y, (e.pdc pi).id = x.ctx → r.out = [y] → y.psn ∈ refused → above = [] →
          ∃ s', exec (.nwAckArrival n) s = .next s' ∧ s'.nq k = s.nq k ∧ s'.threads = s.threads ∧ s'.pulses = s.pulses ∧
            s'.ether = dropAt s.ether n ∧ s'.mem = s.mem) ∧
        ((e.pdc pi).id ≠ x.ctx → exec (.nwAckArrival n) s = .next { s with ether := dropAt s.ether n })) ∧
      (∀ x y v ga, s.ether[n]? = some x → x.body = .response 0 8 v → s.runOf (x.dst / 4) x.rid = some (k, r) →
        r.out = [y] → y.index = 0 → r.missing = 1 → r.laddr % 8 = 0 → r.laddr < 2 ^ 48 →
        s.place (r.cmd.key / 16) r.cmd.booth r.cmd.prv r.laddr true false = .ok (.window ga) → ∃ s',
          exec (.nwReadResponse n) s = .next s' ∧ s.NetDone s' r.cmd t 0 r.len ∧ (s'.nq k).running = [] ∧
            s'.mem = s.mem.write ga 8 (v % 2 ^ 64)) ∧
      (∀ x reason i, s.ether[n]? = some x → x.body = .refused reason i → s.runOf (x.dst / 4) x.rid = some (k, r) → ∃ s',
        exec (.nwRefusal n) s = .next s' ∧ s.NetDone s' r.cmd t 3 (reason * 2 ^ 32 + i) ∧ (s'.nq k).running = [] ∧
          s'.mem = s.mem) ∧
      (∀ x, r.out = [x] → x.sentAt + e.rto ≤ s.cycle →
        (e.retry ≤ x.tries → ∃ s', exec (.nwRtoExpiry k 0 x.index) s = .next s' ∧ s.NetDone s' r.cmd t 4 x.index ∧
          (s'.nq k).running = [] ∧ s'.ether = s.ether ∧ s'.mem = s.mem) ∧
        (∀ p d, x.tries < e.retry → r.op = 3 → e.peers[r.peer]? = some p → s.portAt p.addr = some d →
          k / 64 * 4 + e.port ∉ s.etherLost → d ∉ s.etherLost → ∃ s' y, exec (.nwRtoExpiry k 0 x.index) s = .next s' ∧
            s'.ether = s.ether ++ [y] ∧ y.psn = x.psn ∧ y.rid = r.rid ∧ y.dst = d ∧ s'.mem = s.mem ∧
            ((s'.nq k).running[0]?).map NRun.out = some [{ x with tries := x.tries + 1, sentAt := s.cycle }])) ∧
      (s.nqs = [(k, s.nq k)] → e.port < 4 → k / 64 * 4 + e.port ∉ s.etherLost → ∃ s',
        exec (.nwPortLoss (k / 64) e.port) s = .next s' ∧
          s.NetDone s' r.cmd t 4 ((r.out.head?.map NPkt.index).getD 0) ∧ (s'.nq k).running = [] ∧ s'.mem = s.mem)) ∧
  (∀ (eng port : Nat) (s : State), port < 4 → eng * 4 + port ∉ s.etherLost → (∀ e ∈ s.nqs, e.2.running = []) →
    exec (.nwPortLoss eng port) s = .next { s with
      etherLost := insert s.etherLost (eng * 4 + port)
      ether := s.ether.filter (fun (x : EPkt) => x.src != eng * 4 + port && x.dst != eng * 4 + port) }) ∧
  (∀ (n k ep pi off v : Nat) (x : EPkt) (e : Endpoint) (p : Peer) (s : State), s.ether[n]? = some x →
    x.body = .data 2 0 off 0 0 1 8 false 0 8 v → s.endpointAt (x.dst / 4) x.dstJob x.dstPid = some (k, ep, e) →
    e.peerFrom x = some (pi, p) → x.service = .rud →
      (∀ pg ga, (e.pdc pi).peerId < x.ctx ∨ (e.pdc pi).peerId = x.ctx ∧ (e.pdc pi).cum ≤ x.psn ∧ x.psn ∉ (e.pdc pi).above ∧
          find (e.pdc pi).refused x.psn = none → (s.nq k).jobs = [] → e.mw = true → off + 8 ≤ e.mlen →
        e.mbase + off < winBase → (e.mbase + off) % 8 = 0 → (s.nq k).win.outstanding < (s.nq k).win.window →
        s.place (engCore (x.dst / 4) + 16 * (x.dst % 4)) (k % 64) e.prv (e.mbase + off) true false = .ok (.home pg ga) →
        ∃ s' m, exec (.nwPacketArrival n) s = .next s' ∧ s'.mem = s.mem ∧ s'.ether = dropAt s.ether n ∧
          s'.net = s.net ++ [m] ∧ m.party = .net k ∧ m.dst = pg.home ∧ m.booth = k % 64 ∧ m.va = e.mbase + off ∧ m.ga = ga ∧
          m.posted = true ∧ m.body = .req (.store 8 (v % 2 ^ 64))) ∧
      ((e.pdc pi).peerId = x.ctx → find (e.pdc pi).refused x.psn = none → x.psn < (e.pdc pi).cum →
        ∃ s' e', exec (.nwPacketArrival n) s = .next s' ∧ s'.mem = s.mem ∧ s'.net = s.net ∧
          find (s'.nq k).eps ep = some e' ∧ e'.pdc pi = e.pdc pi ∧
          ∀ d, s.portAt p.addr = some d → x.dst / 4 * 4 + e.port ∉ s.etherLost → d ∉ s.etherLost →
            ∃ y, s'.ether = dropAt s.ether n ++ [y] ∧ y.dst = d ∧ y.ctx = x.ctx ∧
              y.body = .ack ((e.pdc pi).cum :: (e.pdc pi).above) ((e.pdc pi).refused.map Prod.fst)) ∧
      (∀ reason, (e.pdc pi).peerId = x.ctx → find (e.pdc pi).refused x.psn = some reason →
        ∃ s' y, exec (.nwPacketArrival n) s = .next s' ∧ s'.mem = s.mem ∧ s'.net = s.net ∧
          s'.ether = dropAt s.ether n ++ [y] ∧ y.dst = x.src ∧ y.rid = x.rid ∧ y.body = .refused reason 0) ∧
      (x.ctx < (e.pdc pi).peerId → exec (.nwPacketArrival n) s = .next { s with ether := dropAt s.ether n })) ∧
  (∀ (n op m off pos i np len rctr bytes v : Nat) (rc : Bool) (x : EPkt) (s : State), s.ether[n]? = some x →
    x.body = .data op m off pos i np len rc rctr bytes v →
    (∀ reason, s.endpointAt (x.dst / 4) x.dstJob x.dstPid = none ∧ reason = 1 ∨
        (∃ k ep e, s.endpointAt (x.dst / 4) x.dstJob x.dstPid = some (k, ep, e) ∧
          (e.peerFrom x = none ∧ reason = 1 ∨ e.peerFrom x ≠ none ∧ x.service ≠ .rud ∧ reason = 5)) →
      ∃ s' y, exec (.nwPacketArrival n) s = .next s' ∧
        s'.ether = dropAt s.ether n ++ [y] ∧ y.dst = x.src ∧ y.rid = x.rid ∧ y.body = .refused reason i ∧ s'.mem = s.mem)) ∧
  (∀ (k ep pi d : Nat) (e : Endpoint) (p : Peer) (s : State), find (s.nq k).eps ep = some e → ep < 64 → pi < 256 →
    e.peers[pi]? = some p → (e.pdc pi).unacked ≠ 0 → (e.pdc pi).since + 512 ≤ s.cycle → s.portAt p.addr = some d →
    k / 64 * 4 + e.port ∉ s.etherLost → d ∉ s.etherLost → ∃ s' y e', exec (.nwAckTimer k (ep * 256 + pi)) s = .next s' ∧
      s'.ether = s.ether ++ [y] ∧ y.dst = d ∧ y.ctx = (e.pdc pi).peerId ∧
      y.body = .ack ((e.pdc pi).cum :: (e.pdc pi).above) ((e.pdc pi).refused.map Prod.fst) ∧ s'.mem = s.mem ∧
      find (s'.nq k).eps ep = some e' ∧ e'.pdc pi = { e.pdc pi with unacked := 0 }) ∧
  (∀ (k i c : Nat) (cs : List Nat) (s : State), 16384 ≤ i → (s.nq k).due = c :: cs → rising (s.nq k).ctrs = true →
    getD (s.nq k).ctrs c 0 < 2 ^ 48 - 1 → (∀ e ∈ s.threads, ∀ h v, e.2.wait ≠ .counter h v) → ∃ s', exec (.nwAckTimer k i) s = .next s' ∧ (s'.nq k).due = cs ∧ s'.mem = s.mem ∧
      getD (s'.nq k).ctrs c 0 = getD (s.nq k).ctrs c 0 + 1)

/-! ### Arrivals, slots and launches -/

/-- R36, R298, R306, R308: a channel message enters its queue of eight and its sender is answered, waits behind a full queue or an
earlier sender, and is refused where nothing is bound, the core is not the booth's, or the sender runs for another tenant; a migrated
context enters its slot when it is free, with v and k undefined, the shadow bank of an occupied one, or the core's two places, and
waits in the fabric without one. R29, R103, R298, R306, R317: a FREE slot takes its first source: a migrated or saved context goes on
where it stood; a packet or a channel's message becomes a thread: in task mode, with the entry as PC, its four words in g1 to g4 and
every other general register 0. The undefined registers are free values (log entries 3 and 29); that a message is refused where its sender
runs for another tenant than the channel's is the model's choice (log entry 65). -/
def Obligations.ArrivalsAndSlotFills : Prop :=
  (∀ (n k : Nat) (ws : List Word) (s : State) (m : Msg), s.arrived n = some m → m.body = .chan k ws →
    let c := s.chan m.dst m.booth k
    let enters : Prop := c.bound = true ∧ s.inRegion m.booth m.dst = true ∧
      ∃ t, s.thread m.uid = some t ∧ t.tenant = s.chanTenant m.dst m.booth
    (enters → c.queue.length < 8 → c.senders = [] →
      ∃ s', exec (.channelMessageArrival n) s = .next s' ∧ s'.net = (s.answered n m (.reply ⟨none, none, none, 0, 0⟩)).net ∧
        s'.chan m.dst m.booth k = { c with queue := c.queue ++ [ws] } ∧ s'.mem = s.mem ∧ s'.threads = s.threads) ∧
    (enters → (8 ≤ c.queue.length ∨ c.senders ≠ []) →
      ∃ s', exec (.channelMessageArrival n) s = .next s' ∧ s'.net = dropAt s.net n ∧
        s'.chan m.dst m.booth k = { c with senders := c.senders ++ [m] } ∧ s'.mem = s.mem ∧ s'.threads = s.threads) ∧
    (¬ enters → exec (.channelMessageArrival n) s = .next (s.answered n m (.trapReply 0x15 (m.va % 2 ^ 48))))) ∧
  (∀ (n : Nat) (s : State) (m : Msg) (t : Thread), s.arrived n = some m → m.body = .context → s.thread m.uid = some t →
    t.pendTrap = none → (∀ h ∈ s.handovers, ∀ e ∈ h.2.slots, e.1 ≠ t.key) →
      let x := s.slot t.key
      let c := s.core (t.key / 16)
      (x.phase = .free → x.shadow = .empty → s.queuedFor t.key = false → t.tenant = s.slotTenant t.booth t.key →
        s.slotBooth t.key = some t.booth →
        ∃ s', exec (.migrationArrival n) s = .next s' ∧ s'.net = dropAt s.net n ∧ s'.mem = s.mem ∧
          s'.thread m.uid = some { t.woken s.cycle with place := .slot, preempted := false } ∧
          (s'.slot t.key).phase = .live ∧ (s'.slot t.key).run = some m.uid ∧ (s'.slot t.key).regs.scratch = x.regs.scratch ∧
          (s'.slot t.key).regs.tval = x.regs.tval ∧
          (∀ (i : Fin 8) (j : Fin 16), (s'.slot t.key).regs.v[i][j] =
            (s.undef t.booth t.tenant (i.val * 16 + j.val)).setWidth 32) ∧
          (∀ i : Fin 4, (s'.slot t.key).regs.k[i] = (s.undef t.booth t.tenant (128 + i.val)).setWidth 16) ∧
          s'.fresh = (s.drawn t.booth t.tenant).fresh) ∧
      (x.phase = .live → x.shadow = .empty → s.queuedFor t.key = false → ∃ s', exec (.migrationArrival n) s = .next s' ∧
        s'.net = dropAt s.net n ∧ s'.slot t.key = { x with shadow := .arrival ⟨m.uid, x.regs, false⟩ } ∧
        s'.thread m.uid = some { t with place := .shadow } ∧ s'.mem = s.mem) ∧
      (x.phase = .live → x.shadow ≠ .empty → s.arrivalsOf (t.key / 16) t.booth < 2 →
        ∃ s', exec (.migrationArrival n) s = .next s' ∧ s'.net = dropAt s.net n ∧ s'.slots = s.slots ∧
          (s'.core (t.key / 16)).arrivals = c.arrivals ++ [⟨m.uid, x.regs, false⟩] ∧
          s'.thread m.uid = some { t with place := .arrival } ∧ s'.mem = s.mem) ∧
      (x.phase = .live → x.shadow ≠ .empty → 2 ≤ s.arrivalsOf (t.key / 16) t.booth →
        exec (.migrationArrival n) s = .refused (.notEnabled "MIGRATION_ARRIVAL"))) ∧
  (∀ (key b : Nat) (s : State), (s.slot key).phase = .free → (s.core (key / 16)).lost = false →
    (∀ p ∈ s.preempts, p.key ≠ key) → s.slotBooth key = some b → (s.boothPkg (pkgOf (key / 16)) b).frozen = false →
      let started (s' : State) (entry : Nat) (ws : List Word) (j : Job) : Prop :=
        ∃ t, s'.thread s.nextUid = some t ∧ (s'.slot key).run = some s.nextUid ∧ (s'.slot key).phase = .live ∧
          t.place = .slot ∧ t.key = key ∧ t.booth = b ∧ t.job = j ∧ t.wait = .idle ∧ t.tenant = s.slotTenant b key ∧
          t.ctx.pc = BitVec.ofNat 48 entry ∧ t.ctx.prv = false ∧ t.ctx.th = false ∧ t.ctx.it = 0 ∧ t.ctx.tbm = 0 ∧
          ∀ i : Fin 16, t.ctx.g[i] = if 1 ≤ i.val ∧ i.val ≤ 4 then ws.getD (i.val - 1) 0 else 0
      (∀ u t, s.sourceFor b key = some (.migrated u) → s.thread u = some t → t.pendTrap = none →
        ∃ s', exec (.slotFill key) s = .next s' ∧
          s'.thread u = some { t.woken s.cycle with place := .slot, key := key, preempted := false } ∧
          (s'.slot key).run = some u ∧ (s'.slot key).phase = .live ∧ s'.mem = s.mem) ∧
      (∀ l u im t, s.sourceFor b key = some (.saved l u) →
        (getD s.images l []).find? (fun i => i.saved.uid == u) = some im → im.bank = none → s.thread u = some t →
        t.pendTrap = none → (∀ m, t.wait ≠ .migrating m) → ∃ s', exec (.slotFill key) s = .next s' ∧
          s'.thread u = some { t with place := .slot, key := key, preempted := false } ∧
          (s'.slot key).run = some u ∧ (s'.slot key).phase = .live ∧ (s'.slot key).regs.v = im.saved.regs.v ∧
          getD s'.images l [] = (getD s.images l []).filter (fun i => i.saved.uid != u) ∧ s'.mem = s.mem) ∧
      (∀ p l, s.sourceFor b key = some (.packet p) → find s.launches p.launch = some l →
        ∃ s' l', exec (.slotFill key) s = .next s' ∧
          started s' p.entry p.args ⟨some p.launch, p.index, l.prio, l.deadline, p.coord, key / 16⟩ ∧
          find s'.launches p.launch = some l' ∧ l'.live = l.live + 1 ∧ s'.mem = s.mem) ∧
      (∀ n, s.sourceFor b key = some (.message n) → (s.chan (key / 16) b n).senders = [] →
        ∃ s', exec (.slotFill key) s = .next s' ∧
          started s' (s.chan (key / 16) b n).entry ((s.chan (key / 16) b n).queue.headD []) { Job.none with home := key / 16 } ∧
          (s'.chan (key / 16) b n).queue = (s.chan (key / 16) b n).queue.tail ∧ s'.mem = s.mem))

/-- R296, R309, R315 to R318: a launch all of whose packets have started or are skipped, with no thread, command or posted access left,
completes: the words of its record under its page's key, word 0 full. A passed deadline skips what has not started. A pre-emption
commits a packet to the slot of a thread of lower priority; the swap moves that thread to the shadow bank and starts the packet, and a
thread that yields leaves to what waits or goes on; the spill makes an image of a displaced context, 1,024 bytes of the spill area
where one is reserved. Which priority asks and when a swap saves (log entries 26 and 27), the bytes of an image (log entry 64) and how the
other bytes of a record's block read under its key (log entries 47 and 62) are the model's choice. -/
def Obligations.LaunchEndsAndPreemption : Prop :=
  (∀ (h : Nat) (l : Launch) (s : State), find s.launches h = some l → s.unstarted h l = 0 → l.live = 0 →
    s.commandsOf h l.torn = false → s.straysFly l = false → s.feWait = [] →
      ∃ s', exec (.launchComplete h) s = .next s' ∧ s'.launches = del s.launches h ∧ s'.threads = s.threads ∧
        ∀ q, s.dispPage l.pkg l.booth l.compl 64 l.sup true true = some q → (q.base + (l.compl - q.va)) % 8 = 0 →
          l.rop = 0 → l.ndone < 2 ^ 48 → l.nskip < 2 ^ 48 → l.nfault < 2 ^ 48 → l.seq < 2 ^ 64 →
          (∀ x, l.lowit = some x → x < 2 ^ 63) → (∀ f, l.first = some f → f.1 < 2 ^ 8 ∧ f.2.1 < 2 ^ 56 ∧ f.2.2 < 2 ^ 48) →
            let ga := q.base + (l.compl - q.va)
            let u := s.mem.under ga (s.keyId l.pkg q.key) true
            let f := l.first.getD (0, 0, 0)
            let status := if l.torn then 3 else if l.nfault ≠ 0 then 2 else if l.past s.cycle then 1 else 0
            s'.mem.read ga 8 = status * 2 ^ 60 + l.ndone ∧ s'.mem.read (ga + 8) 8 = l.seq ∧
            s'.mem.read (ga + 16) 8 = (l.lowit.map (fun x => 2 ^ 63 + x)).getD 0 ∧ s'.mem.read (ga + 24) 8 = 0 ∧
            s'.mem.read (ga + 32) 8 = l.nskip ∧ s'.mem.read (ga + 40) 8 = l.nfault ∧
            s'.mem.read (ga + 48) 8 = f.1 * 2 ^ 56 + f.2.1 ∧ s'.mem.read (ga + 56) 8 = f.2.2 ∧ s'.mem.isFull ga = true ∧
            ∀ a, a < ga ∨ ga + 64 ≤ a → s'.mem.byte a = u.byte a) ∧
  (∀ (h c : Nat) (l : Launch) (s : State), find s.launches h = some l → l.deadline = some c → c ≤ s.cycle →
    l.expired = false → ∃ s' l', exec (.deadlineExpiry h) s = .next s' ∧ find s'.launches h = some l' ∧ l'.expired = true ∧
      l'.nskip = l.nskip + s.unstarted h l ∧ l'.live = l.live ∧ s'.threads = s.threads ∧ s'.mem = s.mem ∧
      ∀ p ∈ s'.spawnQ, p.launch ≠ h) ∧
  (∀ (cid booth prio : Nat) (p : Packet) (key : Nat) (l : Launch) (r : Nat × Nat × Nat × Nat) (s : State),
    s.waitingPrio booth = some prio → s.packetOn cid booth prio = some p → find s.launches p.launch = some l →
    (∀ i < 16, (s.slot (cid * 16 + i)).phase ≠ .free) → s.imagesTaken cid booth < 64 →
    (s.boothPkg (pkgOf cid) booth).frozen = false → s.victim cid booth prio p = some (key, r) →
      ∃ s' l' u t, exec (.preemptRequest cid booth) s = .next s' ∧ s'.preempts = s.preempts ++ [⟨key, p⟩] ∧
        s'.threads = s.threads ∧ s'.slots = s.slots ∧ s'.mem = s.mem ∧ find s'.launches p.launch = some l' ∧
        l'.live = l.live + 1 ∧ key / 16 = cid ∧ (s.slot key).run = some u ∧ s.thread u = some t ∧ prio < t.job.prio) ∧
  (∀ (key b u : Nat) (t : Thread) (s : State), s.slotBooth key = some b → (s.boothPkg (pkgOf (key / 16)) b).frozen = false →
    (s.slot key).phase = .live → (s.slot key).run = some u → s.thread u = some t → u ≠ s.nextUid →
      let runs (s' : State) (p : Packet) (l : Launch) : Prop := ∃ t', (s'.slot key).phase = .live ∧
        (s'.slot key).run = some s.nextUid ∧ s'.thread s.nextUid = some t' ∧ t'.ctx.pc = BitVec.ofNat 48 p.entry ∧
        t'.job = ⟨some p.launch, p.index, l.prio, l.deadline, p.coord, key / 16⟩ ∧ t'.booth = b ∧ t'.key = key
      let unstreamed : Prop := ∀ i : Fin 4, (s.slot key).regs.streams[i] = none
      (∀ p l, s.preempts = [⟨key, p⟩] → find s.launches p.launch = some l → l.prio < t.job.prio →
        (s.slot key).shadow = .empty → unstreamed → ∃ s', exec (.preemptSwap key) s = .next s' ∧ s'.preempts = [] ∧
          s'.mem = s.mem ∧ s'.thread u = some { t.abandon with place := .shadow, preempted := true } ∧
          (s'.slot key).shadow = .spill ⟨u, (s.slot key).regs.unwrittenNone, false⟩ ∧ runs s' p l) ∧
      (s.preempts = [] → t.wait = .yielding → t.Plain → s.sourceFor b key = none → ∃ s',
        exec (.preemptSwap key) s = .next s' ∧ s'.slots = s.slots ∧ s'.mem = s.mem ∧
        s'.thread u = some { t.woken s.cycle with aRan := false }) ∧
      (∀ p l, s.preempts = [] → t.wait = .yielding → t.Plain → s.sourceFor b key = some (.packet p) →
        find s.launches p.launch = some l → (s.slot key).shadow = .empty → unstreamed → ∃ s',
        exec (.preemptSwap key) s = .next s' ∧ s'.mem = s.mem ∧
        s'.thread u = some { t.woken s.cycle with aRan := false, place := .shadow, preempted := true } ∧
        (s'.slot key).shadow = .spill ⟨u, (s.slot key).regs.unwrittenNone, true⟩ ∧ runs s' p l)) ∧
  (∀ (key : Nat) (c : Saved) (t : Thread) (s : State), (s.slot key).shadow = .spill c → s.thread c.uid = some t →
    t.sfuPend = 0 → let n := key / 16 * 64 + t.booth
      let place := freePlace (getD s.images n [])
      ∃ s', exec (.spillComplete key) s = .next s' ∧ s'.slot key = { s.slot key with shadow := .empty } ∧
        s'.thread c.uid = some { t with place := .image, preempted := true } ∧
        getD s'.images n [] = getD s.images n [] ++ [⟨key, s.cycle, place, c, none⟩] ∧
        (find s.spillAreas n = none → s'.mem = s.mem) ∧
        ∀ a, find s.spillAreas n = some a → a % 512 = 0 → place < 64 →
          s'.mem.read (a + 1024 * place) 1024 = joinWords (imageWords t c.regs (s.undef t.booth t.tenant)) % 2 ^ 8192 ∧
          ∀ x, x < a + 1024 * place ∨ a + 1024 * place + 1024 ≤ x → s'.mem.byte x = s.mem.byte x)

/-! ### Handover, failures and resets -/

/-- R319 to R327, R359: SAVE of a slot in its turn holds it in HANDOVER, its contexts in the save area, or only copies it between a gang
tick and its deadline; SCRUB leaves every slot-owned register, byte, word and tag of it clear, and with the core's last slot the
booth's translations; LOAD without a save area leaves it FREE; the store's turn leaves its entries +0, and with the last one the
receipt is assembled and the booth belongs to the incoming tenant; released pages are cleared under the incoming key; a receipt is
written once, with its two signatures, 3,188 bytes in all; a gang tick stops the slots, and a missed deadline lets them go on, or after the third sends the
booth to its reset, and a met one takes the contexts. The times of the ticks and the place of the receipt are the model's choice (log
entries 5, 33, 66 and 67). -/
def Obligations.HandoverSteps : Prop :=
  (∀ (n key : Nat) (h : Handover) (s : State), find s.handovers n = some h →
    (h.phaseOf key = some .todo → s.saveWaits key = false → (s.boothPkg h.pkg h.booth).frozen = false →
      (h.gang = false → h.turnOf key = true → (∀ e ∈ s.areas, some e.2.uid ≠ (s.slot key).run) → ∃ s' h', exec (.handoverSave n key) s = .next s' ∧
        find s'.handovers n = some h' ∧ h'.slots = setPhase h.slots key .saved ∧ (s'.slot key).phase = .handover ∧
        (s'.slot key).run = none ∧ (s'.slot key).shadow = .empty ∧
        ∀ u t, (s.slot key).run = some u → s.thread u = some t → ∃ t', s'.thread u = some t' ∧ t'.place = .area) ∧
      (h.gang = true → h.agreed = false → h.tick ≠ none → ∃ s', exec (.handoverSave n key) s = .next s' ∧
        find s'.handovers n = some { h with slots := setPhase h.slots key .saved } ∧ s'.threads = s.threads ∧
        (s'.slot key).phase = (s.slot key).phase ∧ (s'.slot key).run = (s.slot key).run)) ∧
    (h.phaseOf key = some .saved → (h.gang = false ∨ h.agreed = true) → h.turnOf key = true → s.cmdsFrom key false = false →
      ∃ s' h', exec (.handoverScrub n key) s = .next s' ∧ find s'.handovers n = some h' ∧
        h'.slots = setPhase h.slots key .scrubbed ∧
        (s'.slot key).regs = SlotRegs.zero ∧ (s'.slot key).shadow = .empty ∧ (s'.slot key).crCnt = 0 ∧
        (s'.slot key).crTerm = 0 ∧ (s'.slot key).opb = [] ∧
        (∀ i < 8192, s'.mem.byte (spad (key / 16) (8192 * (key % 16) + i)) = 0) ∧
        (∀ i < 1024, s'.mem.isFull (spad (key / 16) (8192 * (key % 16) + 8 * i)) = false) ∧
        (∀ e ∈ (s'.core (key / 16)).tags, e.1 / 16 ≠ key % 16) ∧
        ((∀ e ∈ h.slots, e.1 / 16 = key / 16 → e.1 ≤ key) → ∀ e ∈ (s'.core (key / 16)).tlb, e.1 ≠ h.booth)) ∧
    (h.phaseOf key = some .saved → s.cmdsFrom key false = true →
      exec (.handoverScrub n key) s = .refused (.notEnabled "HANDOVER_SCRUB")) ∧
    (h.phaseOf key = some .scrubbed → h.saveIn = 0 → (∀ e ∈ s.threads, e.2.key = key → e.2.place = .area ∨
        (∀ v, e.2.wait ≠ .crier v) ∧ ∀ c v, e.2.wait ≠ .counter c v) → ∃ s', exec (.handoverLoad n key) s = .next s' ∧
      (s'.slot key).phase = .free ∧ s'.mem = s.mem ∧
      (h.receipt = false → find s'.handovers n = some { h with slots := setPhase h.slots key .loaded }) ∧
      ∀ reg, h.receipt = true → (∀ e ∈ h.slots, e.1 = key ∨ e.2 = .loaded) → (∀ e ∈ h.stores, e.2 = .loaded) →
        (∀ m ∈ s.net, m.body ≠ .context) → s.region h.pkg h.booth = some reg →
        find s'.handovers n = none ∧ s'.region h.pkg h.booth = some { reg with tenant := h.inT, key := h.inKey }) ∧
    (∀ sk, (h.stores.find? (fun e => e.1 == sk)).map Prod.snd = some .todo → (∀ e ∈ h.slots, e.2 = .loaded) →
      h.saveIn = 0 → s.storeBusy (sk / 4) (sk % 4) = false →
      ∃ s', exec (.storeHandover n sk) s = .next s' ∧ (∀ e < 2048, s'.entry (sk / 4) (sk % 4) e = 0) ∧
        ∀ reg, (∀ e ∈ h.stores, e.1 = sk ∨ e.2 = .loaded) → h.cleared = true → h.receipt = false →
          (∀ m ∈ s.net, m.body ≠ .context) → s.region h.pkg h.booth = some reg →
          find s'.handovers n = none ∧ s'.region h.pkg h.booth = some { reg with tenant := h.inT, key := h.inKey } ∧
          (s'.pkg h.pkg).rseq = (s.pkg h.pkg).rseq + 1 ∧
          ∃ r, s'.receipts = s.receipts ++ [r] ∧ r.pkg = h.pkg ∧ r.kind = 0 ∧
            r.booth = h.booth ∧ r.outT = h.outT ∧ r.inT = h.inT ∧ r.nonce = h.nonce ∧ r.cores = h.cores ∧
            r.rseq = (s.pkg h.pkg).rseq ∧ r.nacc = 2048 * h.stores.length ∧ r.nslot = h.slots.length ∧ r.written = false) ∧
    (∀ a k, h.pages = [(a, k)] → h.cleared = false → (∃ e ∈ h.slots, e.2 = .todo ∨ e.2 = .saved) → s.feWait = [] →
      a % 512 = 0 → k % 512 = 0 →
      ∃ s' h', exec (.pageClear n) s = .next s' ∧ find s'.handovers n = some h' ∧ h'.cleared = true ∧ h'.nblk = k / 512 ∧
        (∀ i < k, s'.mem.byte (a + i) = 0 ∧ s'.mem.isFull (a + i) = false) ∧
        (0 < k → a < 2 ^ 64 → find s'.mem.keys a = some (s.keyId h.pkg h.inKey))) ∧
    (s.handovers = [(n, h)] → h.gang = true → h.agreed = false →
      (h.tick = none →
        let g := getD s.gangs (h.pkg * 64 + h.booth) Gang.init
        let due := match g.next with
          | none => (h.last / g.gtick + 1) * g.gtick
          | some (t, _, c) => if h.last < (c / g.gtick + 1) * g.gtick then (h.last / g.gtick + 1) * g.gtick else (h.last / t + 1) * t
        (s.cycle < due → exec (.gangTick n) s = .refused (.notEnabled "GANG_TICK")) ∧
        (due ≤ s.cycle → ∃ s', exec (.gangTick n) s = .next s' ∧
          find s'.handovers n = some { h with tick := some (s.cycle + (s.gang h.pkg h.booth).gdl), last := s.cycle } ∧
          (∀ e ∈ h.slots, (s'.slot e.1).phase = .handover) ∧ s'.mem = s.mem ∧ s'.threads = s.threads)) ∧
      (∀ c, h.tick = some c → c ≤ s.cycle → s.areas = [] →
        ((∃ e ∈ h.slots, e.2 ≠ .saved) → ∃ s', exec (.gangDeadline n) s = .next s' ∧
          find s'.handovers n = some { h with
            slots := h.slots.map (fun e => (e.1, HPhase.todo)), tick := none, misses := h.misses + 1, places := [] } ∧
          (∀ e ∈ h.slots, (s'.slot e.1).phase = if (s.slot e.1).run.isSome then .live else .free) ∧ s'.mem = s.mem ∧
          (2 ≤ h.misses → (s'.boothPkg h.pkg h.booth).reset = true) ∧
          (h.misses < 2 → s'.boothPkgs = s.boothPkgs)) ∧
        ((∀ e ∈ h.slots, e.2 = .saved) → ∃ s' h', exec (.gangDeadline n) s = .next s' ∧ find s'.handovers n = some h' ∧
          h'.agreed = true ∧ h'.tick = none ∧ h'.slots = h.slots ∧ ∀ e ∈ h.slots, (s'.slot e.1).run = none)))) ∧
  (∀ (n : Nat) (r : Receipt) (s : State), s.receipts[n]? = some r → r.written = false →
    let b := r.body.flatMap (fun w => bytesOf 8 w.toNat)
    let bytes := b ++ ((Config.ecdsaSigns r.pkg b).toList ++ (Config.hssSigns r.pkg b).toList)
    let s1 := { s with receipts := setAt s.receipts n { r with written := true, bytes := bytes } }
    let sends := (getD (s.pkg r.pkg).owners r.booth (0, 0)).1.getLsbD 63
    bytes.length = 3188 ∧
    (sends = false → exec (.receiptWrite n) s = .next s1) ∧
    (sends = true → ∃ s' m, exec (.receiptWrite n) s = .next s' ∧ s'.receipts = s1.receipts ∧ s'.net = s.net ++ [m] ∧
      m.booth = r.booth ∧ (∃ w, m.body = .irq [w, 0, BitVec.ofNat 64 r.rseq, 0]) ∧ s'.mem = s.mem))

/-- R328 to R333, R343, R356, R395: an uncorrectable error, the loss of a core, engine or link and a hang freeze the booth for its
reset; a reset discards its threads and messages, scrubs with a receipt of kind 1, and lets it go on; replay takes the oldest command
of the list; a fence reached by everything before it becomes the booth's last replay fence; a resize takes effect at its fence. The
order inside a reset is the model's choice (log entry 34). -/
def Obligations.FailuresAndResets : Prop :=
  (∀ (p booth : Nat) (r : Region) (s : State), s.regions = [(p * 64 + booth, r)] → booth < 64 →
    let b := s.boothPkg p booth
    let frozen := s.setBoothPkg p booth { b with frozen := true, reset := true }
    exec (.uncorrectableError booth none) s = .next frozen ∧
    (∀ a q, s.maps = [(p * 64 + booth, [q])] → q.base ≤ a → a < q.base + q.size → a < 2 ^ 64 → a / 2 ^ 52 = p →
      a % 512 = 0 → ∃ s', exec (.uncorrectableError booth (some a)) s = .next s' ∧
        s'.boothPkg p booth = { b with frozen := true, reset := true, lost := b.lost ++ [a] } ∧ s'.mem = s.mem) ∧
    (∀ k u, s.losable k u = true → ∃ s', exec (.unitLoss k u) s = .next s' ∧ s'.mem = s.mem ∧ s'.threads = s.threads ∧
      (u = .core → (s'.core k).lost = true) ∧
      (booth ∈ s.served k u ∨ (∃ m ∈ s.net, m.booth = booth ∧
          (m.done = 0 ∧ m.que ∈ s.lostFeeds k u ∨ ∃ l ∈ s.lostFeeds k u, s.midPath m l = true)) →
        (s'.boothPkg p booth).frozen = true ∧ (s'.boothPkg p booth).reset = true)) ∧
    (∀ key x u t, s.slots = [(key, x)] → s.slotBooth key = some booth → x.run = some u → s.thread u = some t →
      t.wait ≠ .idle → (∀ c ∈ r.cores, (s.bc c booth).last + 2 ^ 26 ≤ s.cycle) → exec (.hangDetect booth) s = .next frozen) ∧
    (b.reset = true → b.exhausted = false → b.lost = [] → s.handovers = [] → (∀ c ∈ r.cores, (s.core c).lost = false) →
      ∃ s' q, exec (.boothReset booth) s = .next s' ∧ s'.receipts = s.receipts ++ [q] ∧ q.kind = 1 ∧ q.booth = booth ∧
        q.outT = r.tenant ∧ q.inT = r.tenant ∧ q.cores = r.cores ∧ (s'.boothPkg p booth).frozen = false ∧
        (s'.boothPkg p booth).reset = false ∧
        (∀ u t, s'.thread u = some t → t.booth = booth → t.place = .area) ∧
        (∀ m ∈ s'.net, m.booth = booth →
          (∃ ws, m.body = .irq ws) ∨ (∃ a, m.party = .host a) ∨ ∃ t, s.thread m.uid = some t ∧ t.place = .area) ∧
        ∀ e ∈ s'.launches, e.2.booth ≠ booth) ∧
    (∀ seq rest e, b.toReplay = seq :: rest → b.frozen = false → find (s.pkg p).journal seq = some e →
      (dw e.cmd 0).toNat / 2 ^ 56 = 2 → ∃ s' e', exec (.replay booth) s = .next s' ∧
        (s'.boothPkg p booth).toReplay = rest ∧ find (s'.pkg p).journal seq = some e' ∧ e'.state = 0 ∧
        e'.rpl = e.rpl + 1 ∧ s'.mem = s.mem) ∧
    (∀ seq reg, b.resize = some (seq, reg) → b.exhausted = false → s.fenceReady p booth seq = true → s.preempts = [] →
      s.departWaits (s.departing p booth reg) = false →
      ∃ s', exec (.resize p booth) s = .next s' ∧ s'.region p booth = some reg ∧ (s'.boothPkg p booth).resize = none ∧
        (s'.boothPkg p booth).lastFence = max b.lastFence seq ∧
        ∀ c ∈ reg.cores, ∀ g : Fin 4, fld reg.groups g g = 1 → (s'.core c).owners[g] = some booth)) ∧
  (∀ (p seq : Nat) (e : JEntry) (s : State), find (s.pkg p).journal seq = some e → e.fence = true → e.state = 3 →
    s.fenceReady p e.booth seq = true → ∃ s', exec (.replayFenceMark p seq) s = .next s' ∧
      (s'.boothPkg p e.booth).lastFence = max (s.boothPkg p e.booth).lastFence seq ∧ s'.mem = s.mem ∧
      ((s.pkg p).late = [] → ∃ e', find (s'.pkg p).journal seq = some e' ∧ e'.state = 4))

/-! ### The fabric -/

/-- R340 to R347: a message passes one switch at a time into an output queue there, and is marked where that queue is more than three
quarters full; two `amo.add` runs of one booth, address, size and class join in a queue, their members in order; a combined reply
becomes, for each member that waits, a reply with the old value and the operands before it added; a message that ends with an abort
tail is discarded 1,024 cycles after its header passed. How ports are numbered is the model's choice (log entry 41). -/
def Obligations.SwitchesAndCombining : Prop :=
  (∀ (que chan k n sw q : Nat) (s : State) (m : Msg), waitingAt que chan s.net k = some n → s.net[n]? = some m → (s.route m.src m.dst)[m.done]? = some sw → m.left ≠ 0 →
    m.cut = false → ((m.done = 0 ∨ m.chan = 0) → s.behind n m = false) → s.mayLeave m sw = true → s.shared m = true →
    s.inputRoom m.que m.chan m.flits = true →
    (s.tableUsed m sw (s.route m.src m.dst)[m.done + 1]?).outQueue m sw (s.route m.src m.dst)[m.done + 1]? = some q →
      let marked := m.mark || decide (3 * s.queueFlits < 4 * s.flitsOf (fun x => x.que == q) m.chan)
      ((∀ o w ms, m.body ≠ .req (.amo o w ms)) → ∃ s', exec (.switchForward que chan k) s = .next s' ∧
        s'.net = dropAt s.net n ++ [{ m with
          done := m.done + 1, left := m.left - 1, que := q, inp := m.que, since := s.cycle, mark := marked }] ∧
        s'.mem = s.mem ∧ s'.threads = s.threads) ∧
      (∀ w x y j, n = 1 → s.net = [j, m] → j.body = .req (.amo .add w [x]) → m.body = .req (.amo .add w [y]) →
        j.que = q → j.booth = m.booth → j.va = m.va → j.chan = m.chan → j.dst = m.dst → j.cut = false →
        let y' := { y with port := s.inputPort m.src m.dst m.unit m.done }
        ∃ s', exec (.switchForward que chan k) s = .next s' ∧ s'.mem = s.mem ∧ s'.net = [{ j with
          body := .req (.amo .add w (if x.port ≤ y'.port then [x, y'] else [y', x])), mark := j.mark || marked }])) ∧
  (∀ (k old : Nat) (x y : Member) (s : State) (m : Msg), s.net = [m] → m.body = .combReply k [x, y] old → m.done ≠ 0 →
    m.cut = false → x.posted = false → y.posted = false → ∃ s' a b, exec (.combinedReplySplit 0) s = .next s' ∧
      s'.net = [a, b] ∧ a.dst = x.src ∧ a.mid = x.mid ∧ a.uid = x.uid ∧ a.d = x.d ∧ b.dst = y.src ∧ b.mid = y.mid ∧
      b.uid = y.uid ∧ b.d = y.d ∧ a.body = valueReply (BitVec.ofNat 64 (old % 2 ^ (8 * k))) ∧
      b.body = valueReply (BitVec.ofNat 64 ((old + x.operand) % 2 ^ (8 * k))) ∧ s'.mem = s.mem) ∧
  (∀ (n : Nat) (s : State) (m : Msg), s.net[n]? = some m →
    (m.cut = true → m.since + 1024 ≤ s.cycle → exec (.abortTail n) s = .next { s with net := dropAt s.net n }) ∧
    (m.cut = false ∨ s.cycle < m.since + 1024 → exec (.abortTail n) s = .refused (.notEnabled "ABORT_TAIL")))

/-- R348 to R352, R395, R396, R400: a link trains up with the lanes that work, four and a spare at first; a lane that fails pauses it until
it has retrained onto the spare, which is a repair, and with the spare used leaves it degraded, or retired with fewer than two; flits in
error are only counted; the entries of a route table that name a lost up-port go to the next live one, and hold their ordered messages
until the last drain report on them comes. The grants that come with training (log entries 42 and 70) and that the entry of a lane's
repair is a device event of booth 0 (log entry 68) are the model's choice. -/
def Obligations.LinksOfThePackageSwitch : Prop :=
  (∀ (p port : Nat) (s : State), port < 36 →
    let x := s.port p port
    (∀ l : Learnt, s.powered p = true → x.state < 2 → x.paused = false →
      (∀ e ∈ l.levels, 4 ≤ e.2 ∧ e.1 < 8192) → (∀ g ∈ l.grants, g.1 < 4096 ∧ g.2 < 48) →
      let works := ((List.range 4).filter (fun i => !s.bad (.lane p port i))).length +
        (if s.laneSpared p port && !s.bad (.lane p port 4) then 1 else 0)
      (works < 2 → exec (.linkTrained p port l) s = .refused (.notEnabled "LINK_TRAINED")) ∧
      (2 ≤ works → ∃ s' y, exec (.linkTrained p port l) s = .next s' ∧ s'.port p port = y ∧
        y = { x with state := if works < 4 then 3 else 2, lanes := y.lanes, spare := s.laneSpared p port } ∧
        y.lanes < 32 ∧ (∀ i < 5, y.lanes.testBit i = !s.bad (.lane p port i)) ∧
        (∀ e, l.levels = [e] → getD (s'.pkg p).levels e.1 0 = e.2) ∧ (∀ g ∈ l.grants, g.1 * 64 + g.2 ∈ s'.grants) ∧
        s'.net = s.net ∧ s'.mem = s.mem)) ∧
    (x.state = 2 → x.paused = false → x.lanes = 31 → x.spare = false →
      (∀ lane < 4, ∃ s', exec (.laneFailure p port lane) s = .next s' ∧
        s'.port p port = { x with state := 1, paused := true, lanes := 31 - 2 ^ lane } ∧ s'.net = s.net ∧ s'.mem = s.mem ∧
        s'.defects = s.defects ++ [.lane p port lane]) ∧
      ∃ s', exec (.laneFailure p port 4) s = .next s' ∧ s'.port p port = { x with lanes := 15 } ∧ s'.net = s.net) ∧
    (x.paused = true → x.spare = false → x.lanes = 30 → ∃ s', exec (.laneFailure p port 1) s = .next s' ∧
      s'.port p port = { x with state := 1, lanes := 28 } ∧ s'.net = s.net) ∧
    (x.state = 2 → x.paused = false → x.spare = false → x.lanes = 15 → ∀ lane < 4, ∃ s',
      exec (.laneFailure p port lane) s = .next s' ∧
      s'.port p port = { x with state := 3, lanes := 15 - 2 ^ lane } ∧ s'.net = s.net) ∧
    (p < 4096 → x.state = 3 → x.spare = false → x.lanes = 3 → ∀ lane < 2, ∃ s', exec (.laneFailure p port lane) s = .next s' ∧
      s'.port p port = { x with state := 4, paused := false, lanes := 3 - 2 ^ lane } ∧ s'.mem = s.mem) ∧
    (x.paused = true → x.lanes = 30 → ∃ s', exec (.linkRetrainDone p port) s = .next s' ∧
      s'.port p port = { x with state := 2, paused := false, spare := true, retrain := min 65535 (x.retrain + 1) } ∧
      s'.mem = s.mem ∧
      (s.laneSpared p port = false → s.bad (.lane p port 4) = false → (RepairUnit.lane p port 0, 4) ∈ s'.repairs ∧
        (s.journalFull p = false → ∃ e, find (s'.pkg p).journal (s.pkg p).jseq = some e ∧ e.kind = 11 ∧ e.state = 3))) ∧
    (x.live = true → ∃ s', exec (.flitArrivesInError p port) s = .next s' ∧
      s'.port p port = { x with crcerr := min 65535 (x.crcerr + 1) } ∧ s'.net = s.net ∧ s'.mem = s.mem)) ∧
  (∀ (sw port np : Nat) (s : State), levelNo sw < 3 → port ∈ s.upPorts sw →
    nextLive ((s.upPorts sw).filter (· != port)) port = some np →
      ∃ s', exec (.unitLoss sw (.link port)) s = .next s' ∧ port ∉ s'.upPorts sw ∧
        ∀ e < 64,
          (s.tableEntry sw e = some port → s'.tableEntry sw e = some np ∧ e ∈ (s'.switch sw).draining ∧
            ∃ m ∈ s'.net, m.body = .drain sw e ∧ m.chan = 4) ∧
          ∀ o, s.tableEntry sw e = some o → o ≠ port → s'.tableEntry sw e = some o) ∧
  (∀ (sw entry : Nat) (s : State),
    (∀ a m b, s.net = a ++ m :: b → m.body = .drain sw entry → (∀ x ∈ a, x.body ≠ .drain sw entry) →
      entry ∈ (s.switch sw).draining → (∃ port ∈ s.upPorts sw, s.carries sw port = true) →
        ((∀ x ∈ b, x.body ≠ .drain sw entry) → exec (.drainReport sw entry) s =
          .next (({ s with net := a ++ b } : State).setSwitch sw
            { s.switch sw with draining := remove (s.switch sw).draining entry })) ∧
        ((∃ x ∈ b, x.body = .drain sw entry) → exec (.drainReport sw entry) s = .next { s with net := a ++ b })) ∧
    ((∀ m ∈ s.net, m.body ≠ .drain sw entry) → exec (.drainReport sw entry) s = .refused (.notEnabled "DRAIN_REPORT")) ∧
    (entry ∉ (s.switch sw).draining → exec (.drainReport sw entry) s = .refused (.notEnabled "DRAIN_REPORT")))

/-! ### The host -/

/-- R353 to R355, R357 to R360, R362, R391, R392: the host's entries and TAIL go to the window as ordered messages, once no access of the
host is on its way; TAIL is taken there unless it leaves 64 entries from HEAD; the device reads the entry at HEAD, writes a journal entry of the next number, moves HEAD on and carries the command
out; one with bad operands is rejected with kind 7, a launch whose record cannot be read with kind 4. R333: a teardown stops the booth's
threads, and when its accesses have been performed scrubs its region and gives it up. The order of a command's checks, the two steps
of a teardown (log entries 31 and 34) and the adapter that writes (log entry 71) are the model's choice. -/
def Obligations.CommandWindows : Prop :=
  (∀ (p b : Nat) (es : List (Nat × List Word)) (tail : Word) (s : State), s.powered p = true → b < 48 →
    (s.hostFlies = true → exec (.tailWrite p b es tail) s = .refused (.notEnabled "TAIL_WRITE")) ∧
    (s.hostFlies = false → ∃ s' ms z, exec (.tailWrite p b es tail) s = .next s' ∧ s'.mem = s.mem ∧ s'.pkgs = s.pkgs ∧
      s'.net = s.net ++ ms ++ [z] ∧ ms.map Msg.body = es.map (fun e => Body.cmdEntry (e.1 % 64) ((List.range 8).map (fun i => e.2.getD i 0))) ∧
      z.body = .cmdTail tail ∧
      ∀ m ∈ ms ++ [z], m.chan = 0 ∧ m.booth = b ∧ m.dst = pkgNode p ∧
        m.src = hostNode ((getD (s.pkg p).owners 0 (0, 0)).1.toNat / 2 ^ 48 % 2 ^ 12))) ∧
  (∀ (n k p b : Nat) (m : Msg) (s : State), s.Comes n k m → m.dst = pkgNode p → m.booth = b → p < 4096 →
    (∀ i ws, m.body = .cmdEntry i ws → ∃ s', exec (.switchForward m.que m.chan k) s = .next s' ∧ s'.net = dropAt s.net n ∧
      s'.mem = s.mem ∧ find (s'.window p b).entries i = some ws ∧ (s'.window p b).tail = (s.window p b).tail ∧
      (s'.window p b).head = (s.window p b).head) ∧
    (∀ tail : Word, m.body = .cmdTail tail →
      let w := s.window p b
      let t := tail.toNat % 2 ^ 32
      ∃ s', exec (.switchForward m.que m.chan k) s = .next s' ∧ s'.net = dropAt s.net n ∧ s'.mem = s.mem ∧ s'.window p b =
        (if w.head ≤ t ∧ t ≤ w.head + 64 then { w with tail := t, ovf := w.ovf && !tail.getLsbD 32 }
          else { w with ovf := true }))) ∧
  (∀ (p : Nat) (w : List Word) (s : State), s.powered p = true → s.journalFull p = false → (s.window p 0).head < (s.window p 0).tail →
    w = getD (s.window p 0).entries ((s.window p 0).head % 64) (List.replicate 8 0) →
    s.commandWaits p w = false → w.length = 8 →
      let booth := (dw w 0).toNat / 2 ^ 48 % 2 ^ 8
      let seq := (s.pkg p).jseq
      let op (n : Nat) : Prop := (dw w 0).toNat / 2 ^ 56 = n ∧ (dw w 0).toNat / 2 ^ 32 % 2 ^ 16 = 0 ∧ booth < 48
      let read (s' : State) (state kind : Nat) : Prop :=
        s'.window p 0 = { s.window p 0 with head := (s.window p 0).head + 1 } ∧ (s'.pkg p).jseq = seq + 1 ∧
          ∃ e, find (s'.pkg p).journal seq = some e ∧ e.seq = seq ∧ e.state = state ∧ e.kind = kind ∧ e.origin = 0 ∧
            e.booth = booth ∧ e.cmd = w ∧ e.tag = BitVec.ofNat 64 ((dw w 0).toNat % 2 ^ 32)
      let s1 := s.setWindow p 0 { s.window p 0 with head := (s.window p 0).head + 1 }
      let sj := s1.journal p (entryOf 0 w s.cycle 0)
      (∀ ws, op 1 → s1.recordAt p booth (cmdRecord w) true = some ws →
        s1.launchKind p booth (cmdRecord w) true (some ws) = 0 → recTotal ws ≠ 0 → recRop (ws.headD []) = 0 →
        ∃ s' l, exec (.hostLaunch p 0) s = .next s' ∧ read s' 0 0 ∧ find s'.launches s.nextLaunch = some l ∧ l.pkg = p ∧
          l.booth = booth ∧ l.seq = seq ∧ l.total = recTotal ws ∧ l.entry = recEntry (ws.getLastD []) ∧ l.sup = true ∧
          l.next = 0 ∧ s'.mem = s.mem) ∧
      (op 1 → s1.recordAt p booth (cmdRecord w) true = none → ∃ s', exec (.hostLaunch p 0) s = .next s' ∧ read s' 1 4 ∧
        s'.launches = s.launches) ∧
      (op 2 → ∃ s', exec (.hostFence p 0) s = .next s' ∧ read s' 0 0 ∧ s'.mem = s.mem) ∧
      (∀ t, op 3 → sj.startHandover p booth seq (dw w 1) = some t → exec (.handover p 0) s = .next t ∧
        ∀ h, find t.handovers s.nextHandover = some h → read t 0 0 ∧ h.pkg = p ∧ h.booth = booth ∧ h.seq = seq ∧
          h.outT = s.tenantOf p booth ∧ ∀ e ∈ h.slots, e.2 = .todo) ∧
      (op 3 → (dw w 1).toNat % 128 ≠ 0 → ∃ s', exec (.handover p 0) s = .next s' ∧ read s' 1 7 ∧
        s'.handovers = s.handovers) ∧
      (op 4 → (∀ q ∈ s.packagesWith 0, (s.boothPkg q 0).tearing = none) →
        (s.packagesWith booth = [] → ∃ s', exec (.teardown p 0) s = .next s' ∧ read s' 3 0 ∧ s'.mem = s.mem) ∧
        ∀ r, s.regions = [(p * 64 + booth, r)] → ∃ s', exec (.teardown p 0) s = .next s' ∧ read s' 0 0 ∧
          (s'.boothPkg p booth).tearing = some seq ∧ (s'.boothPkg p booth).frozen = true ∧
          (∀ u t, s'.thread u = some t → t.booth = booth → t.place = .area) ∧
          ∀ k l, find s'.launches k = some l → l.booth = booth → l.torn = true) ∧
      (op 5 → (dw w 2).toNat < 16 → dw w 3 = 0 → dw w 4 = 0 → ∃ s', exec (.watch p 0) s = .next s' ∧ read s' 3 0 ∧
        find s'.watch (p * 1024 + booth * 16 + (dw w 2).toNat) = some (0, 0)) ∧
      (op 6 → (dw w 2).toNat < 48 → (dw w 3).toNat < 2 ^ 32 → ∃ s', exec (.owner p 0) s = .next s' ∧ read s' 3 0 ∧
        find (s'.pkg p).owners (dw w 2).toNat = some (dw w 3, dw w 4)) ∧
      (∀ c ∈ s.coresOn p booth, c < 2 ^ 26 → dw w 2 = BitVec.ofNat 64 (c * 16) →
        (op 7 → (∀ i ∈ [3, 4, 5, 6], (dw w i).toNat < 2 ^ 32) → ∃ s', exec (.limits p 0) s = .next s' ∧ read s' 3 0 ∧
          s'.bc c booth = { s.bc c booth with feretry := dw w 3, fewait := dw w 4, agewait := dw w 5, sndlim := dw w 6 }) ∧
        (op 8 → (dw w 3).toNat < 2 ^ 48 → (dw w 3).toNat % 8 = 0 → ∃ s', exec (.trapvec p 0) s = .next s' ∧ read s' 3 0 ∧
          s'.bc c booth = { s.bc c booth with tvec := dw w 3 }) ∧
        (op 11 → dw w 3 = 0 → ∃ s', exec (.logring p 0) s = .next s' ∧ read s' 3 0 ∧
          s'.rings = del s.rings (c * 64 + booth))) ∧
      (∀ r t, op 9 → sj.readRegion p booth (dw w 1) = some r → s.region p booth = none → sj.reserve booth r.cores = some t →
        ∃ s', exec (.region p 0) s = .next s' ∧ read s' 3 0 ∧ s'.region p booth = some r) ∧
      (∀ ws ps, op 10 → (dw w 1).toNat % 32 = 0 → (dw w 1).toNat < 2 ^ 48 → 1 ≤ (dw w 2).toNat → (dw w 2).toNat ≤ 4096 →
        s.feWait = [] → sj.mgmtWords p (dw w 1).toNat (4 * (dw w 2).toNat) = some ws →
        sj.mapEntries p booth (dw w 2).toNat ws (s.pagesOf p booth) = some ps →
        ∃ s', exec (.map p 0) s = .next s' ∧ read s' 3 0 ∧ s'.pagesOf p booth = ps) ∧
      (op 10 → (dw w 2).toNat = 0 → ∃ s', exec (.map p 0) s = .next s' ∧ read s' 1 7 ∧ s'.maps = s.maps) ∧
      (op 12 → 2 ^ 12 ≤ (dw w 2).toNat → (dw w 2).toNat ≤ 2 ^ 32 → 2 ^ 10 ≤ (dw w 3).toNat →
        (dw w 3).toNat < (dw w 2).toNat → ∃ s', exec (.gang p 0) s = .next s' ∧ read s' 3 0 ∧
          (getD s'.gangs (p * 64 + booth) Gang.init).next = some ((dw w 2).toNat, (dw w 3).toNat, s.cycle))) ∧
  (∀ (p booth seq : Nat) (r : Region) (s : State), booth < 64 → s.regions = [(p * 64 + booth, r)] →
    (s.boothPkg p booth).tearing = some seq → s.tearWaits booth = false →
      ∃ s' q, exec (.teardown p booth) s = .next s' ∧ s'.receipts = s.receipts ++ [q] ∧ q.kind = 1 ∧ q.booth = booth ∧
        q.outT = r.tenant ∧ q.cores = r.cores ∧ s'.region p booth = none ∧ (s'.boothPkg p booth).tearing = none ∧
        (∀ c ∈ r.cores, ∀ g : Fin 4, (s'.core c).owners[g] ≠ some booth) ∧
        ∀ u t, s'.thread u = some t → t.booth = booth → t.place = .area)

/-- R352, R361: an access of an adapter to a booth that management granted it, aligned and allowed by the page, goes to its home as a
message of the ordered class, and has no effect otherwise; an interrupt message, once it has come to its adapter in its booth's order,
goes to the next place of the ring at the address that booth 0 has registered and lets the thread that posted it go on. That the host has
supervisor mode's permissions, and that an access which is misaligned or not allowed has no effect, are the model's choice (log entry 10). -/
def Obligations.HostAccessesAndInterrupts : Prop :=
  (∀ (adapter booth p : Nat) (va : BitVec 48) (z : Size) (w : Option Word) (s : State),
    let n := Size.bytes z
    (adapter * 64 + booth ∉ s.grants → exec (.hostAccess adapter booth p va z w) s = .next s) ∧
    ∀ q, adapter * 64 + booth ∈ s.grants → s.pageFor p booth va.toNat = some q →
      let allowed : Prop := va.toNat % n = 0 ∧ (if w.isSome then q.wr = true else q.rd = true) ∧
        (q.kind = 2 → w.isSome = true ∧ s.ownsOff q.home booth (q.half * 65536 + (va.toNat - q.va)) = true)
      (¬ allowed → exec (.hostAccess adapter booth p va z w) s = .next s) ∧
      (allowed → ∃ s' m, exec (.hostAccess adapter booth p va z w) s = .next s' ∧ s'.net = s.net ++ [m] ∧
        m.src = hostNode adapter ∧ m.dst = q.home ∧ m.party = .host adapter ∧ m.booth = booth ∧ m.chan = 0 ∧
        m.va = va.toNat ∧ m.ga = q.base + (va.toNat - q.va) ∧ m.posted = w.isSome ∧ m.done = 0 ∧
        (w = none → m.body = .req (.load n false)) ∧
        (∀ x, w = some x → m.body = .req (.store n (x.toNat % 2 ^ (8 * n)))) ∧ s'.mem = s.mem ∧ s'.threads = s.threads)) ∧
  (∀ (n : Nat) (ws : List Word) (s : State) (m : Msg), s.arrived n = some m → m.body = .irq ws →
    (∀ x ∈ s.net, x.booth = m.booth → x.mid < m.mid → ∀ l, x.body ≠ .irq l) →
    let o := getD (s.pkg m.pkg).owners 0 (0, 0)
    let place := (s.pkg m.pkg).irqCount % 2 ^ (o.1.toNat / 2 ^ 44 % 2 ^ 4 + 6)
    let at0 := o.1.toNat / 2 ^ 48 % 2 ^ 13 * 2 ^ 64 + o.2.toNat + 32 * place
    (s.thread m.uid = none → ∃ s', exec (.interruptDelivery n) s = .next s' ∧ s'.net = dropAt s.net n ∧
      find s'.hostRing at0 = some ws ∧ (s'.pkg m.pkg).irqCount = (s.pkg m.pkg).irqCount + 1) ∧
    (∀ t, s.thread m.uid = some t → t.wait = .dispatcher m.mid → t.Plain → ∃ s',
      exec (.interruptDelivery n) s = .next s' ∧ s'.net = dropAt s.net n ∧
        find s'.hostRing at0 = some ws ∧ s'.thread m.uid = some { t.woken s.cycle with aRan := false }))

/-! ### The platform -/

/-- R383 to R385, R389, R391, R394, R395, R397, R399: power-up raises the rails one by one in their order, and power-down and a thermal
trip take them down in the reverse order; with the last rail up, BOOTID is drawn, the journal starts at 1, a unit that has failed takes a
spare, and a boot request goes to the host, and again after 2^30 cycles while no image comes; the host's image is received, verified
and, where it passes every check, runs, with the stages 1, 2 and 3, and one that does not pass leaves the code of the first check that it
fails in BOOTST and is asked for again; the signatures cover header bytes 0x000 to 0x04F; the host reads BOOTST, JSEQ and BOOTID at the
management node; the fused SVN only rises; the loss of the first rail leaves nothing of a package but its SVN. One rail at a time,
one boot stage at a time and where the image lies are the model's choice (log entry 43), as is what a repair's entry names (log entry 68). -/
def Obligations.PowerAndBoot : Prop :=
  ∀ (p : Nat) (s : State),
    let k := s.pkg p
    let order : List Rail := [.aux, .sdh, .drc, .srm, .core, .drq, .sdl]
    let asks (s' : State) (x : Pkg) (net : List Msg) : Prop := ∃ m, s'.net = net ++ [m] ∧ m.body = .boot ∧ m.chan = 4 ∧
      m.src = pkgNode p ∧ m.dst = hostNode (Config.bootHost p % 4096) ∧
      s'.pkg p = { x with bootReq := x.bootReq + 1, bootAt := s.cycle } ∧ s'.mem = s.mem
    (∀ i < 6, p < 4096 → k.rails = order.take i → ∀ b : Word,
      exec (.powerUp p b) s = .next (s.setPkg p { k with rails := order.take (i + 1) })) ∧
    (p < 4096 → k.rails = order.take 6 → ∀ b : Word,
      ((∀ e ∈ s.mfg, e.1.pkg ≠ p) → (∀ u ∈ s.defects, u.pkg ≠ p) → ∃ s', exec (.powerUp p b) s = .next s' ∧
        asks s' { Pkg.init with rails := order, bootid := b, svn := k.svn } s.net ∧ s'.managed p 0x60000 = some 0 ∧
        s'.managed p 0x60008 = some 1 ∧ s'.managed p 0x60010 = some b) ∧
      (∀ c, s.mfg = [] → s.defects = [.core c] → pkgOf c = p → getD s.sparesUsed (engOf c) 0 < 2 → ∃ s',
        exec (.powerUp p b) s = .next s' ∧ (s'.pkg p).rails = order ∧ (s'.pkg p).bootReq = 1 ∧
        (RepairUnit.core c, 16 + getD s.sparesUsed (engOf c) 0) ∈ s'.repairs ∧ (s'.core c).lost = (s.core c).lost ∧
        (∃ e, find (s'.pkg p).journal 1 = some e ∧ e.kind = 11) ∧ ∃ m ∈ s'.net, m.body = .boot ∧ m.src = pkgNode p)) ∧
    (∀ i < 6, k.rails = order.take i → ∀ j ∈ [Instr.powerDown p, .thermalTrip p],
      (i = 0 → ∃ name, exec j s = .refused (.notEnabled name)) ∧
      (0 < i → exec j s = .next (s.setPkg p { k with rails := order.take (i - 1) }))) ∧
    (k.rails = order →
      (k.stage = 0 → k.bootAt + 2 ^ 30 ≤ s.cycle → ∃ s', exec (.bootRequestRetry p) s = .next s' ∧ asks s' k s.net) ∧
      (k.stage ≠ 0 ∨ s.cycle < k.bootAt + 2 ^ 30 → exec (.bootRequestRetry p) s = .refused (.notEnabled "BOOT_REQUEST_RETRY")) ∧
      (∀ h b,
        (k.stage = 0 → ∃ s', exec (.imageReceived p h b) s = .next s' ∧ s'.pkg p = { k with stage := 1, image := h ++ b } ∧
          (∀ m ∈ s'.net, m.body = .boot → m.src ≠ pkgNode p) ∧ (find s.bootAreas p = none → s'.mem = s.mem) ∧
          ∀ a, find s.bootAreas p = some a → s'.mem.read a (h ++ b).length = ofBytes (h ++ b)) ∧
        (k.stage = 1 → k.image = h ++ b → exec (.imageReceived p h b) s =
          .next (s.setPkg p { k with stage := 2, tries := min 255 (k.tries + 1) })) ∧
        (k.stage = 2 → k.image = h ++ b → ∃ s', exec (.imageReceived p h b) s = .next s' ∧
          let e := imageError k.svn h b
          (e = 0 → s'.pkg p = { k with
              stage := 3, err := 0, version := ofBytes ((h.drop 4).take 4), entry := ofBytes ((h.drop 0x18).take 8) } ∧
            s'.net = s.net ∧ s'.mem = s.mem) ∧
          (e ≠ 0 → asks s' { k with stage := 0, err := e } s.net) ∧
          s'.managed p 0x60000 = some (BitVec.ofNat 64 (e * 2 ^ 24 + k.tries * 2 ^ 16 + if e = 0 then 3 else 0))) ∧
        (k.stage ≠ 0 → k.stage > 2 ∨ k.image ≠ h ++ b →
          exec (.imageReceived p h b) s = .refused (.notEnabled "IMAGE_RECEIVED"))) ∧
      (∀ h b, (h.length ≠ 4096 → imageError k.svn h b = 1) ∧
        (imageError k.svn h b = 0 → b.length = ofBytes ((h.drop 0x10).take 8) ∧ (h.drop 0x20).take 48 = sha384 b ∧
          Config.ecdsaVerifies (h.take 0x50) ((h.drop 0x50).take 96) = true ∧
          Config.hssVerifies (h.take 0x50) ((h.drop 0xB0).take 2964) = true ∧ k.svn ≤ ofBytes ((h.drop 8).take 4))) ∧
      (∀ v : Half, k.stage = 3 →
        exec (.svnRaise p v) s = .next (s.setPkg p { k with svn := max k.svn v.toNat })) ∧
      (∀ i ∈ [Instr.powerDown p, .thermalTrip p], ∃ s', exec i s = .next s' ∧ (s'.pkg p).rails = order.take 6 ∧
        (s'.pkg p).svn = k.svn ∧ (s'.pkg p).keys = [] ∧ (s'.pkg p).journal = [] ∧ (∀ b < 64, s'.region p b = none) ∧
        ∀ u t, s'.thread u = some t → pkgOf (t.key / 16) ≠ p))

/-- R386 to R390: the controller answers the requests of an SPDM exchange in their order and refuses one out of order; it speaks the
versions 1.2 and 1.3, and takes its only algorithms where the requester offers them; an engagement key is loaded and erased in a secured
session only, for a slot that nothing names; an export brings the entries of a log ring that are present, a trailer and both its
signatures. The order of the exchange and the contents of its answers beyond these are
the model's, not the spec's (log entries 44 to 47). -/
def Obligations.AttestationAndKeys : Prop :=
  ∀ (p : Nat) (s : State), s.powered p = true →
    let k := s.pkg p
    let gives (i : Instr) (x : Spdm) (l : Reply) : Prop := exec i s = .next (s.setPkg p { k with spdm := x, reply := l })
    let ok (i : Instr) (x : Spdm) (l : List Byte) : Prop := gives i x (.bytes l)
    let no (i : Instr) : Prop := exec i s = .next (s.setPkg p { k with reply := .refused })
    let chain := Config.deviceBytes p 2
    let signed (b : List Byte) : List Byte := b ++ (Config.ecdsaSigns p b).toList
    gives (.getVersion p) ⟨true, false, false, false, false⟩ (.versions [(1, 2), (1, 3)]) ∧
    (k.spdm.version = true → ok (.getCapabilities p) { k.spdm with caps := true } (Config.deviceBytes p 3)) ∧
    (k.spdm.version = false → no (.getCapabilities p)) ∧
    (∀ offer : List SpdmAlg,
      let all : Prop := .ecdsaP384 ∈ offer ∧ .sha384 ∈ offer ∧ .secp384r1 ∈ offer ∧ .aes256Gcm ∈ offer
      (k.spdm.caps = true → all → gives (.negotiateAlgorithms ⟨p, offer⟩) { k.spdm with algs := true }
        (.algorithms [.ecdsaP384, .sha384, .secp384r1, .aes256Gcm])) ∧
      (k.spdm.caps = false ∨ ¬ all → no (.negotiateAlgorithms ⟨p, offer⟩))) ∧
    (k.spdm.algs = true →
      ok (.getDigests p) k.spdm (sha384 chain) ∧ ok (.getCertificate p 0) k.spdm chain ∧
      (∀ n, ok (.challenge p 0 n) k.spdm (signed (sha384 chain ++ bytesOf 32 n)) ∧
        ok (.getMeasurements p n) k.spdm (signed (s.measurements p ++ bytesOf 32 n))) ∧
      (∀ n, ok (.keyExchange p n) { k.spdm with keyed := true, secured := false } (Config.exchange p n))) ∧
    (∀ slot n, slot ≠ 0 → no (.getCertificate p slot) ∧ no (.challenge p slot n)) ∧
    (k.spdm.algs = false → no (.getDigests p) ∧ no (.getCertificate p 0) ∧ ∀ n, no (.challenge p 0 n) ∧
      no (.getMeasurements p n) ∧ no (.keyExchange p n)) ∧
    (∀ v, k.spdm.keyed = true → exec (.finish p v) s = .next (s.setPkg p (if Config.finishVerifies p v = true then
      { k with spdm := { k.spdm with secured := true }, reply := .bytes [] } else { k with reply := .refused }))) ∧
    (k.spdm.secured = true →
      ok (.endSession p) { k.spdm with keyed := false, secured := false } [] ∧
      (∀ slot tenant key, 1 ≤ slot → slot < 64 → s.keyNamed p slot = false →
        (find k.keys slot = none → exec (.keyLoad p slot tenant key) s = .next (s.setPkg p { k with
          keys := put k.keys slot (BitVec.ofNat 64 tenant, key % 2 ^ 512), reply := .bytes [] })) ∧
        exec (.keyErase p slot) s = .next (s.setPkg p { k with keys := del k.keys slot, reply := .bytes [] })) ∧
      (∀ slot tenant key, s.keyNamed p slot = true → no (.keyLoad p slot tenant key) ∧ no (.keyErase p slot)) ∧
      (∀ home booth lo hi g, pkgOf home = p → find s.rings (home * 64 + booth) = some g →
        let t := s.exportTrailer g (s.boothKey p booth) home booth lo hi
        ok (.vendorDefinedRequest p home booth lo hi) k.spdm (s.exportBytes g (s.boothKey p booth) lo hi ++ t ++
          ((Config.ecdsaSigns p t).toList ++ (Config.hssSigns p t).toList)))) ∧
    (k.spdm.secured = false → no (.endSession p) ∧ (∀ slot tenant key, no (.keyLoad p slot tenant key)) ∧
      (∀ slot, no (.keyErase p slot)) ∧ ∀ home booth lo hi, no (.vendorDefinedRequest p home booth lo hi))
end

