-- ==== Sys2Proof/Laws/Tables.lean ====
section
/-! SUPPORT. The laws of sparse tables and number sets: what reading after writing gives, and that their canonical form is
kept. -/

namespace Sys2Proof.Tables

@[simp] theorem find_nil {α : Type} (n : Nat) : find ([] : List (Nat × α)) n = none := rfl

@[simp] theorem find_put_same {α : Type} (t : List (Nat × α)) (n : Nat) (a : α) : find (put t n a) n = some a := by
  induction t with
  | nil => simp [put, find]
  | cons e t ih =>
    obtain ⟨k, b⟩ := e
    by_cases h : k = n
    · simp [put, find, h]
    · by_cases h' : n < k
      · simp [put, find, h, h']
      · simp [put, find, h, h', ih]

theorem find_put_ne {α : Type} (t : List (Nat × α)) (n m : Nat) (a : α) (hm : n ≠ m) : find (put t n a) m = find t m := by
  induction t with
  | nil => simp [put, find, hm]
  | cons e t ih =>
    obtain ⟨k, b⟩ := e
    by_cases h : k = n
    · subst h; simp [put, find, hm]
    · by_cases h' : n < k
      · simp [put, find, h, h', hm]
      · simp [put, find, h, h', ih]

@[simp] theorem getD_put_same {α : Type} (t : List (Nat × α)) (n : Nat) (a d : α) : getD (put t n a) n d = a := by
  simp [getD]

theorem getD_put_ne {α : Type} (t : List (Nat × α)) (n m : Nat) (a d : α) (h : n ≠ m) : getD (put t n a) m d = getD t m d := by
  simp [getD, find_put_ne t n m a h]

/-- Every key of a table is above a bound. -/
def above {α : Type} (b : Nat) (t : List (Nat × α)) : Prop := ∀ e ∈ t, b < e.1

theorem rising_cons {α : Type} (k : Nat) (a : α) (t : List (Nat × α)) : rising ((k, a) :: t) = true ↔ above k t ∧ rising t = true := by
  induction t generalizing k a with
  | nil => simp [rising, above]
  | cons e t ih =>
    obtain ⟨k', b⟩ := e
    have h := ih k' b
    simp only [rising, Bool.and_eq_true, decide_eq_true_eq, above, List.mem_cons, forall_eq_or_imp]
    constructor
    · rintro ⟨h1, h2⟩
      refine ⟨⟨h1, fun x hx => ?_⟩, h2⟩
      have := (h.mp h2).1 x hx
      omega
    · rintro ⟨⟨h1, _⟩, h2⟩
      exact ⟨h1, h2⟩

theorem find_del_same {α : Type} (t : List (Nat × α)) (n : Nat) : find (del t n) n = none := by
  induction t with
  | nil => rfl
  | cons e t ih =>
    by_cases h : e.1 = n
    · simpa [del, h] using ih
    · simp [del, find, h]; simpa [del] using ih

theorem find_del_ne {α : Type} (t : List (Nat × α)) (n m : Nat) (hm : n ≠ m) : find (del t n) m = find t m := by
  induction t with
  | nil => rfl
  | cons e t ih =>
    by_cases h : e.1 = n
    · have : e.1 ≠ m := by omega
      simpa [del, find, h, hm] using ih
    · simp only [del, List.filter, bne_iff_ne.mpr h, find]
      split
      · rfl
      · exact ih

theorem mem_put {α : Type} (t : List (Nat × α)) (n : Nat) (a : α) (e : Nat × α) (h : e ∈ put t n a) : e = (n, a) ∨ e ∈ t := by
  induction t with
  | nil => simp_all [put]
  | cons x t ih =>
    obtain ⟨k, b⟩ := x
    simp only [put] at h
    split at h
    · simp only [List.mem_cons] at h ⊢; grind
    · split at h
      · simp only [List.mem_cons] at h ⊢; grind
      · simp only [List.mem_cons] at h ⊢; grind

theorem mem_del {α : Type} (t : List (Nat × α)) (n : Nat) (e : Nat × α) (h : e ∈ del t n) : e ∈ t := (List.mem_filter.mp h).1

theorem rising_filter {α : Type} (t : List (Nat × α)) (p : Nat × α → Bool) (h : rising t = true) : rising (t.filter p) = true := by
  induction t with
  | nil => rfl
  | cons x t ih =>
    obtain ⟨k, b⟩ := x
    have hc := (rising_cons k b t).mp h
    simp only [List.filter]
    split
    · exact (rising_cons k b _).mpr ⟨fun e he => hc.1 e (List.mem_filter.mp he).1, ih hc.2⟩
    · exact ih hc.2

theorem rising_put {α : Type} (t : List (Nat × α)) (n : Nat) (a : α) (h : rising t = true) : rising (put t n a) = true := by
  induction t with
  | nil => rfl
  | cons x t ih =>
    obtain ⟨k, b⟩ := x
    have hc := (rising_cons k b t).mp h
    simp only [put]
    split
    · rename_i hk; subst hk; exact (rising_cons k a t).mpr hc
    · split
      · rename_i h1 h2
        refine (rising_cons n a _).mpr ⟨fun e he => ?_, h⟩
        rcases List.mem_cons.mp he with rfl | he
        · exact h2
        · exact Nat.lt_trans h2 (hc.1 e he)
      · refine (rising_cons k b _).mpr ⟨fun e he => ?_, ih hc.2⟩
        rcases mem_put t n a e he with rfl | he
        · show k < n; omega
        · exact hc.1 e he

theorem rising_del {α : Type} (t : List (Nat × α)) (n : Nat) (h : rising t = true) : rising (del t n) = true := rising_filter t _ h

theorem rising_putD {α : Type} [DecidableEq α] (t : List (Nat × α)) (n : Nat) (a d : α) (h : rising t = true) :
    rising (putD t n a d) = true := by
  unfold putD; split
  · exact rising_del t n h
  · exact rising_put t n a h

theorem getD_putD_same {α : Type} [DecidableEq α] (t : List (Nat × α)) (n : Nat) (a d : α) : getD (putD t n a d) n d = a := by
  unfold putD; split
  · rename_i ha; simp [getD, find_del_same, ha]
  · simp

theorem getD_putD_ne {α : Type} [DecidableEq α] (t : List (Nat × α)) (n m : Nat) (a d : α) (hm : n ≠ m) :
    getD (putD t n a d) m d = getD t m d := by
  unfold putD; split
  · simp [getD, find_del_ne t n m hm]
  · exact getD_put_ne t n m a d hm

/-- No entry of a table that keeps its default unlisted is the default. -/
theorem all_putD {α : Type} [DecidableEq α] (t : List (Nat × α)) (n : Nat) (a d : α) (h : ∀ e ∈ t, e.2 ≠ d) :
    ∀ e ∈ putD t n a d, e.2 ≠ d := by
  intro e he
  unfold putD at he; split at he
  · exact h e (mem_del t n e he)
  · rename_i ha
    rcases mem_put t n a e he with rfl | he
    · exact ha
    · exact h e he

/-! ### Sets of numbers -/

theorem risingSet_cons (k : Nat) (t : List Nat) : risingSet (k :: t) = true ↔ (∀ e ∈ t, k < e) ∧ risingSet t = true := by
  induction t generalizing k with
  | nil => simp [risingSet]
  | cons k' t ih =>
    have h := ih k'
    simp only [risingSet, Bool.and_eq_true, decide_eq_true_eq, List.mem_cons, forall_eq_or_imp]
    constructor
    · rintro ⟨h1, h2⟩
      refine ⟨⟨h1, fun x hx => ?_⟩, h2⟩
      have := (h.mp h2).1 x hx
      omega
    · rintro ⟨⟨h1, _⟩, h2⟩
      exact ⟨h1, h2⟩

@[simp] theorem mem_insert (t : List Nat) (n e : Nat) : e ∈ insert t n ↔ e = n ∨ e ∈ t := by
  induction t with
  | nil => simp [insert]
  | cons k t ih =>
    simp only [insert]
    split
    · rename_i h; subst h; simp
    · split
      · simp
      · simp only [List.mem_cons, ih]; grind

@[simp] theorem mem_remove (t : List Nat) (n e : Nat) : e ∈ remove t n ↔ e ≠ n ∧ e ∈ t := by simp [remove, and_comm]

theorem risingSet_insert (t : List Nat) (n : Nat) (h : risingSet t = true) : risingSet (insert t n) = true := by
  induction t with
  | nil => rfl
  | cons k t ih =>
    have hc := (risingSet_cons k t).mp h
    simp only [insert]
    split
    · exact h
    · split
      · rename_i h1 h2
        refine (risingSet_cons n _).mpr ⟨fun e he => ?_, h⟩
        rcases List.mem_cons.mp he with rfl | he
        · exact h2
        · exact Nat.lt_trans h2 (hc.1 e he)
      · refine (risingSet_cons k _).mpr ⟨fun e he => ?_, ih hc.2⟩
        rcases (mem_insert t n e).mp he with rfl | he
        · omega
        · exact hc.1 e he

theorem risingSet_filter (t : List Nat) (p : Nat → Bool) (h : risingSet t = true) : risingSet (t.filter p) = true := by
  induction t with
  | nil => rfl
  | cons k t ih =>
    have hc := (risingSet_cons k t).mp h
    simp only [List.filter]
    split
    · exact (risingSet_cons k _).mpr ⟨fun e he => hc.1 e (List.mem_filter.mp he).1, ih hc.2⟩
    · exact ih hc.2

theorem risingSet_remove (t : List Nat) (n : Nat) (h : risingSet t = true) : risingSet (remove t n) = true := risingSet_filter t _ h

end Sys2Proof.Tables
end

