-- ==== Sys2Proof/Laws/Memory.lean ====
section
/-! SUPPORT. The laws of memory: a read after a write gives the value written, a write leaves every other byte alone, and
every operation on memory keeps the canonical form. -/

namespace Sys2Proof.Machine
open Bits Tables

/-! ### The canonical form -/

theorem Memory.wf_iff (m : Memory) : m.wf = true ↔
    rising m.bytes = true ∧ (∀ c ∈ m.bytes, c.2 ≠ 0) ∧ risingSet m.full = true ∧ rising m.blocks = true ∧
      (∀ c ∈ m.blocks, c.2 ≠ ⟨0, 0⟩) ∧ rising m.keys = true := by
  simp [Memory.wf, Bool.and_eq_true, List.all_eq_true, and_assoc]

theorem Memory.empty_wf : Memory.empty.wf = true := rfl

theorem Memory.setByte_wf (m : Memory) (a : Nat) (b : Byte) (h : m.wf = true) : (m.setByte a b).wf = true := by
  rw [Memory.wf_iff] at h ⊢
  exact ⟨rising_putD _ _ _ _ h.1, all_putD _ _ _ _ h.2.1, h.2.2⟩

theorem Memory.write_wf (m : Memory) (a n v : Nat) (h : m.wf = true) : (m.write a n v).wf = true := by
  induction n generalizing m a v with
  | zero => exact h
  | succ n ih => exact ih _ _ _ (m.setByte_wf _ _ h)

theorem Memory.setFull_wf (m : Memory) (a : Nat) (f : Bool) (h : m.wf = true) : (m.setFull a f).wf = true := by
  rw [Memory.wf_iff] at h ⊢
  refine ⟨h.1, h.2.1, ?_, h.2.2.2⟩
  show risingSet (if f then _ else _) = true
  split
  · exact risingSet_insert _ _ h.2.2.1
  · exact risingSet_remove _ _ h.2.2.1

theorem Memory.setFulls_wf (m : Memory) (a n v : Nat) (h : m.wf = true) : (m.setFulls a n v).wf = true := by
  induction n generalizing m a v with
  | zero => exact h
  | succ n ih => exact ih _ _ _ (m.setFull_wf _ _ h)

theorem Memory.setBlock_wf (m : Memory) (a : Nat) (b : Block) (h : m.wf = true) : (m.setBlock a b).wf = true := by
  rw [Memory.wf_iff] at h ⊢
  exact ⟨h.1, h.2.1, h.2.2.1, rising_putD _ _ _ _ h.2.2.2.1, all_putD _ _ _ _ h.2.2.2.2.1, h.2.2.2.2.2⟩

theorem Memory.clear_wf (m : Memory) (a n : Nat) (h : m.wf = true) : (m.clear a n).wf = true := by
  rw [Memory.wf_iff] at h ⊢
  exact ⟨rising_filter _ _ h.1, fun c hc => h.2.1 c (List.mem_filter.mp hc).1, risingSet_filter _ _ h.2.2.1,
    rising_filter _ _ h.2.2.2.1, fun c hc => h.2.2.2.2.1 c (List.mem_filter.mp hc).1, rising_filter _ _ h.2.2.2.2.2⟩

theorem Memory.under_wf (m : Memory) (ga key : Nat) (wr : Bool) (h : m.wf = true) : (m.under ga key wr).wf = true := by
  have hk : ∀ b : Nat, ({ m with keys := put m.keys b key } : Memory).wf = true := fun b => by
    rw [Memory.wf_iff] at h ⊢
    exact ⟨h.1, h.2.1, h.2.2.1, h.2.2.2.1, h.2.2.2.2.1, rising_put _ _ _ h.2.2.2.2.2⟩
  simp only [Memory.under]
  split
  · exact h
  · split
    · split
      · exact hk _
      · exact h
    · split
      · exact h
      · exact Memory.write_wf _ _ _ _ (hk _)

theorem Memory.underAll_wf (m : Memory) (ga key : Nat) (wr : Bool) (n : Nat) (h : m.wf = true) :
    (m.underAll ga key wr n).wf = true := by
  induction n generalizing m ga with
  | zero => exact h
  | succ n ih => exact ih _ _ (m.under_wf _ _ _ h)

theorem Memory.publish_wf (m : Memory) (ga data it writer : Nat) (h : m.wf = true) : (m.publish ga data it writer).wf = true :=
  Memory.setBlock_wf _ _ _ (Memory.setFulls_wf _ _ _ _ (m.write_wf _ _ _ h))

theorem Memory.zero_wf (m : Memory) (a n : Nat) (h : m.wf = true) : (m.zero a n).wf = true := by
  rw [Memory.wf_iff] at h ⊢
  exact ⟨rising_filter _ _ h.1, fun c hc => h.2.1 c (List.mem_filter.mp hc).1, h.2.2⟩

/-- A write to a booth's space keeps the canonical form. -/
theorem State.spaceWriteGo_wf (p b : Nat) (key : Option Nat) (sup : Bool) (l : List (Nat × Nat)) (v : Nat) (s : State)
    (h : s.mem.wf = true) : (s.spaceWriteGo p b key sup l v).mem.wf = true := by
  induction l generalizing s v with
  | nil => exact h
  | cons x l ih =>
    obtain ⟨va, k⟩ := x
    refine ih _ _ ?_
    dsimp only
    split
    · exact h
    · exact Memory.write_wf _ _ _ _ (Memory.underAll_wf _ _ _ _ _ h)

/-- A write to a thread's window keeps the canonical form, wherever the bank stands. -/
theorem State.winWrite_wf (s : State) (uid : Nat) (t : Thread) (off n v : Nat) (h : s.mem.wf = true) :
    (s.winWrite uid t off n v).mem.wf = true := by
  unfold State.winWrite
  split
  · exact Memory.write_wf _ _ _ _ h
  · exact State.spaceWriteGo_wf _ _ _ _ _ _ _ h
  · exact h
  · exact h

theorem State.writeElems_wf (uid : Nat) (th : Thread) (t : Stream) (l : List Word) (s : State) (j : Nat) (h : s.mem.wf = true) :
    (s.writeElems uid th t j l).mem.wf = true := by
  induction l generalizing s j with
  | nil => exact h
  | cons w l ih => exact ih _ _ (s.winWrite_wf _ _ _ _ _ h)

theorem State.flushRegs_wf (s : State) (uid : Nat) (th : Thread) (r : SlotRegs) (h : s.mem.wf = true) :
    (s.flushRegs uid th r).mem.wf = true := by
  unfold State.flushRegs
  generalize r.streams.toList = l
  induction l generalizing s with
  | nil => exact h
  | cons o l ih =>
    refine ih _ ?_
    cases o with
    | none => exact h
    | some t => exact State.writeElems_wf _ _ _ _ _ _ h

theorem SyncOp.perform_wf (o : SyncOp) (m : Memory) (ga : Nat) (w : Word) (h : m.wf = true) :
    (o.perform m ga w).1.wf = true := by
  cases o <;> simp only [SyncOp.perform]
  · exact m.setFull_wf _ _ h
  · exact h
  · exact h
  · exact (m.write ga 8 _).setFull_wf _ _ (m.write_wf _ _ _ h)
  · exact (m.write ga 8 _).setFull_wf _ _ (m.write_wf _ _ _ h)
  · exact m.setFull_wf _ _ h

/-! ### Reads after writes -/

@[simp] theorem Memory.byte_setByte_same (m : Memory) (a : Nat) (b : Byte) : (m.setByte a b).byte a = b := getD_putD_same _ _ _ _

theorem Memory.byte_setByte_ne (m : Memory) (a x : Nat) (b : Byte) (hx : a ≠ x) : (m.setByte a b).byte x = m.byte x :=
  getD_putD_ne _ _ _ _ _ hx

/-- A write leaves every byte outside the bytes written alone. -/
theorem Memory.byte_write_outside (m : Memory) (a n v x : Nat) (hx : x < a ∨ a + n ≤ x) : (m.write a n v).byte x = m.byte x := by
  induction n generalizing m a v with
  | zero => rfl
  | succ n ih =>
    simp only [Memory.write]
    rw [ih _ _ _ (by omega), m.byte_setByte_ne _ _ _ (by omega)]

/-- A read of the bytes just written gives the value written. -/
@[simp] theorem Memory.read_write_same (m : Memory) (a n v : Nat) : (m.write a n v).read a n = v % 2 ^ (8 * n) := by
  induction n generalizing m a v with
  | zero => simp [Memory.read, Nat.mod_one]
  | succ n ih =>
    simp only [Memory.write, Memory.read]
    rw [ih, Memory.byte_write_outside _ _ _ _ _ (by omega), m.byte_setByte_same]
    have h1 : (2 : Nat) ^ (8 * (n + 1)) = 256 * 2 ^ (8 * n) := by
      rw [show 8 * (n + 1) = 8 + 8 * n by omega, Nat.pow_add]
    rw [h1, Nat.mod_mul, BitVec.toNat_ofNat]

/-- A read elsewhere is not changed by a write. -/
theorem Memory.read_write_outside (m : Memory) (a n v b k : Nat) (hb : b + k ≤ a ∨ a + n ≤ b) :
    (m.write a n v).read b k = m.read b k := by
  induction k generalizing b with
  | zero => rfl
  | succ k ih =>
    simp only [Memory.read]
    rw [m.byte_write_outside _ _ _ _ (by omega), ih _ (by omega)]

/-- A value read has no more bits than the bytes read. -/
theorem Memory.read_lt (m : Memory) (a n : Nat) : m.read a n < 2 ^ (8 * n) := by
  induction n generalizing a with
  | zero => simp [Memory.read]
  | succ n ih =>
    simp only [Memory.read]
    have h1 : (2 : Nat) ^ (8 * (n + 1)) = 256 * 2 ^ (8 * n) := by
      rw [show 8 * (n + 1) = 8 + 8 * n by omega, Nat.pow_add]
    have h2 := ih (a + 1)
    have h3 := (m.byte a).isLt
    omega

/-- A write of bytes changes no full/empty bit and no block. -/
@[simp] theorem Memory.write_full (m : Memory) (a n v : Nat) : (m.write a n v).full = m.full := by
  induction n generalizing m a v with
  | zero => rfl
  | succ n ih => exact ih _ _ _

@[simp] theorem Memory.write_blocks (m : Memory) (a n v : Nat) : (m.write a n v).blocks = m.blocks := by
  induction n generalizing m a v with
  | zero => rfl
  | succ n ih => exact ih _ _ _

@[simp] theorem Memory.setFull_bytes (m : Memory) (a : Nat) (f : Bool) : (m.setFull a f).bytes = m.bytes := rfl
@[simp] theorem Memory.setBlock_bytes (m : Memory) (a : Nat) (b : Block) : (m.setBlock a b).bytes = m.bytes := rfl
@[simp] theorem Memory.setFull_blocks (m : Memory) (a : Nat) (f : Bool) : (m.setFull a f).blocks = m.blocks := rfl
@[simp] theorem Memory.setBlock_full (m : Memory) (a : Nat) (b : Block) : (m.setBlock a b).full = m.full := rfl

@[simp] theorem Memory.write_keys (m : Memory) (a n v : Nat) : (m.write a n v).keys = m.keys := by
  induction n generalizing m a v with
  | zero => rfl
  | succ n ih => exact ih _ _ _
@[simp] theorem Memory.setFull_keys (m : Memory) (a : Nat) (f : Bool) : (m.setFull a f).keys = m.keys := rfl
@[simp] theorem Memory.setBlock_keys (m : Memory) (a : Nat) (b : Block) : (m.setBlock a b).keys = m.keys := rfl

/-- Setting a word's full/empty bit sets that word's bit. -/
@[simp] theorem Memory.isFull_setFull_same (m : Memory) (a : Nat) (f : Bool) : (m.setFull a f).isFull a = f := by
  cases f <;> simp [Memory.isFull, Memory.setFull]

/-- It leaves every other word's bit alone. -/
theorem Memory.isFull_setFull_ne (m : Memory) (a x : Nat) (f : Bool) (hx : a / 8 ≠ x / 8) : (m.setFull a f).isFull x = m.isFull x := by
  have hn : x - x % 8 ≠ a - a % 8 := by omega
  cases f <;> simp [Memory.isFull, Memory.setFull, hn]

/-! ### Keys (R388, R389) -/

/-- A scratchpad word stands under no key. -/
theorem Memory.under_scratchpad (m : Memory) (ga key : Nat) (wr : Bool) (h : 2 ^ 64 ≤ ga) : m.under ga key wr = m := by
  simp only [Memory.under]
  rw [if_pos h]

/-- A block under the mapping's own key is seen as it is. -/
theorem Memory.under_same (m : Memory) (ga key : Nat) (wr : Bool) (h : find m.keys (ga - ga % 512) = some key) :
    m.under ga key wr = m := by
  simp only [Memory.under, h]
  split <;> simp

/-- A change of key touches no full/empty bit and no block. -/
@[simp] theorem Memory.under_full (m : Memory) (ga key : Nat) (wr : Bool) : (m.under ga key wr).full = m.full := by
  simp only [Memory.under]
  split
  · rfl
  · split <;> split <;> simp
@[simp] theorem Memory.under_blocks (m : Memory) (ga key : Nat) (wr : Bool) : (m.under ga key wr).blocks = m.blocks := by
  simp only [Memory.under]
  split
  · rfl
  · split <;> split <;> simp

/-- It leaves every other block alone. -/
theorem Memory.under_byte (m : Memory) (ga key x : Nat) (wr : Bool) (h : x / 512 ≠ ga / 512) :
    (m.under ga key wr).byte x = m.byte x := by
  simp only [Memory.under]
  split
  · rfl
  · split
    · split <;> rfl
    · split
      · rfl
      · rw [Memory.byte_write_outside _ _ _ _ _ (by omega)]; rfl

end Sys2Proof.Machine
end

