-- ==== Sys2Proof/Laws/State.lean ====
section
/-! SUPPORT. The fields of a state after each named update: what the update sets, and every other field as it was. -/

namespace Sys2Proof.Machine
open Tables

/-! ### setSlot -/

@[simp] theorem State.setSlot_mem (s : State) (key : Nat) (x : Slot) : (s.setSlot key x).mem = s.mem := rfl
@[simp] theorem State.setSlot_threads (s : State) (key : Nat) (x : Slot) : (s.setSlot key x).threads = s.threads := rfl
@[simp] theorem State.setSlot_slots (s : State) (key : Nat) (x : Slot) : (s.setSlot key x).slots = put s.slots key x := rfl
@[simp] theorem State.setSlot_cores (s : State) (key : Nat) (x : Slot) : (s.setSlot key x).cores = s.cores := rfl
@[simp] theorem State.setSlot_booths (s : State) (key : Nat) (x : Slot) : (s.setSlot key x).booths = s.booths := rfl
@[simp] theorem State.setSlot_maps (s : State) (key : Nat) (x : Slot) : (s.setSlot key x).maps = s.maps := rfl
@[simp] theorem State.setSlot_l2 (s : State) (key : Nat) (x : Slot) : (s.setSlot key x).l2 = s.l2 := rfl
@[simp] theorem State.setSlot_walks (s : State) (key : Nat) (x : Slot) : (s.setSlot key x).walks = s.walks := rfl
@[simp] theorem State.setSlot_net (s : State) (key : Nat) (x : Slot) : (s.setSlot key x).net = s.net := rfl
@[simp] theorem State.setSlot_switches (s : State) (key : Nat) (x : Slot) : (s.setSlot key x).switches = s.switches := rfl
@[simp] theorem State.setSlot_bufFlits (s : State) (key : Nat) (x : Slot) : (s.setSlot key x).bufFlits = s.bufFlits := rfl
@[simp] theorem State.setSlot_queueFlits (s : State) (key : Nat) (x : Slot) : (s.setSlot key x).queueFlits = s.queueFlits := rfl
@[simp] theorem State.setSlot_feWait (s : State) (key : Nat) (x : Slot) : (s.setSlot key x).feWait = s.feWait := rfl
@[simp] theorem State.setSlot_agedWait (s : State) (key : Nat) (x : Slot) : (s.setSlot key x).agedWait = s.agedWait := rfl
@[simp] theorem State.setSlot_stops (s : State) (key : Nat) (x : Slot) : (s.setSlot key x).stops = s.stops := rfl
@[simp] theorem State.setSlot_rings (s : State) (key : Nat) (x : Slot) : (s.setSlot key x).rings = s.rings := rfl
@[simp] theorem State.setSlot_watch (s : State) (key : Nat) (x : Slot) : (s.setSlot key x).watch = s.watch := rfl
@[simp] theorem State.setSlot_uncredited (s : State) (key : Nat) (x : Slot) : (s.setSlot key x).uncredited = s.uncredited := rfl
@[simp] theorem State.setSlot_vqs (s : State) (key : Nat) (x : Slot) : (s.setSlot key x).vqs = s.vqs := rfl
@[simp] theorem State.setSlot_turns (s : State) (key : Nat) (x : Slot) : (s.setSlot key x).turns = s.turns := rfl
@[simp] theorem State.setSlot_nturns (s : State) (key : Nat) (x : Slot) : (s.setSlot key x).nturns = s.nturns := rfl
@[simp] theorem State.setSlot_pulses (s : State) (key : Nat) (x : Slot) : (s.setSlot key x).pulses = s.pulses := rfl
@[simp] theorem State.setSlot_nqs (s : State) (key : Nat) (x : Slot) : (s.setSlot key x).nqs = s.nqs := rfl
@[simp] theorem State.setSlot_ether (s : State) (key : Nat) (x : Slot) : (s.setSlot key x).ether = s.ether := rfl
@[simp] theorem State.setSlot_etherAddrs (s : State) (key : Nat) (x : Slot) : (s.setSlot key x).etherAddrs = s.etherAddrs := rfl
@[simp] theorem State.setSlot_etherLost (s : State) (key : Nat) (x : Slot) : (s.setSlot key x).etherLost = s.etherLost := rfl
@[simp] theorem State.setSlot_nextRid (s : State) (key : Nat) (x : Slot) : (s.setSlot key x).nextRid = s.nextRid := rfl
@[simp] theorem State.setSlot_linkNet (s : State) (key : Nat) (x : Slot) : (s.setSlot key x).linkNet = s.linkNet := rfl
@[simp] theorem State.setSlot_stitch (s : State) (key : Nat) (x : Slot) : (s.setSlot key x).stitch = s.stitch := rfl
@[simp] theorem State.setSlot_cxl (s : State) (key : Nat) (x : Slot) : (s.setSlot key x).cxl = s.cxl := rfl
@[simp] theorem State.setSlot_lacking (s : State) (key : Nat) (x : Slot) : (s.setSlot key x).lacking = s.lacking := rfl
@[simp] theorem State.setSlot_launches (s : State) (key : Nat) (x : Slot) : (s.setSlot key x).launches = s.launches := rfl
@[simp] theorem State.setSlot_nextLaunch (s : State) (key : Nat) (x : Slot) : (s.setSlot key x).nextLaunch = s.nextLaunch := rfl
@[simp] theorem State.setSlot_spawnQ (s : State) (key : Nat) (x : Slot) : (s.setSlot key x).spawnQ = s.spawnQ := rfl
@[simp] theorem State.setSlot_chans (s : State) (key : Nat) (x : Slot) : (s.setSlot key x).chans = s.chans := rfl
@[simp] theorem State.setSlot_preempts (s : State) (key : Nat) (x : Slot) : (s.setSlot key x).preempts = s.preempts := rfl
@[simp] theorem State.setSlot_images (s : State) (key : Nat) (x : Slot) : (s.setSlot key x).images = s.images := rfl
@[simp] theorem State.setSlot_spillAreas (s : State) (key : Nat) (x : Slot) : (s.setSlot key x).spillAreas = s.spillAreas := rfl
@[simp] theorem State.setSlot_receipts (s : State) (key : Nat) (x : Slot) : (s.setSlot key x).receipts = s.receipts := rfl
@[simp] theorem State.setSlot_handovers (s : State) (key : Nat) (x : Slot) : (s.setSlot key x).handovers = s.handovers := rfl
@[simp] theorem State.setSlot_areas (s : State) (key : Nat) (x : Slot) : (s.setSlot key x).areas = s.areas := rfl
@[simp] theorem State.setSlot_areaKeys (s : State) (key : Nat) (x : Slot) : (s.setSlot key x).areaKeys = s.areaKeys := rfl
@[simp] theorem State.setSlot_areaBanks (s : State) (key : Nat) (x : Slot) : (s.setSlot key x).areaBanks = s.areaBanks := rfl
@[simp] theorem State.setSlot_areaSlots (s : State) (key : Nat) (x : Slot) : (s.setSlot key x).areaSlots = s.areaSlots := rfl
@[simp] theorem State.setSlot_nextHandover (s : State) (key : Nat) (x : Slot) : (s.setSlot key x).nextHandover = s.nextHandover := rfl
@[simp] theorem State.setSlot_pkgs (s : State) (key : Nat) (x : Slot) : (s.setSlot key x).pkgs = s.pkgs := rfl
@[simp] theorem State.setSlot_regions (s : State) (key : Nat) (x : Slot) : (s.setSlot key x).regions = s.regions := rfl
@[simp] theorem State.setSlot_boothPkgs (s : State) (key : Nat) (x : Slot) : (s.setSlot key x).boothPkgs = s.boothPkgs := rfl
@[simp] theorem State.setSlot_gangs (s : State) (key : Nat) (x : Slot) : (s.setSlot key x).gangs = s.gangs := rfl
@[simp] theorem State.setSlot_grants (s : State) (key : Nat) (x : Slot) : (s.setSlot key x).grants = s.grants := rfl
@[simp] theorem State.setSlot_hostRing (s : State) (key : Nat) (x : Slot) : (s.setSlot key x).hostRing = s.hostRing := rfl
@[simp] theorem State.setSlot_bootAreas (s : State) (key : Nat) (x : Slot) : (s.setSlot key x).bootAreas = s.bootAreas := rfl
@[simp] theorem State.setSlot_repairs (s : State) (key : Nat) (x : Slot) : (s.setSlot key x).repairs = s.repairs := rfl
@[simp] theorem State.setSlot_mfg (s : State) (key : Nat) (x : Slot) : (s.setSlot key x).mfg = s.mfg := rfl
@[simp] theorem State.setSlot_defects (s : State) (key : Nat) (x : Slot) : (s.setSlot key x).defects = s.defects := rfl
@[simp] theorem State.setSlot_sparesUsed (s : State) (key : Nat) (x : Slot) : (s.setSlot key x).sparesUsed = s.sparesUsed := rfl
@[simp] theorem State.setSlot_rowsUsed (s : State) (key : Nat) (x : Slot) : (s.setSlot key x).rowsUsed = s.rowsUsed := rfl
@[simp] theorem State.setSlot_cur (s : State) (key : Nat) (x : Slot) : (s.setSlot key x).cur = s.cur := rfl
@[simp] theorem State.setSlot_bun (s : State) (key : Nat) (x : Slot) : (s.setSlot key x).bun = s.bun := rfl
@[simp] theorem State.setSlot_agenda (s : State) (key : Nat) (x : Slot) : (s.setSlot key x).agenda = s.agenda := rfl
@[simp] theorem State.setSlot_cycle (s : State) (key : Nat) (x : Slot) : (s.setSlot key x).cycle = s.cycle := rfl
@[simp] theorem State.setSlot_nextUid (s : State) (key : Nat) (x : Slot) : (s.setSlot key x).nextUid = s.nextUid := rfl
@[simp] theorem State.setSlot_nextMid (s : State) (key : Nat) (x : Slot) : (s.setSlot key x).nextMid = s.nextMid := rfl
@[simp] theorem State.setSlot_fresh (s : State) (key : Nat) (x : Slot) : (s.setSlot key x).fresh = s.fresh := rfl

/-! ### setCore -/

@[simp] theorem State.setCore_mem (s : State) (cid : Nat) (x : Core) : (s.setCore cid x).mem = s.mem := rfl
@[simp] theorem State.setCore_threads (s : State) (cid : Nat) (x : Core) : (s.setCore cid x).threads = s.threads := rfl
@[simp] theorem State.setCore_slots (s : State) (cid : Nat) (x : Core) : (s.setCore cid x).slots = s.slots := rfl
@[simp] theorem State.setCore_cores (s : State) (cid : Nat) (x : Core) : (s.setCore cid x).cores = put s.cores cid x := rfl
@[simp] theorem State.setCore_booths (s : State) (cid : Nat) (x : Core) : (s.setCore cid x).booths = s.booths := rfl
@[simp] theorem State.setCore_maps (s : State) (cid : Nat) (x : Core) : (s.setCore cid x).maps = s.maps := rfl
@[simp] theorem State.setCore_l2 (s : State) (cid : Nat) (x : Core) : (s.setCore cid x).l2 = s.l2 := rfl
@[simp] theorem State.setCore_walks (s : State) (cid : Nat) (x : Core) : (s.setCore cid x).walks = s.walks := rfl
@[simp] theorem State.setCore_net (s : State) (cid : Nat) (x : Core) : (s.setCore cid x).net = s.net := rfl
@[simp] theorem State.setCore_switches (s : State) (cid : Nat) (x : Core) : (s.setCore cid x).switches = s.switches := rfl
@[simp] theorem State.setCore_bufFlits (s : State) (cid : Nat) (x : Core) : (s.setCore cid x).bufFlits = s.bufFlits := rfl
@[simp] theorem State.setCore_queueFlits (s : State) (cid : Nat) (x : Core) : (s.setCore cid x).queueFlits = s.queueFlits := rfl
@[simp] theorem State.setCore_feWait (s : State) (cid : Nat) (x : Core) : (s.setCore cid x).feWait = s.feWait := rfl
@[simp] theorem State.setCore_agedWait (s : State) (cid : Nat) (x : Core) : (s.setCore cid x).agedWait = s.agedWait := rfl
@[simp] theorem State.setCore_stops (s : State) (cid : Nat) (x : Core) : (s.setCore cid x).stops = s.stops := rfl
@[simp] theorem State.setCore_rings (s : State) (cid : Nat) (x : Core) : (s.setCore cid x).rings = s.rings := rfl
@[simp] theorem State.setCore_watch (s : State) (cid : Nat) (x : Core) : (s.setCore cid x).watch = s.watch := rfl
@[simp] theorem State.setCore_uncredited (s : State) (cid : Nat) (x : Core) : (s.setCore cid x).uncredited = s.uncredited := rfl
@[simp] theorem State.setCore_vqs (s : State) (cid : Nat) (x : Core) : (s.setCore cid x).vqs = s.vqs := rfl
@[simp] theorem State.setCore_turns (s : State) (cid : Nat) (x : Core) : (s.setCore cid x).turns = s.turns := rfl
@[simp] theorem State.setCore_nturns (s : State) (cid : Nat) (x : Core) : (s.setCore cid x).nturns = s.nturns := rfl
@[simp] theorem State.setCore_pulses (s : State) (cid : Nat) (x : Core) : (s.setCore cid x).pulses = s.pulses := rfl
@[simp] theorem State.setCore_nqs (s : State) (cid : Nat) (x : Core) : (s.setCore cid x).nqs = s.nqs := rfl
@[simp] theorem State.setCore_ether (s : State) (cid : Nat) (x : Core) : (s.setCore cid x).ether = s.ether := rfl
@[simp] theorem State.setCore_etherAddrs (s : State) (cid : Nat) (x : Core) : (s.setCore cid x).etherAddrs = s.etherAddrs := rfl
@[simp] theorem State.setCore_etherLost (s : State) (cid : Nat) (x : Core) : (s.setCore cid x).etherLost = s.etherLost := rfl
@[simp] theorem State.setCore_nextRid (s : State) (cid : Nat) (x : Core) : (s.setCore cid x).nextRid = s.nextRid := rfl
@[simp] theorem State.setCore_linkNet (s : State) (cid : Nat) (x : Core) : (s.setCore cid x).linkNet = s.linkNet := rfl
@[simp] theorem State.setCore_stitch (s : State) (cid : Nat) (x : Core) : (s.setCore cid x).stitch = s.stitch := rfl
@[simp] theorem State.setCore_cxl (s : State) (cid : Nat) (x : Core) : (s.setCore cid x).cxl = s.cxl := rfl
@[simp] theorem State.setCore_lacking (s : State) (cid : Nat) (x : Core) : (s.setCore cid x).lacking = s.lacking := rfl
@[simp] theorem State.setCore_launches (s : State) (cid : Nat) (x : Core) : (s.setCore cid x).launches = s.launches := rfl
@[simp] theorem State.setCore_nextLaunch (s : State) (cid : Nat) (x : Core) : (s.setCore cid x).nextLaunch = s.nextLaunch := rfl
@[simp] theorem State.setCore_spawnQ (s : State) (cid : Nat) (x : Core) : (s.setCore cid x).spawnQ = s.spawnQ := rfl
@[simp] theorem State.setCore_chans (s : State) (cid : Nat) (x : Core) : (s.setCore cid x).chans = s.chans := rfl
@[simp] theorem State.setCore_preempts (s : State) (cid : Nat) (x : Core) : (s.setCore cid x).preempts = s.preempts := rfl
@[simp] theorem State.setCore_images (s : State) (cid : Nat) (x : Core) : (s.setCore cid x).images = s.images := rfl
@[simp] theorem State.setCore_spillAreas (s : State) (cid : Nat) (x : Core) : (s.setCore cid x).spillAreas = s.spillAreas := rfl
@[simp] theorem State.setCore_receipts (s : State) (cid : Nat) (x : Core) : (s.setCore cid x).receipts = s.receipts := rfl
@[simp] theorem State.setCore_handovers (s : State) (cid : Nat) (x : Core) : (s.setCore cid x).handovers = s.handovers := rfl
@[simp] theorem State.setCore_areas (s : State) (cid : Nat) (x : Core) : (s.setCore cid x).areas = s.areas := rfl
@[simp] theorem State.setCore_areaKeys (s : State) (cid : Nat) (x : Core) : (s.setCore cid x).areaKeys = s.areaKeys := rfl
@[simp] theorem State.setCore_areaBanks (s : State) (cid : Nat) (x : Core) : (s.setCore cid x).areaBanks = s.areaBanks := rfl
@[simp] theorem State.setCore_areaSlots (s : State) (cid : Nat) (x : Core) : (s.setCore cid x).areaSlots = s.areaSlots := rfl
@[simp] theorem State.setCore_nextHandover (s : State) (cid : Nat) (x : Core) : (s.setCore cid x).nextHandover = s.nextHandover := rfl
@[simp] theorem State.setCore_pkgs (s : State) (cid : Nat) (x : Core) : (s.setCore cid x).pkgs = s.pkgs := rfl
@[simp] theorem State.setCore_regions (s : State) (cid : Nat) (x : Core) : (s.setCore cid x).regions = s.regions := rfl
@[simp] theorem State.setCore_boothPkgs (s : State) (cid : Nat) (x : Core) : (s.setCore cid x).boothPkgs = s.boothPkgs := rfl
@[simp] theorem State.setCore_gangs (s : State) (cid : Nat) (x : Core) : (s.setCore cid x).gangs = s.gangs := rfl
@[simp] theorem State.setCore_grants (s : State) (cid : Nat) (x : Core) : (s.setCore cid x).grants = s.grants := rfl
@[simp] theorem State.setCore_hostRing (s : State) (cid : Nat) (x : Core) : (s.setCore cid x).hostRing = s.hostRing := rfl
@[simp] theorem State.setCore_bootAreas (s : State) (cid : Nat) (x : Core) : (s.setCore cid x).bootAreas = s.bootAreas := rfl
@[simp] theorem State.setCore_repairs (s : State) (cid : Nat) (x : Core) : (s.setCore cid x).repairs = s.repairs := rfl
@[simp] theorem State.setCore_mfg (s : State) (cid : Nat) (x : Core) : (s.setCore cid x).mfg = s.mfg := rfl
@[simp] theorem State.setCore_defects (s : State) (cid : Nat) (x : Core) : (s.setCore cid x).defects = s.defects := rfl
@[simp] theorem State.setCore_sparesUsed (s : State) (cid : Nat) (x : Core) : (s.setCore cid x).sparesUsed = s.sparesUsed := rfl
@[simp] theorem State.setCore_rowsUsed (s : State) (cid : Nat) (x : Core) : (s.setCore cid x).rowsUsed = s.rowsUsed := rfl
@[simp] theorem State.setCore_cur (s : State) (cid : Nat) (x : Core) : (s.setCore cid x).cur = s.cur := rfl
@[simp] theorem State.setCore_bun (s : State) (cid : Nat) (x : Core) : (s.setCore cid x).bun = s.bun := rfl
@[simp] theorem State.setCore_agenda (s : State) (cid : Nat) (x : Core) : (s.setCore cid x).agenda = s.agenda := rfl
@[simp] theorem State.setCore_cycle (s : State) (cid : Nat) (x : Core) : (s.setCore cid x).cycle = s.cycle := rfl
@[simp] theorem State.setCore_nextUid (s : State) (cid : Nat) (x : Core) : (s.setCore cid x).nextUid = s.nextUid := rfl
@[simp] theorem State.setCore_nextMid (s : State) (cid : Nat) (x : Core) : (s.setCore cid x).nextMid = s.nextMid := rfl
@[simp] theorem State.setCore_fresh (s : State) (cid : Nat) (x : Core) : (s.setCore cid x).fresh = s.fresh := rfl

/-! ### setBc -/

@[simp] theorem State.setBc_mem (s : State) (cid b : Nat) (x : BoothCore) : (s.setBc cid b x).mem = s.mem := rfl
@[simp] theorem State.setBc_threads (s : State) (cid b : Nat) (x : BoothCore) : (s.setBc cid b x).threads = s.threads := rfl
@[simp] theorem State.setBc_slots (s : State) (cid b : Nat) (x : BoothCore) : (s.setBc cid b x).slots = s.slots := rfl
@[simp] theorem State.setBc_cores (s : State) (cid b : Nat) (x : BoothCore) : (s.setBc cid b x).cores = s.cores := rfl
@[simp] theorem State.setBc_booths (s : State) (cid b : Nat) (x : BoothCore) : (s.setBc cid b x).booths = put s.booths (cid * 64 + b) x := rfl
@[simp] theorem State.setBc_maps (s : State) (cid b : Nat) (x : BoothCore) : (s.setBc cid b x).maps = s.maps := rfl
@[simp] theorem State.setBc_l2 (s : State) (cid b : Nat) (x : BoothCore) : (s.setBc cid b x).l2 = s.l2 := rfl
@[simp] theorem State.setBc_walks (s : State) (cid b : Nat) (x : BoothCore) : (s.setBc cid b x).walks = s.walks := rfl
@[simp] theorem State.setBc_net (s : State) (cid b : Nat) (x : BoothCore) : (s.setBc cid b x).net = s.net := rfl
@[simp] theorem State.setBc_switches (s : State) (cid b : Nat) (x : BoothCore) : (s.setBc cid b x).switches = s.switches := rfl
@[simp] theorem State.setBc_bufFlits (s : State) (cid b : Nat) (x : BoothCore) : (s.setBc cid b x).bufFlits = s.bufFlits := rfl
@[simp] theorem State.setBc_queueFlits (s : State) (cid b : Nat) (x : BoothCore) : (s.setBc cid b x).queueFlits = s.queueFlits := rfl
@[simp] theorem State.setBc_feWait (s : State) (cid b : Nat) (x : BoothCore) : (s.setBc cid b x).feWait = s.feWait := rfl
@[simp] theorem State.setBc_agedWait (s : State) (cid b : Nat) (x : BoothCore) : (s.setBc cid b x).agedWait = s.agedWait := rfl
@[simp] theorem State.setBc_stops (s : State) (cid b : Nat) (x : BoothCore) : (s.setBc cid b x).stops = s.stops := rfl
@[simp] theorem State.setBc_rings (s : State) (cid b : Nat) (x : BoothCore) : (s.setBc cid b x).rings = s.rings := rfl
@[simp] theorem State.setBc_watch (s : State) (cid b : Nat) (x : BoothCore) : (s.setBc cid b x).watch = s.watch := rfl
@[simp] theorem State.setBc_uncredited (s : State) (cid b : Nat) (x : BoothCore) : (s.setBc cid b x).uncredited = s.uncredited := rfl
@[simp] theorem State.setBc_vqs (s : State) (cid b : Nat) (x : BoothCore) : (s.setBc cid b x).vqs = s.vqs := rfl
@[simp] theorem State.setBc_turns (s : State) (cid b : Nat) (x : BoothCore) : (s.setBc cid b x).turns = s.turns := rfl
@[simp] theorem State.setBc_nturns (s : State) (cid b : Nat) (x : BoothCore) : (s.setBc cid b x).nturns = s.nturns := rfl
@[simp] theorem State.setBc_pulses (s : State) (cid b : Nat) (x : BoothCore) : (s.setBc cid b x).pulses = s.pulses := rfl
@[simp] theorem State.setBc_nqs (s : State) (cid b : Nat) (x : BoothCore) : (s.setBc cid b x).nqs = s.nqs := rfl
@[simp] theorem State.setBc_ether (s : State) (cid b : Nat) (x : BoothCore) : (s.setBc cid b x).ether = s.ether := rfl
@[simp] theorem State.setBc_etherAddrs (s : State) (cid b : Nat) (x : BoothCore) : (s.setBc cid b x).etherAddrs = s.etherAddrs := rfl
@[simp] theorem State.setBc_etherLost (s : State) (cid b : Nat) (x : BoothCore) : (s.setBc cid b x).etherLost = s.etherLost := rfl
@[simp] theorem State.setBc_nextRid (s : State) (cid b : Nat) (x : BoothCore) : (s.setBc cid b x).nextRid = s.nextRid := rfl
@[simp] theorem State.setBc_linkNet (s : State) (cid b : Nat) (x : BoothCore) : (s.setBc cid b x).linkNet = s.linkNet := rfl
@[simp] theorem State.setBc_stitch (s : State) (cid b : Nat) (x : BoothCore) : (s.setBc cid b x).stitch = s.stitch := rfl
@[simp] theorem State.setBc_cxl (s : State) (cid b : Nat) (x : BoothCore) : (s.setBc cid b x).cxl = s.cxl := rfl
@[simp] theorem State.setBc_lacking (s : State) (cid b : Nat) (x : BoothCore) : (s.setBc cid b x).lacking = s.lacking := rfl
@[simp] theorem State.setBc_launches (s : State) (cid b : Nat) (x : BoothCore) : (s.setBc cid b x).launches = s.launches := rfl
@[simp] theorem State.setBc_nextLaunch (s : State) (cid b : Nat) (x : BoothCore) : (s.setBc cid b x).nextLaunch = s.nextLaunch := rfl
@[simp] theorem State.setBc_spawnQ (s : State) (cid b : Nat) (x : BoothCore) : (s.setBc cid b x).spawnQ = s.spawnQ := rfl
@[simp] theorem State.setBc_chans (s : State) (cid b : Nat) (x : BoothCore) : (s.setBc cid b x).chans = s.chans := rfl
@[simp] theorem State.setBc_preempts (s : State) (cid b : Nat) (x : BoothCore) : (s.setBc cid b x).preempts = s.preempts := rfl
@[simp] theorem State.setBc_images (s : State) (cid b : Nat) (x : BoothCore) : (s.setBc cid b x).images = s.images := rfl
@[simp] theorem State.setBc_spillAreas (s : State) (cid b : Nat) (x : BoothCore) : (s.setBc cid b x).spillAreas = s.spillAreas := rfl
@[simp] theorem State.setBc_receipts (s : State) (cid b : Nat) (x : BoothCore) : (s.setBc cid b x).receipts = s.receipts := rfl
@[simp] theorem State.setBc_handovers (s : State) (cid b : Nat) (x : BoothCore) : (s.setBc cid b x).handovers = s.handovers := rfl
@[simp] theorem State.setBc_areas (s : State) (cid b : Nat) (x : BoothCore) : (s.setBc cid b x).areas = s.areas := rfl
@[simp] theorem State.setBc_areaKeys (s : State) (cid b : Nat) (x : BoothCore) : (s.setBc cid b x).areaKeys = s.areaKeys := rfl
@[simp] theorem State.setBc_areaBanks (s : State) (cid b : Nat) (x : BoothCore) : (s.setBc cid b x).areaBanks = s.areaBanks := rfl
@[simp] theorem State.setBc_areaSlots (s : State) (cid b : Nat) (x : BoothCore) : (s.setBc cid b x).areaSlots = s.areaSlots := rfl
@[simp] theorem State.setBc_nextHandover (s : State) (cid b : Nat) (x : BoothCore) : (s.setBc cid b x).nextHandover = s.nextHandover := rfl
@[simp] theorem State.setBc_pkgs (s : State) (cid b : Nat) (x : BoothCore) : (s.setBc cid b x).pkgs = s.pkgs := rfl
@[simp] theorem State.setBc_regions (s : State) (cid b : Nat) (x : BoothCore) : (s.setBc cid b x).regions = s.regions := rfl
@[simp] theorem State.setBc_boothPkgs (s : State) (cid b : Nat) (x : BoothCore) : (s.setBc cid b x).boothPkgs = s.boothPkgs := rfl
@[simp] theorem State.setBc_gangs (s : State) (cid b : Nat) (x : BoothCore) : (s.setBc cid b x).gangs = s.gangs := rfl
@[simp] theorem State.setBc_grants (s : State) (cid b : Nat) (x : BoothCore) : (s.setBc cid b x).grants = s.grants := rfl
@[simp] theorem State.setBc_hostRing (s : State) (cid b : Nat) (x : BoothCore) : (s.setBc cid b x).hostRing = s.hostRing := rfl
@[simp] theorem State.setBc_bootAreas (s : State) (cid b : Nat) (x : BoothCore) : (s.setBc cid b x).bootAreas = s.bootAreas := rfl
@[simp] theorem State.setBc_repairs (s : State) (cid b : Nat) (x : BoothCore) : (s.setBc cid b x).repairs = s.repairs := rfl
@[simp] theorem State.setBc_mfg (s : State) (cid b : Nat) (x : BoothCore) : (s.setBc cid b x).mfg = s.mfg := rfl
@[simp] theorem State.setBc_defects (s : State) (cid b : Nat) (x : BoothCore) : (s.setBc cid b x).defects = s.defects := rfl
@[simp] theorem State.setBc_sparesUsed (s : State) (cid b : Nat) (x : BoothCore) : (s.setBc cid b x).sparesUsed = s.sparesUsed := rfl
@[simp] theorem State.setBc_rowsUsed (s : State) (cid b : Nat) (x : BoothCore) : (s.setBc cid b x).rowsUsed = s.rowsUsed := rfl
@[simp] theorem State.setBc_cur (s : State) (cid b : Nat) (x : BoothCore) : (s.setBc cid b x).cur = s.cur := rfl
@[simp] theorem State.setBc_bun (s : State) (cid b : Nat) (x : BoothCore) : (s.setBc cid b x).bun = s.bun := rfl
@[simp] theorem State.setBc_agenda (s : State) (cid b : Nat) (x : BoothCore) : (s.setBc cid b x).agenda = s.agenda := rfl
@[simp] theorem State.setBc_cycle (s : State) (cid b : Nat) (x : BoothCore) : (s.setBc cid b x).cycle = s.cycle := rfl
@[simp] theorem State.setBc_nextUid (s : State) (cid b : Nat) (x : BoothCore) : (s.setBc cid b x).nextUid = s.nextUid := rfl
@[simp] theorem State.setBc_nextMid (s : State) (cid b : Nat) (x : BoothCore) : (s.setBc cid b x).nextMid = s.nextMid := rfl
@[simp] theorem State.setBc_fresh (s : State) (cid b : Nat) (x : BoothCore) : (s.setBc cid b x).fresh = s.fresh := rfl

/-! ### setThread -/

@[simp] theorem State.setThread_mem (s : State) (u : Nat) (t : Thread) : (s.setThread u t).mem = s.mem := rfl
@[simp] theorem State.setThread_threads (s : State) (u : Nat) (t : Thread) : (s.setThread u t).threads = put s.threads u t := rfl
@[simp] theorem State.setThread_slots (s : State) (u : Nat) (t : Thread) : (s.setThread u t).slots = s.slots := rfl
@[simp] theorem State.setThread_cores (s : State) (u : Nat) (t : Thread) : (s.setThread u t).cores = s.cores := rfl
@[simp] theorem State.setThread_booths (s : State) (u : Nat) (t : Thread) : (s.setThread u t).booths = s.booths := rfl
@[simp] theorem State.setThread_maps (s : State) (u : Nat) (t : Thread) : (s.setThread u t).maps = s.maps := rfl
@[simp] theorem State.setThread_l2 (s : State) (u : Nat) (t : Thread) : (s.setThread u t).l2 = s.l2 := rfl
@[simp] theorem State.setThread_walks (s : State) (u : Nat) (t : Thread) : (s.setThread u t).walks = s.walks := rfl
@[simp] theorem State.setThread_net (s : State) (u : Nat) (t : Thread) : (s.setThread u t).net = s.net := rfl
@[simp] theorem State.setThread_switches (s : State) (u : Nat) (t : Thread) : (s.setThread u t).switches = s.switches := rfl
@[simp] theorem State.setThread_bufFlits (s : State) (u : Nat) (t : Thread) : (s.setThread u t).bufFlits = s.bufFlits := rfl
@[simp] theorem State.setThread_queueFlits (s : State) (u : Nat) (t : Thread) : (s.setThread u t).queueFlits = s.queueFlits := rfl
@[simp] theorem State.setThread_feWait (s : State) (u : Nat) (t : Thread) : (s.setThread u t).feWait = s.feWait := rfl
@[simp] theorem State.setThread_agedWait (s : State) (u : Nat) (t : Thread) : (s.setThread u t).agedWait = s.agedWait := rfl
@[simp] theorem State.setThread_stops (s : State) (u : Nat) (t : Thread) : (s.setThread u t).stops = s.stops := rfl
@[simp] theorem State.setThread_rings (s : State) (u : Nat) (t : Thread) : (s.setThread u t).rings = s.rings := rfl
@[simp] theorem State.setThread_watch (s : State) (u : Nat) (t : Thread) : (s.setThread u t).watch = s.watch := rfl
@[simp] theorem State.setThread_uncredited (s : State) (u : Nat) (t : Thread) : (s.setThread u t).uncredited = s.uncredited := rfl
@[simp] theorem State.setThread_vqs (s : State) (u : Nat) (t : Thread) : (s.setThread u t).vqs = s.vqs := rfl
@[simp] theorem State.setThread_turns (s : State) (u : Nat) (t : Thread) : (s.setThread u t).turns = s.turns := rfl
@[simp] theorem State.setThread_nturns (s : State) (u : Nat) (t : Thread) : (s.setThread u t).nturns = s.nturns := rfl
@[simp] theorem State.setThread_pulses (s : State) (u : Nat) (t : Thread) : (s.setThread u t).pulses = s.pulses := rfl
@[simp] theorem State.setThread_nqs (s : State) (u : Nat) (t : Thread) : (s.setThread u t).nqs = s.nqs := rfl
@[simp] theorem State.setThread_ether (s : State) (u : Nat) (t : Thread) : (s.setThread u t).ether = s.ether := rfl
@[simp] theorem State.setThread_etherAddrs (s : State) (u : Nat) (t : Thread) : (s.setThread u t).etherAddrs = s.etherAddrs := rfl
@[simp] theorem State.setThread_etherLost (s : State) (u : Nat) (t : Thread) : (s.setThread u t).etherLost = s.etherLost := rfl
@[simp] theorem State.setThread_nextRid (s : State) (u : Nat) (t : Thread) : (s.setThread u t).nextRid = s.nextRid := rfl
@[simp] theorem State.setThread_linkNet (s : State) (u : Nat) (t : Thread) : (s.setThread u t).linkNet = s.linkNet := rfl
@[simp] theorem State.setThread_stitch (s : State) (u : Nat) (t : Thread) : (s.setThread u t).stitch = s.stitch := rfl
@[simp] theorem State.setThread_cxl (s : State) (u : Nat) (t : Thread) : (s.setThread u t).cxl = s.cxl := rfl
@[simp] theorem State.setThread_lacking (s : State) (u : Nat) (t : Thread) : (s.setThread u t).lacking = s.lacking := rfl
@[simp] theorem State.setThread_launches (s : State) (u : Nat) (t : Thread) : (s.setThread u t).launches = s.launches := rfl
@[simp] theorem State.setThread_nextLaunch (s : State) (u : Nat) (t : Thread) : (s.setThread u t).nextLaunch = s.nextLaunch := rfl
@[simp] theorem State.setThread_spawnQ (s : State) (u : Nat) (t : Thread) : (s.setThread u t).spawnQ = s.spawnQ := rfl
@[simp] theorem State.setThread_chans (s : State) (u : Nat) (t : Thread) : (s.setThread u t).chans = s.chans := rfl
@[simp] theorem State.setThread_preempts (s : State) (u : Nat) (t : Thread) : (s.setThread u t).preempts = s.preempts := rfl
@[simp] theorem State.setThread_images (s : State) (u : Nat) (t : Thread) : (s.setThread u t).images = s.images := rfl
@[simp] theorem State.setThread_spillAreas (s : State) (u : Nat) (t : Thread) : (s.setThread u t).spillAreas = s.spillAreas := rfl
@[simp] theorem State.setThread_receipts (s : State) (u : Nat) (t : Thread) : (s.setThread u t).receipts = s.receipts := rfl
@[simp] theorem State.setThread_handovers (s : State) (u : Nat) (t : Thread) : (s.setThread u t).handovers = s.handovers := rfl
@[simp] theorem State.setThread_areas (s : State) (u : Nat) (t : Thread) : (s.setThread u t).areas = s.areas := rfl
@[simp] theorem State.setThread_areaKeys (s : State) (u : Nat) (t : Thread) : (s.setThread u t).areaKeys = s.areaKeys := rfl
@[simp] theorem State.setThread_areaBanks (s : State) (u : Nat) (t : Thread) : (s.setThread u t).areaBanks = s.areaBanks := rfl
@[simp] theorem State.setThread_areaSlots (s : State) (u : Nat) (t : Thread) : (s.setThread u t).areaSlots = s.areaSlots := rfl
@[simp] theorem State.setThread_nextHandover (s : State) (u : Nat) (t : Thread) : (s.setThread u t).nextHandover = s.nextHandover := rfl
@[simp] theorem State.setThread_pkgs (s : State) (u : Nat) (t : Thread) : (s.setThread u t).pkgs = s.pkgs := rfl
@[simp] theorem State.setThread_regions (s : State) (u : Nat) (t : Thread) : (s.setThread u t).regions = s.regions := rfl
@[simp] theorem State.setThread_boothPkgs (s : State) (u : Nat) (t : Thread) : (s.setThread u t).boothPkgs = s.boothPkgs := rfl
@[simp] theorem State.setThread_gangs (s : State) (u : Nat) (t : Thread) : (s.setThread u t).gangs = s.gangs := rfl
@[simp] theorem State.setThread_grants (s : State) (u : Nat) (t : Thread) : (s.setThread u t).grants = s.grants := rfl
@[simp] theorem State.setThread_hostRing (s : State) (u : Nat) (t : Thread) : (s.setThread u t).hostRing = s.hostRing := rfl
@[simp] theorem State.setThread_bootAreas (s : State) (u : Nat) (t : Thread) : (s.setThread u t).bootAreas = s.bootAreas := rfl
@[simp] theorem State.setThread_repairs (s : State) (u : Nat) (t : Thread) : (s.setThread u t).repairs = s.repairs := rfl
@[simp] theorem State.setThread_mfg (s : State) (u : Nat) (t : Thread) : (s.setThread u t).mfg = s.mfg := rfl
@[simp] theorem State.setThread_defects (s : State) (u : Nat) (t : Thread) : (s.setThread u t).defects = s.defects := rfl
@[simp] theorem State.setThread_sparesUsed (s : State) (u : Nat) (t : Thread) : (s.setThread u t).sparesUsed = s.sparesUsed := rfl
@[simp] theorem State.setThread_rowsUsed (s : State) (u : Nat) (t : Thread) : (s.setThread u t).rowsUsed = s.rowsUsed := rfl
@[simp] theorem State.setThread_cur (s : State) (u : Nat) (t : Thread) : (s.setThread u t).cur = s.cur := rfl
@[simp] theorem State.setThread_bun (s : State) (u : Nat) (t : Thread) : (s.setThread u t).bun = s.bun := rfl
@[simp] theorem State.setThread_agenda (s : State) (u : Nat) (t : Thread) : (s.setThread u t).agenda = s.agenda := rfl
@[simp] theorem State.setThread_cycle (s : State) (u : Nat) (t : Thread) : (s.setThread u t).cycle = s.cycle := rfl
@[simp] theorem State.setThread_nextUid (s : State) (u : Nat) (t : Thread) : (s.setThread u t).nextUid = s.nextUid := rfl
@[simp] theorem State.setThread_nextMid (s : State) (u : Nat) (t : Thread) : (s.setThread u t).nextMid = s.nextMid := rfl
@[simp] theorem State.setThread_fresh (s : State) (u : Nat) (t : Thread) : (s.setThread u t).fresh = s.fresh := rfl

/-! ### setVq -/

@[simp] theorem State.setVq_mem (s : State) (e b : Nat) (q : VQueue) : (s.setVq e b q).mem = s.mem := rfl
@[simp] theorem State.setVq_threads (s : State) (e b : Nat) (q : VQueue) : (s.setVq e b q).threads = s.threads := rfl
@[simp] theorem State.setVq_slots (s : State) (e b : Nat) (q : VQueue) : (s.setVq e b q).slots = s.slots := rfl
@[simp] theorem State.setVq_cores (s : State) (e b : Nat) (q : VQueue) : (s.setVq e b q).cores = s.cores := rfl
@[simp] theorem State.setVq_booths (s : State) (e b : Nat) (q : VQueue) : (s.setVq e b q).booths = s.booths := rfl
@[simp] theorem State.setVq_maps (s : State) (e b : Nat) (q : VQueue) : (s.setVq e b q).maps = s.maps := rfl
@[simp] theorem State.setVq_l2 (s : State) (e b : Nat) (q : VQueue) : (s.setVq e b q).l2 = s.l2 := rfl
@[simp] theorem State.setVq_walks (s : State) (e b : Nat) (q : VQueue) : (s.setVq e b q).walks = s.walks := rfl
@[simp] theorem State.setVq_net (s : State) (e b : Nat) (q : VQueue) : (s.setVq e b q).net = s.net := rfl
@[simp] theorem State.setVq_switches (s : State) (e b : Nat) (q : VQueue) : (s.setVq e b q).switches = s.switches := rfl
@[simp] theorem State.setVq_bufFlits (s : State) (e b : Nat) (q : VQueue) : (s.setVq e b q).bufFlits = s.bufFlits := rfl
@[simp] theorem State.setVq_queueFlits (s : State) (e b : Nat) (q : VQueue) : (s.setVq e b q).queueFlits = s.queueFlits := rfl
@[simp] theorem State.setVq_feWait (s : State) (e b : Nat) (q : VQueue) : (s.setVq e b q).feWait = s.feWait := rfl
@[simp] theorem State.setVq_agedWait (s : State) (e b : Nat) (q : VQueue) : (s.setVq e b q).agedWait = s.agedWait := rfl
@[simp] theorem State.setVq_stops (s : State) (e b : Nat) (q : VQueue) : (s.setVq e b q).stops = s.stops := rfl
@[simp] theorem State.setVq_rings (s : State) (e b : Nat) (q : VQueue) : (s.setVq e b q).rings = s.rings := rfl
@[simp] theorem State.setVq_watch (s : State) (e b : Nat) (q : VQueue) : (s.setVq e b q).watch = s.watch := rfl
@[simp] theorem State.setVq_uncredited (s : State) (e b : Nat) (q : VQueue) : (s.setVq e b q).uncredited = s.uncredited := rfl
@[simp] theorem State.setVq_vqs (s : State) (e b : Nat) (q : VQueue) : (s.setVq e b q).vqs = put s.vqs (e * 64 + b) q := rfl
@[simp] theorem State.setVq_turns (s : State) (e b : Nat) (q : VQueue) : (s.setVq e b q).turns = s.turns := rfl
@[simp] theorem State.setVq_nturns (s : State) (e b : Nat) (q : VQueue) : (s.setVq e b q).nturns = s.nturns := rfl
@[simp] theorem State.setVq_pulses (s : State) (e b : Nat) (q : VQueue) : (s.setVq e b q).pulses = s.pulses := rfl
@[simp] theorem State.setVq_nqs (s : State) (e b : Nat) (q : VQueue) : (s.setVq e b q).nqs = s.nqs := rfl
@[simp] theorem State.setVq_ether (s : State) (e b : Nat) (q : VQueue) : (s.setVq e b q).ether = s.ether := rfl
@[simp] theorem State.setVq_etherAddrs (s : State) (e b : Nat) (q : VQueue) : (s.setVq e b q).etherAddrs = s.etherAddrs := rfl
@[simp] theorem State.setVq_etherLost (s : State) (e b : Nat) (q : VQueue) : (s.setVq e b q).etherLost = s.etherLost := rfl
@[simp] theorem State.setVq_nextRid (s : State) (e b : Nat) (q : VQueue) : (s.setVq e b q).nextRid = s.nextRid := rfl
@[simp] theorem State.setVq_linkNet (s : State) (e b : Nat) (q : VQueue) : (s.setVq e b q).linkNet = s.linkNet := rfl
@[simp] theorem State.setVq_stitch (s : State) (e b : Nat) (q : VQueue) : (s.setVq e b q).stitch = s.stitch := rfl
@[simp] theorem State.setVq_cxl (s : State) (e b : Nat) (q : VQueue) : (s.setVq e b q).cxl = s.cxl := rfl
@[simp] theorem State.setVq_lacking (s : State) (e b : Nat) (q : VQueue) : (s.setVq e b q).lacking = s.lacking := rfl
@[simp] theorem State.setVq_launches (s : State) (e b : Nat) (q : VQueue) : (s.setVq e b q).launches = s.launches := rfl
@[simp] theorem State.setVq_nextLaunch (s : State) (e b : Nat) (q : VQueue) : (s.setVq e b q).nextLaunch = s.nextLaunch := rfl
@[simp] theorem State.setVq_spawnQ (s : State) (e b : Nat) (q : VQueue) : (s.setVq e b q).spawnQ = s.spawnQ := rfl
@[simp] theorem State.setVq_chans (s : State) (e b : Nat) (q : VQueue) : (s.setVq e b q).chans = s.chans := rfl
@[simp] theorem State.setVq_preempts (s : State) (e b : Nat) (q : VQueue) : (s.setVq e b q).preempts = s.preempts := rfl
@[simp] theorem State.setVq_images (s : State) (e b : Nat) (q : VQueue) : (s.setVq e b q).images = s.images := rfl
@[simp] theorem State.setVq_spillAreas (s : State) (e b : Nat) (q : VQueue) : (s.setVq e b q).spillAreas = s.spillAreas := rfl
@[simp] theorem State.setVq_receipts (s : State) (e b : Nat) (q : VQueue) : (s.setVq e b q).receipts = s.receipts := rfl
@[simp] theorem State.setVq_handovers (s : State) (e b : Nat) (q : VQueue) : (s.setVq e b q).handovers = s.handovers := rfl
@[simp] theorem State.setVq_areas (s : State) (e b : Nat) (q : VQueue) : (s.setVq e b q).areas = s.areas := rfl
@[simp] theorem State.setVq_areaKeys (s : State) (e b : Nat) (q : VQueue) : (s.setVq e b q).areaKeys = s.areaKeys := rfl
@[simp] theorem State.setVq_areaBanks (s : State) (e b : Nat) (q : VQueue) : (s.setVq e b q).areaBanks = s.areaBanks := rfl
@[simp] theorem State.setVq_areaSlots (s : State) (e b : Nat) (q : VQueue) : (s.setVq e b q).areaSlots = s.areaSlots := rfl
@[simp] theorem State.setVq_nextHandover (s : State) (e b : Nat) (q : VQueue) : (s.setVq e b q).nextHandover = s.nextHandover := rfl
@[simp] theorem State.setVq_pkgs (s : State) (e b : Nat) (q : VQueue) : (s.setVq e b q).pkgs = s.pkgs := rfl
@[simp] theorem State.setVq_regions (s : State) (e b : Nat) (q : VQueue) : (s.setVq e b q).regions = s.regions := rfl
@[simp] theorem State.setVq_boothPkgs (s : State) (e b : Nat) (q : VQueue) : (s.setVq e b q).boothPkgs = s.boothPkgs := rfl
@[simp] theorem State.setVq_gangs (s : State) (e b : Nat) (q : VQueue) : (s.setVq e b q).gangs = s.gangs := rfl
@[simp] theorem State.setVq_grants (s : State) (e b : Nat) (q : VQueue) : (s.setVq e b q).grants = s.grants := rfl
@[simp] theorem State.setVq_hostRing (s : State) (e b : Nat) (q : VQueue) : (s.setVq e b q).hostRing = s.hostRing := rfl
@[simp] theorem State.setVq_bootAreas (s : State) (e b : Nat) (q : VQueue) : (s.setVq e b q).bootAreas = s.bootAreas := rfl
@[simp] theorem State.setVq_repairs (s : State) (e b : Nat) (q : VQueue) : (s.setVq e b q).repairs = s.repairs := rfl
@[simp] theorem State.setVq_mfg (s : State) (e b : Nat) (q : VQueue) : (s.setVq e b q).mfg = s.mfg := rfl
@[simp] theorem State.setVq_defects (s : State) (e b : Nat) (q : VQueue) : (s.setVq e b q).defects = s.defects := rfl
@[simp] theorem State.setVq_sparesUsed (s : State) (e b : Nat) (q : VQueue) : (s.setVq e b q).sparesUsed = s.sparesUsed := rfl
@[simp] theorem State.setVq_rowsUsed (s : State) (e b : Nat) (q : VQueue) : (s.setVq e b q).rowsUsed = s.rowsUsed := rfl
@[simp] theorem State.setVq_cur (s : State) (e b : Nat) (q : VQueue) : (s.setVq e b q).cur = s.cur := rfl
@[simp] theorem State.setVq_bun (s : State) (e b : Nat) (q : VQueue) : (s.setVq e b q).bun = s.bun := rfl
@[simp] theorem State.setVq_agenda (s : State) (e b : Nat) (q : VQueue) : (s.setVq e b q).agenda = s.agenda := rfl
@[simp] theorem State.setVq_cycle (s : State) (e b : Nat) (q : VQueue) : (s.setVq e b q).cycle = s.cycle := rfl
@[simp] theorem State.setVq_nextUid (s : State) (e b : Nat) (q : VQueue) : (s.setVq e b q).nextUid = s.nextUid := rfl
@[simp] theorem State.setVq_nextMid (s : State) (e b : Nat) (q : VQueue) : (s.setVq e b q).nextMid = s.nextMid := rfl
@[simp] theorem State.setVq_fresh (s : State) (e b : Nat) (q : VQueue) : (s.setVq e b q).fresh = s.fresh := rfl

/-! ### setNq -/

@[simp] theorem State.setNq_mem (s : State) (k : Nat) (q : NQueue) : (s.setNq k q).mem = s.mem := rfl
@[simp] theorem State.setNq_threads (s : State) (k : Nat) (q : NQueue) : (s.setNq k q).threads = s.threads := rfl
@[simp] theorem State.setNq_slots (s : State) (k : Nat) (q : NQueue) : (s.setNq k q).slots = s.slots := rfl
@[simp] theorem State.setNq_cores (s : State) (k : Nat) (q : NQueue) : (s.setNq k q).cores = s.cores := rfl
@[simp] theorem State.setNq_booths (s : State) (k : Nat) (q : NQueue) : (s.setNq k q).booths = s.booths := rfl
@[simp] theorem State.setNq_maps (s : State) (k : Nat) (q : NQueue) : (s.setNq k q).maps = s.maps := rfl
@[simp] theorem State.setNq_l2 (s : State) (k : Nat) (q : NQueue) : (s.setNq k q).l2 = s.l2 := rfl
@[simp] theorem State.setNq_walks (s : State) (k : Nat) (q : NQueue) : (s.setNq k q).walks = s.walks := rfl
@[simp] theorem State.setNq_net (s : State) (k : Nat) (q : NQueue) : (s.setNq k q).net = s.net := rfl
@[simp] theorem State.setNq_switches (s : State) (k : Nat) (q : NQueue) : (s.setNq k q).switches = s.switches := rfl
@[simp] theorem State.setNq_bufFlits (s : State) (k : Nat) (q : NQueue) : (s.setNq k q).bufFlits = s.bufFlits := rfl
@[simp] theorem State.setNq_queueFlits (s : State) (k : Nat) (q : NQueue) : (s.setNq k q).queueFlits = s.queueFlits := rfl
@[simp] theorem State.setNq_feWait (s : State) (k : Nat) (q : NQueue) : (s.setNq k q).feWait = s.feWait := rfl
@[simp] theorem State.setNq_agedWait (s : State) (k : Nat) (q : NQueue) : (s.setNq k q).agedWait = s.agedWait := rfl
@[simp] theorem State.setNq_stops (s : State) (k : Nat) (q : NQueue) : (s.setNq k q).stops = s.stops := rfl
@[simp] theorem State.setNq_rings (s : State) (k : Nat) (q : NQueue) : (s.setNq k q).rings = s.rings := rfl
@[simp] theorem State.setNq_watch (s : State) (k : Nat) (q : NQueue) : (s.setNq k q).watch = s.watch := rfl
@[simp] theorem State.setNq_uncredited (s : State) (k : Nat) (q : NQueue) : (s.setNq k q).uncredited = s.uncredited := rfl
@[simp] theorem State.setNq_vqs (s : State) (k : Nat) (q : NQueue) : (s.setNq k q).vqs = s.vqs := rfl
@[simp] theorem State.setNq_turns (s : State) (k : Nat) (q : NQueue) : (s.setNq k q).turns = s.turns := rfl
@[simp] theorem State.setNq_nturns (s : State) (k : Nat) (q : NQueue) : (s.setNq k q).nturns = s.nturns := rfl
@[simp] theorem State.setNq_pulses (s : State) (k : Nat) (q : NQueue) : (s.setNq k q).pulses = s.pulses := rfl
@[simp] theorem State.setNq_nqs (s : State) (k : Nat) (q : NQueue) : (s.setNq k q).nqs = put s.nqs k q := rfl
@[simp] theorem State.setNq_ether (s : State) (k : Nat) (q : NQueue) : (s.setNq k q).ether = s.ether := rfl
@[simp] theorem State.setNq_etherAddrs (s : State) (k : Nat) (q : NQueue) : (s.setNq k q).etherAddrs = s.etherAddrs := rfl
@[simp] theorem State.setNq_etherLost (s : State) (k : Nat) (q : NQueue) : (s.setNq k q).etherLost = s.etherLost := rfl
@[simp] theorem State.setNq_nextRid (s : State) (k : Nat) (q : NQueue) : (s.setNq k q).nextRid = s.nextRid := rfl
@[simp] theorem State.setNq_linkNet (s : State) (k : Nat) (q : NQueue) : (s.setNq k q).linkNet = s.linkNet := rfl
@[simp] theorem State.setNq_stitch (s : State) (k : Nat) (q : NQueue) : (s.setNq k q).stitch = s.stitch := rfl
@[simp] theorem State.setNq_cxl (s : State) (k : Nat) (q : NQueue) : (s.setNq k q).cxl = s.cxl := rfl
@[simp] theorem State.setNq_lacking (s : State) (k : Nat) (q : NQueue) : (s.setNq k q).lacking = s.lacking := rfl
@[simp] theorem State.setNq_launches (s : State) (k : Nat) (q : NQueue) : (s.setNq k q).launches = s.launches := rfl
@[simp] theorem State.setNq_nextLaunch (s : State) (k : Nat) (q : NQueue) : (s.setNq k q).nextLaunch = s.nextLaunch := rfl
@[simp] theorem State.setNq_spawnQ (s : State) (k : Nat) (q : NQueue) : (s.setNq k q).spawnQ = s.spawnQ := rfl
@[simp] theorem State.setNq_chans (s : State) (k : Nat) (q : NQueue) : (s.setNq k q).chans = s.chans := rfl
@[simp] theorem State.setNq_preempts (s : State) (k : Nat) (q : NQueue) : (s.setNq k q).preempts = s.preempts := rfl
@[simp] theorem State.setNq_images (s : State) (k : Nat) (q : NQueue) : (s.setNq k q).images = s.images := rfl
@[simp] theorem State.setNq_spillAreas (s : State) (k : Nat) (q : NQueue) : (s.setNq k q).spillAreas = s.spillAreas := rfl
@[simp] theorem State.setNq_receipts (s : State) (k : Nat) (q : NQueue) : (s.setNq k q).receipts = s.receipts := rfl
@[simp] theorem State.setNq_handovers (s : State) (k : Nat) (q : NQueue) : (s.setNq k q).handovers = s.handovers := rfl
@[simp] theorem State.setNq_areas (s : State) (k : Nat) (q : NQueue) : (s.setNq k q).areas = s.areas := rfl
@[simp] theorem State.setNq_areaKeys (s : State) (k : Nat) (q : NQueue) : (s.setNq k q).areaKeys = s.areaKeys := rfl
@[simp] theorem State.setNq_areaBanks (s : State) (k : Nat) (q : NQueue) : (s.setNq k q).areaBanks = s.areaBanks := rfl
@[simp] theorem State.setNq_areaSlots (s : State) (k : Nat) (q : NQueue) : (s.setNq k q).areaSlots = s.areaSlots := rfl
@[simp] theorem State.setNq_nextHandover (s : State) (k : Nat) (q : NQueue) : (s.setNq k q).nextHandover = s.nextHandover := rfl
@[simp] theorem State.setNq_pkgs (s : State) (k : Nat) (q : NQueue) : (s.setNq k q).pkgs = s.pkgs := rfl
@[simp] theorem State.setNq_regions (s : State) (k : Nat) (q : NQueue) : (s.setNq k q).regions = s.regions := rfl
@[simp] theorem State.setNq_boothPkgs (s : State) (k : Nat) (q : NQueue) : (s.setNq k q).boothPkgs = s.boothPkgs := rfl
@[simp] theorem State.setNq_gangs (s : State) (k : Nat) (q : NQueue) : (s.setNq k q).gangs = s.gangs := rfl
@[simp] theorem State.setNq_grants (s : State) (k : Nat) (q : NQueue) : (s.setNq k q).grants = s.grants := rfl
@[simp] theorem State.setNq_hostRing (s : State) (k : Nat) (q : NQueue) : (s.setNq k q).hostRing = s.hostRing := rfl
@[simp] theorem State.setNq_bootAreas (s : State) (k : Nat) (q : NQueue) : (s.setNq k q).bootAreas = s.bootAreas := rfl
@[simp] theorem State.setNq_repairs (s : State) (k : Nat) (q : NQueue) : (s.setNq k q).repairs = s.repairs := rfl
@[simp] theorem State.setNq_mfg (s : State) (k : Nat) (q : NQueue) : (s.setNq k q).mfg = s.mfg := rfl
@[simp] theorem State.setNq_defects (s : State) (k : Nat) (q : NQueue) : (s.setNq k q).defects = s.defects := rfl
@[simp] theorem State.setNq_sparesUsed (s : State) (k : Nat) (q : NQueue) : (s.setNq k q).sparesUsed = s.sparesUsed := rfl
@[simp] theorem State.setNq_rowsUsed (s : State) (k : Nat) (q : NQueue) : (s.setNq k q).rowsUsed = s.rowsUsed := rfl
@[simp] theorem State.setNq_cur (s : State) (k : Nat) (q : NQueue) : (s.setNq k q).cur = s.cur := rfl
@[simp] theorem State.setNq_bun (s : State) (k : Nat) (q : NQueue) : (s.setNq k q).bun = s.bun := rfl
@[simp] theorem State.setNq_agenda (s : State) (k : Nat) (q : NQueue) : (s.setNq k q).agenda = s.agenda := rfl
@[simp] theorem State.setNq_cycle (s : State) (k : Nat) (q : NQueue) : (s.setNq k q).cycle = s.cycle := rfl
@[simp] theorem State.setNq_nextUid (s : State) (k : Nat) (q : NQueue) : (s.setNq k q).nextUid = s.nextUid := rfl
@[simp] theorem State.setNq_nextMid (s : State) (k : Nat) (q : NQueue) : (s.setNq k q).nextMid = s.nextMid := rfl
@[simp] theorem State.setNq_fresh (s : State) (k : Nat) (q : NQueue) : (s.setNq k q).fresh = s.fresh := rfl

/-! ### setChan -/

@[simp] theorem State.setChan_mem (s : State) (cid b n : Nat) (c : Chan) : (s.setChan cid b n c).mem = s.mem := rfl
@[simp] theorem State.setChan_threads (s : State) (cid b n : Nat) (c : Chan) : (s.setChan cid b n c).threads = s.threads := rfl
@[simp] theorem State.setChan_slots (s : State) (cid b n : Nat) (c : Chan) : (s.setChan cid b n c).slots = s.slots := rfl
@[simp] theorem State.setChan_cores (s : State) (cid b n : Nat) (c : Chan) : (s.setChan cid b n c).cores = s.cores := rfl
@[simp] theorem State.setChan_booths (s : State) (cid b n : Nat) (c : Chan) : (s.setChan cid b n c).booths = s.booths := rfl
@[simp] theorem State.setChan_maps (s : State) (cid b n : Nat) (c : Chan) : (s.setChan cid b n c).maps = s.maps := rfl
@[simp] theorem State.setChan_l2 (s : State) (cid b n : Nat) (c : Chan) : (s.setChan cid b n c).l2 = s.l2 := rfl
@[simp] theorem State.setChan_walks (s : State) (cid b n : Nat) (c : Chan) : (s.setChan cid b n c).walks = s.walks := rfl
@[simp] theorem State.setChan_net (s : State) (cid b n : Nat) (c : Chan) : (s.setChan cid b n c).net = s.net := rfl
@[simp] theorem State.setChan_switches (s : State) (cid b n : Nat) (c : Chan) : (s.setChan cid b n c).switches = s.switches := rfl
@[simp] theorem State.setChan_bufFlits (s : State) (cid b n : Nat) (c : Chan) : (s.setChan cid b n c).bufFlits = s.bufFlits := rfl
@[simp] theorem State.setChan_queueFlits (s : State) (cid b n : Nat) (c : Chan) : (s.setChan cid b n c).queueFlits = s.queueFlits := rfl
@[simp] theorem State.setChan_feWait (s : State) (cid b n : Nat) (c : Chan) : (s.setChan cid b n c).feWait = s.feWait := rfl
@[simp] theorem State.setChan_agedWait (s : State) (cid b n : Nat) (c : Chan) : (s.setChan cid b n c).agedWait = s.agedWait := rfl
@[simp] theorem State.setChan_stops (s : State) (cid b n : Nat) (c : Chan) : (s.setChan cid b n c).stops = s.stops := rfl
@[simp] theorem State.setChan_rings (s : State) (cid b n : Nat) (c : Chan) : (s.setChan cid b n c).rings = s.rings := rfl
@[simp] theorem State.setChan_watch (s : State) (cid b n : Nat) (c : Chan) : (s.setChan cid b n c).watch = s.watch := rfl
@[simp] theorem State.setChan_uncredited (s : State) (cid b n : Nat) (c : Chan) : (s.setChan cid b n c).uncredited = s.uncredited := rfl
@[simp] theorem State.setChan_vqs (s : State) (cid b n : Nat) (c : Chan) : (s.setChan cid b n c).vqs = s.vqs := rfl
@[simp] theorem State.setChan_turns (s : State) (cid b n : Nat) (c : Chan) : (s.setChan cid b n c).turns = s.turns := rfl
@[simp] theorem State.setChan_nturns (s : State) (cid b n : Nat) (c : Chan) : (s.setChan cid b n c).nturns = s.nturns := rfl
@[simp] theorem State.setChan_pulses (s : State) (cid b n : Nat) (c : Chan) : (s.setChan cid b n c).pulses = s.pulses := rfl
@[simp] theorem State.setChan_nqs (s : State) (cid b n : Nat) (c : Chan) : (s.setChan cid b n c).nqs = s.nqs := rfl
@[simp] theorem State.setChan_ether (s : State) (cid b n : Nat) (c : Chan) : (s.setChan cid b n c).ether = s.ether := rfl
@[simp] theorem State.setChan_etherAddrs (s : State) (cid b n : Nat) (c : Chan) : (s.setChan cid b n c).etherAddrs = s.etherAddrs := rfl
@[simp] theorem State.setChan_etherLost (s : State) (cid b n : Nat) (c : Chan) : (s.setChan cid b n c).etherLost = s.etherLost := rfl
@[simp] theorem State.setChan_nextRid (s : State) (cid b n : Nat) (c : Chan) : (s.setChan cid b n c).nextRid = s.nextRid := rfl
@[simp] theorem State.setChan_linkNet (s : State) (cid b n : Nat) (c : Chan) : (s.setChan cid b n c).linkNet = s.linkNet := rfl
@[simp] theorem State.setChan_stitch (s : State) (cid b n : Nat) (c : Chan) : (s.setChan cid b n c).stitch = s.stitch := rfl
@[simp] theorem State.setChan_cxl (s : State) (cid b n : Nat) (c : Chan) : (s.setChan cid b n c).cxl = s.cxl := rfl
@[simp] theorem State.setChan_lacking (s : State) (cid b n : Nat) (c : Chan) : (s.setChan cid b n c).lacking = s.lacking := rfl
@[simp] theorem State.setChan_launches (s : State) (cid b n : Nat) (c : Chan) : (s.setChan cid b n c).launches = s.launches := rfl
@[simp] theorem State.setChan_nextLaunch (s : State) (cid b n : Nat) (c : Chan) : (s.setChan cid b n c).nextLaunch = s.nextLaunch := rfl
@[simp] theorem State.setChan_spawnQ (s : State) (cid b n : Nat) (c : Chan) : (s.setChan cid b n c).spawnQ = s.spawnQ := rfl
@[simp] theorem State.setChan_chans (s : State) (cid b n : Nat) (c : Chan) : (s.setChan cid b n c).chans = put s.chans ((cid * 64 + b) * 32 + n) c := rfl
@[simp] theorem State.setChan_preempts (s : State) (cid b n : Nat) (c : Chan) : (s.setChan cid b n c).preempts = s.preempts := rfl
@[simp] theorem State.setChan_images (s : State) (cid b n : Nat) (c : Chan) : (s.setChan cid b n c).images = s.images := rfl
@[simp] theorem State.setChan_spillAreas (s : State) (cid b n : Nat) (c : Chan) : (s.setChan cid b n c).spillAreas = s.spillAreas := rfl
@[simp] theorem State.setChan_receipts (s : State) (cid b n : Nat) (c : Chan) : (s.setChan cid b n c).receipts = s.receipts := rfl
@[simp] theorem State.setChan_handovers (s : State) (cid b n : Nat) (c : Chan) : (s.setChan cid b n c).handovers = s.handovers := rfl
@[simp] theorem State.setChan_areas (s : State) (cid b n : Nat) (c : Chan) : (s.setChan cid b n c).areas = s.areas := rfl
@[simp] theorem State.setChan_areaKeys (s : State) (cid b n : Nat) (c : Chan) : (s.setChan cid b n c).areaKeys = s.areaKeys := rfl
@[simp] theorem State.setChan_areaBanks (s : State) (cid b n : Nat) (c : Chan) : (s.setChan cid b n c).areaBanks = s.areaBanks := rfl
@[simp] theorem State.setChan_areaSlots (s : State) (cid b n : Nat) (c : Chan) : (s.setChan cid b n c).areaSlots = s.areaSlots := rfl
@[simp] theorem State.setChan_nextHandover (s : State) (cid b n : Nat) (c : Chan) : (s.setChan cid b n c).nextHandover = s.nextHandover := rfl
@[simp] theorem State.setChan_pkgs (s : State) (cid b n : Nat) (c : Chan) : (s.setChan cid b n c).pkgs = s.pkgs := rfl
@[simp] theorem State.setChan_regions (s : State) (cid b n : Nat) (c : Chan) : (s.setChan cid b n c).regions = s.regions := rfl
@[simp] theorem State.setChan_boothPkgs (s : State) (cid b n : Nat) (c : Chan) : (s.setChan cid b n c).boothPkgs = s.boothPkgs := rfl
@[simp] theorem State.setChan_gangs (s : State) (cid b n : Nat) (c : Chan) : (s.setChan cid b n c).gangs = s.gangs := rfl
@[simp] theorem State.setChan_grants (s : State) (cid b n : Nat) (c : Chan) : (s.setChan cid b n c).grants = s.grants := rfl
@[simp] theorem State.setChan_hostRing (s : State) (cid b n : Nat) (c : Chan) : (s.setChan cid b n c).hostRing = s.hostRing := rfl
@[simp] theorem State.setChan_bootAreas (s : State) (cid b n : Nat) (c : Chan) : (s.setChan cid b n c).bootAreas = s.bootAreas := rfl
@[simp] theorem State.setChan_repairs (s : State) (cid b n : Nat) (c : Chan) : (s.setChan cid b n c).repairs = s.repairs := rfl
@[simp] theorem State.setChan_mfg (s : State) (cid b n : Nat) (c : Chan) : (s.setChan cid b n c).mfg = s.mfg := rfl
@[simp] theorem State.setChan_defects (s : State) (cid b n : Nat) (c : Chan) : (s.setChan cid b n c).defects = s.defects := rfl
@[simp] theorem State.setChan_sparesUsed (s : State) (cid b n : Nat) (c : Chan) : (s.setChan cid b n c).sparesUsed = s.sparesUsed := rfl
@[simp] theorem State.setChan_rowsUsed (s : State) (cid b n : Nat) (c : Chan) : (s.setChan cid b n c).rowsUsed = s.rowsUsed := rfl
@[simp] theorem State.setChan_cur (s : State) (cid b n : Nat) (c : Chan) : (s.setChan cid b n c).cur = s.cur := rfl
@[simp] theorem State.setChan_bun (s : State) (cid b n : Nat) (c : Chan) : (s.setChan cid b n c).bun = s.bun := rfl
@[simp] theorem State.setChan_agenda (s : State) (cid b n : Nat) (c : Chan) : (s.setChan cid b n c).agenda = s.agenda := rfl
@[simp] theorem State.setChan_cycle (s : State) (cid b n : Nat) (c : Chan) : (s.setChan cid b n c).cycle = s.cycle := rfl
@[simp] theorem State.setChan_nextUid (s : State) (cid b n : Nat) (c : Chan) : (s.setChan cid b n c).nextUid = s.nextUid := rfl
@[simp] theorem State.setChan_nextMid (s : State) (cid b n : Nat) (c : Chan) : (s.setChan cid b n c).nextMid = s.nextMid := rfl
@[simp] theorem State.setChan_fresh (s : State) (cid b n : Nat) (c : Chan) : (s.setChan cid b n c).fresh = s.fresh := rfl

/-! ### setPkg -/

@[simp] theorem State.setPkg_mem (s : State) (p : Nat) (x : Pkg) : (s.setPkg p x).mem = s.mem := rfl
@[simp] theorem State.setPkg_threads (s : State) (p : Nat) (x : Pkg) : (s.setPkg p x).threads = s.threads := rfl
@[simp] theorem State.setPkg_slots (s : State) (p : Nat) (x : Pkg) : (s.setPkg p x).slots = s.slots := rfl
@[simp] theorem State.setPkg_cores (s : State) (p : Nat) (x : Pkg) : (s.setPkg p x).cores = s.cores := rfl
@[simp] theorem State.setPkg_booths (s : State) (p : Nat) (x : Pkg) : (s.setPkg p x).booths = s.booths := rfl
@[simp] theorem State.setPkg_maps (s : State) (p : Nat) (x : Pkg) : (s.setPkg p x).maps = s.maps := rfl
@[simp] theorem State.setPkg_l2 (s : State) (p : Nat) (x : Pkg) : (s.setPkg p x).l2 = s.l2 := rfl
@[simp] theorem State.setPkg_walks (s : State) (p : Nat) (x : Pkg) : (s.setPkg p x).walks = s.walks := rfl
@[simp] theorem State.setPkg_net (s : State) (p : Nat) (x : Pkg) : (s.setPkg p x).net = s.net := rfl
@[simp] theorem State.setPkg_switches (s : State) (p : Nat) (x : Pkg) : (s.setPkg p x).switches = s.switches := rfl
@[simp] theorem State.setPkg_bufFlits (s : State) (p : Nat) (x : Pkg) : (s.setPkg p x).bufFlits = s.bufFlits := rfl
@[simp] theorem State.setPkg_queueFlits (s : State) (p : Nat) (x : Pkg) : (s.setPkg p x).queueFlits = s.queueFlits := rfl
@[simp] theorem State.setPkg_feWait (s : State) (p : Nat) (x : Pkg) : (s.setPkg p x).feWait = s.feWait := rfl
@[simp] theorem State.setPkg_agedWait (s : State) (p : Nat) (x : Pkg) : (s.setPkg p x).agedWait = s.agedWait := rfl
@[simp] theorem State.setPkg_stops (s : State) (p : Nat) (x : Pkg) : (s.setPkg p x).stops = s.stops := rfl
@[simp] theorem State.setPkg_rings (s : State) (p : Nat) (x : Pkg) : (s.setPkg p x).rings = s.rings := rfl
@[simp] theorem State.setPkg_watch (s : State) (p : Nat) (x : Pkg) : (s.setPkg p x).watch = s.watch := rfl
@[simp] theorem State.setPkg_uncredited (s : State) (p : Nat) (x : Pkg) : (s.setPkg p x).uncredited = s.uncredited := rfl
@[simp] theorem State.setPkg_vqs (s : State) (p : Nat) (x : Pkg) : (s.setPkg p x).vqs = s.vqs := rfl
@[simp] theorem State.setPkg_turns (s : State) (p : Nat) (x : Pkg) : (s.setPkg p x).turns = s.turns := rfl
@[simp] theorem State.setPkg_nturns (s : State) (p : Nat) (x : Pkg) : (s.setPkg p x).nturns = s.nturns := rfl
@[simp] theorem State.setPkg_pulses (s : State) (p : Nat) (x : Pkg) : (s.setPkg p x).pulses = s.pulses := rfl
@[simp] theorem State.setPkg_nqs (s : State) (p : Nat) (x : Pkg) : (s.setPkg p x).nqs = s.nqs := rfl
@[simp] theorem State.setPkg_ether (s : State) (p : Nat) (x : Pkg) : (s.setPkg p x).ether = s.ether := rfl
@[simp] theorem State.setPkg_etherAddrs (s : State) (p : Nat) (x : Pkg) : (s.setPkg p x).etherAddrs = s.etherAddrs := rfl
@[simp] theorem State.setPkg_etherLost (s : State) (p : Nat) (x : Pkg) : (s.setPkg p x).etherLost = s.etherLost := rfl
@[simp] theorem State.setPkg_nextRid (s : State) (p : Nat) (x : Pkg) : (s.setPkg p x).nextRid = s.nextRid := rfl
@[simp] theorem State.setPkg_linkNet (s : State) (p : Nat) (x : Pkg) : (s.setPkg p x).linkNet = s.linkNet := rfl
@[simp] theorem State.setPkg_stitch (s : State) (p : Nat) (x : Pkg) : (s.setPkg p x).stitch = s.stitch := rfl
@[simp] theorem State.setPkg_cxl (s : State) (p : Nat) (x : Pkg) : (s.setPkg p x).cxl = s.cxl := rfl
@[simp] theorem State.setPkg_lacking (s : State) (p : Nat) (x : Pkg) : (s.setPkg p x).lacking = s.lacking := rfl
@[simp] theorem State.setPkg_launches (s : State) (p : Nat) (x : Pkg) : (s.setPkg p x).launches = s.launches := rfl
@[simp] theorem State.setPkg_nextLaunch (s : State) (p : Nat) (x : Pkg) : (s.setPkg p x).nextLaunch = s.nextLaunch := rfl
@[simp] theorem State.setPkg_spawnQ (s : State) (p : Nat) (x : Pkg) : (s.setPkg p x).spawnQ = s.spawnQ := rfl
@[simp] theorem State.setPkg_chans (s : State) (p : Nat) (x : Pkg) : (s.setPkg p x).chans = s.chans := rfl
@[simp] theorem State.setPkg_preempts (s : State) (p : Nat) (x : Pkg) : (s.setPkg p x).preempts = s.preempts := rfl
@[simp] theorem State.setPkg_images (s : State) (p : Nat) (x : Pkg) : (s.setPkg p x).images = s.images := rfl
@[simp] theorem State.setPkg_spillAreas (s : State) (p : Nat) (x : Pkg) : (s.setPkg p x).spillAreas = s.spillAreas := rfl
@[simp] theorem State.setPkg_receipts (s : State) (p : Nat) (x : Pkg) : (s.setPkg p x).receipts = s.receipts := rfl
@[simp] theorem State.setPkg_handovers (s : State) (p : Nat) (x : Pkg) : (s.setPkg p x).handovers = s.handovers := rfl
@[simp] theorem State.setPkg_areas (s : State) (p : Nat) (x : Pkg) : (s.setPkg p x).areas = s.areas := rfl
@[simp] theorem State.setPkg_areaKeys (s : State) (p : Nat) (x : Pkg) : (s.setPkg p x).areaKeys = s.areaKeys := rfl
@[simp] theorem State.setPkg_areaBanks (s : State) (p : Nat) (x : Pkg) : (s.setPkg p x).areaBanks = s.areaBanks := rfl
@[simp] theorem State.setPkg_areaSlots (s : State) (p : Nat) (x : Pkg) : (s.setPkg p x).areaSlots = s.areaSlots := rfl
@[simp] theorem State.setPkg_nextHandover (s : State) (p : Nat) (x : Pkg) : (s.setPkg p x).nextHandover = s.nextHandover := rfl
@[simp] theorem State.setPkg_pkgs (s : State) (p : Nat) (x : Pkg) : (s.setPkg p x).pkgs = put s.pkgs p x := rfl
@[simp] theorem State.setPkg_regions (s : State) (p : Nat) (x : Pkg) : (s.setPkg p x).regions = s.regions := rfl
@[simp] theorem State.setPkg_boothPkgs (s : State) (p : Nat) (x : Pkg) : (s.setPkg p x).boothPkgs = s.boothPkgs := rfl
@[simp] theorem State.setPkg_gangs (s : State) (p : Nat) (x : Pkg) : (s.setPkg p x).gangs = s.gangs := rfl
@[simp] theorem State.setPkg_grants (s : State) (p : Nat) (x : Pkg) : (s.setPkg p x).grants = s.grants := rfl
@[simp] theorem State.setPkg_hostRing (s : State) (p : Nat) (x : Pkg) : (s.setPkg p x).hostRing = s.hostRing := rfl
@[simp] theorem State.setPkg_bootAreas (s : State) (p : Nat) (x : Pkg) : (s.setPkg p x).bootAreas = s.bootAreas := rfl
@[simp] theorem State.setPkg_repairs (s : State) (p : Nat) (x : Pkg) : (s.setPkg p x).repairs = s.repairs := rfl
@[simp] theorem State.setPkg_mfg (s : State) (p : Nat) (x : Pkg) : (s.setPkg p x).mfg = s.mfg := rfl
@[simp] theorem State.setPkg_defects (s : State) (p : Nat) (x : Pkg) : (s.setPkg p x).defects = s.defects := rfl
@[simp] theorem State.setPkg_sparesUsed (s : State) (p : Nat) (x : Pkg) : (s.setPkg p x).sparesUsed = s.sparesUsed := rfl
@[simp] theorem State.setPkg_rowsUsed (s : State) (p : Nat) (x : Pkg) : (s.setPkg p x).rowsUsed = s.rowsUsed := rfl
@[simp] theorem State.setPkg_cur (s : State) (p : Nat) (x : Pkg) : (s.setPkg p x).cur = s.cur := rfl
@[simp] theorem State.setPkg_bun (s : State) (p : Nat) (x : Pkg) : (s.setPkg p x).bun = s.bun := rfl
@[simp] theorem State.setPkg_agenda (s : State) (p : Nat) (x : Pkg) : (s.setPkg p x).agenda = s.agenda := rfl
@[simp] theorem State.setPkg_cycle (s : State) (p : Nat) (x : Pkg) : (s.setPkg p x).cycle = s.cycle := rfl
@[simp] theorem State.setPkg_nextUid (s : State) (p : Nat) (x : Pkg) : (s.setPkg p x).nextUid = s.nextUid := rfl
@[simp] theorem State.setPkg_nextMid (s : State) (p : Nat) (x : Pkg) : (s.setPkg p x).nextMid = s.nextMid := rfl
@[simp] theorem State.setPkg_fresh (s : State) (p : Nat) (x : Pkg) : (s.setPkg p x).fresh = s.fresh := rfl

/-! ### setBoothPkg -/

@[simp] theorem State.setBoothPkg_mem (s : State) (p b : Nat) (x : BoothPkg) : (s.setBoothPkg p b x).mem = s.mem := rfl
@[simp] theorem State.setBoothPkg_threads (s : State) (p b : Nat) (x : BoothPkg) : (s.setBoothPkg p b x).threads = s.threads := rfl
@[simp] theorem State.setBoothPkg_slots (s : State) (p b : Nat) (x : BoothPkg) : (s.setBoothPkg p b x).slots = s.slots := rfl
@[simp] theorem State.setBoothPkg_cores (s : State) (p b : Nat) (x : BoothPkg) : (s.setBoothPkg p b x).cores = s.cores := rfl
@[simp] theorem State.setBoothPkg_booths (s : State) (p b : Nat) (x : BoothPkg) : (s.setBoothPkg p b x).booths = s.booths := rfl
@[simp] theorem State.setBoothPkg_maps (s : State) (p b : Nat) (x : BoothPkg) : (s.setBoothPkg p b x).maps = s.maps := rfl
@[simp] theorem State.setBoothPkg_l2 (s : State) (p b : Nat) (x : BoothPkg) : (s.setBoothPkg p b x).l2 = s.l2 := rfl
@[simp] theorem State.setBoothPkg_walks (s : State) (p b : Nat) (x : BoothPkg) : (s.setBoothPkg p b x).walks = s.walks := rfl
@[simp] theorem State.setBoothPkg_net (s : State) (p b : Nat) (x : BoothPkg) : (s.setBoothPkg p b x).net = s.net := rfl
@[simp] theorem State.setBoothPkg_switches (s : State) (p b : Nat) (x : BoothPkg) : (s.setBoothPkg p b x).switches = s.switches := rfl
@[simp] theorem State.setBoothPkg_bufFlits (s : State) (p b : Nat) (x : BoothPkg) : (s.setBoothPkg p b x).bufFlits = s.bufFlits := rfl
@[simp] theorem State.setBoothPkg_queueFlits (s : State) (p b : Nat) (x : BoothPkg) : (s.setBoothPkg p b x).queueFlits = s.queueFlits := rfl
@[simp] theorem State.setBoothPkg_feWait (s : State) (p b : Nat) (x : BoothPkg) : (s.setBoothPkg p b x).feWait = s.feWait := rfl
@[simp] theorem State.setBoothPkg_agedWait (s : State) (p b : Nat) (x : BoothPkg) : (s.setBoothPkg p b x).agedWait = s.agedWait := rfl
@[simp] theorem State.setBoothPkg_stops (s : State) (p b : Nat) (x : BoothPkg) : (s.setBoothPkg p b x).stops = s.stops := rfl
@[simp] theorem State.setBoothPkg_rings (s : State) (p b : Nat) (x : BoothPkg) : (s.setBoothPkg p b x).rings = s.rings := rfl
@[simp] theorem State.setBoothPkg_watch (s : State) (p b : Nat) (x : BoothPkg) : (s.setBoothPkg p b x).watch = s.watch := rfl
@[simp] theorem State.setBoothPkg_uncredited (s : State) (p b : Nat) (x : BoothPkg) : (s.setBoothPkg p b x).uncredited = s.uncredited := rfl
@[simp] theorem State.setBoothPkg_vqs (s : State) (p b : Nat) (x : BoothPkg) : (s.setBoothPkg p b x).vqs = s.vqs := rfl
@[simp] theorem State.setBoothPkg_turns (s : State) (p b : Nat) (x : BoothPkg) : (s.setBoothPkg p b x).turns = s.turns := rfl
@[simp] theorem State.setBoothPkg_nturns (s : State) (p b : Nat) (x : BoothPkg) : (s.setBoothPkg p b x).nturns = s.nturns := rfl
@[simp] theorem State.setBoothPkg_pulses (s : State) (p b : Nat) (x : BoothPkg) : (s.setBoothPkg p b x).pulses = s.pulses := rfl
@[simp] theorem State.setBoothPkg_nqs (s : State) (p b : Nat) (x : BoothPkg) : (s.setBoothPkg p b x).nqs = s.nqs := rfl
@[simp] theorem State.setBoothPkg_ether (s : State) (p b : Nat) (x : BoothPkg) : (s.setBoothPkg p b x).ether = s.ether := rfl
@[simp] theorem State.setBoothPkg_etherAddrs (s : State) (p b : Nat) (x : BoothPkg) : (s.setBoothPkg p b x).etherAddrs = s.etherAddrs := rfl
@[simp] theorem State.setBoothPkg_etherLost (s : State) (p b : Nat) (x : BoothPkg) : (s.setBoothPkg p b x).etherLost = s.etherLost := rfl
@[simp] theorem State.setBoothPkg_nextRid (s : State) (p b : Nat) (x : BoothPkg) : (s.setBoothPkg p b x).nextRid = s.nextRid := rfl
@[simp] theorem State.setBoothPkg_linkNet (s : State) (p b : Nat) (x : BoothPkg) : (s.setBoothPkg p b x).linkNet = s.linkNet := rfl
@[simp] theorem State.setBoothPkg_stitch (s : State) (p b : Nat) (x : BoothPkg) : (s.setBoothPkg p b x).stitch = s.stitch := rfl
@[simp] theorem State.setBoothPkg_cxl (s : State) (p b : Nat) (x : BoothPkg) : (s.setBoothPkg p b x).cxl = s.cxl := rfl
@[simp] theorem State.setBoothPkg_lacking (s : State) (p b : Nat) (x : BoothPkg) : (s.setBoothPkg p b x).lacking = s.lacking := rfl
@[simp] theorem State.setBoothPkg_launches (s : State) (p b : Nat) (x : BoothPkg) : (s.setBoothPkg p b x).launches = s.launches := rfl
@[simp] theorem State.setBoothPkg_nextLaunch (s : State) (p b : Nat) (x : BoothPkg) : (s.setBoothPkg p b x).nextLaunch = s.nextLaunch := rfl
@[simp] theorem State.setBoothPkg_spawnQ (s : State) (p b : Nat) (x : BoothPkg) : (s.setBoothPkg p b x).spawnQ = s.spawnQ := rfl
@[simp] theorem State.setBoothPkg_chans (s : State) (p b : Nat) (x : BoothPkg) : (s.setBoothPkg p b x).chans = s.chans := rfl
@[simp] theorem State.setBoothPkg_preempts (s : State) (p b : Nat) (x : BoothPkg) : (s.setBoothPkg p b x).preempts = s.preempts := rfl
@[simp] theorem State.setBoothPkg_images (s : State) (p b : Nat) (x : BoothPkg) : (s.setBoothPkg p b x).images = s.images := rfl
@[simp] theorem State.setBoothPkg_spillAreas (s : State) (p b : Nat) (x : BoothPkg) : (s.setBoothPkg p b x).spillAreas = s.spillAreas := rfl
@[simp] theorem State.setBoothPkg_receipts (s : State) (p b : Nat) (x : BoothPkg) : (s.setBoothPkg p b x).receipts = s.receipts := rfl
@[simp] theorem State.setBoothPkg_handovers (s : State) (p b : Nat) (x : BoothPkg) : (s.setBoothPkg p b x).handovers = s.handovers := rfl
@[simp] theorem State.setBoothPkg_areas (s : State) (p b : Nat) (x : BoothPkg) : (s.setBoothPkg p b x).areas = s.areas := rfl
@[simp] theorem State.setBoothPkg_areaKeys (s : State) (p b : Nat) (x : BoothPkg) : (s.setBoothPkg p b x).areaKeys = s.areaKeys := rfl
@[simp] theorem State.setBoothPkg_areaBanks (s : State) (p b : Nat) (x : BoothPkg) : (s.setBoothPkg p b x).areaBanks = s.areaBanks := rfl
@[simp] theorem State.setBoothPkg_areaSlots (s : State) (p b : Nat) (x : BoothPkg) : (s.setBoothPkg p b x).areaSlots = s.areaSlots := rfl
@[simp] theorem State.setBoothPkg_nextHandover (s : State) (p b : Nat) (x : BoothPkg) : (s.setBoothPkg p b x).nextHandover = s.nextHandover := rfl
@[simp] theorem State.setBoothPkg_pkgs (s : State) (p b : Nat) (x : BoothPkg) : (s.setBoothPkg p b x).pkgs = s.pkgs := rfl
@[simp] theorem State.setBoothPkg_regions (s : State) (p b : Nat) (x : BoothPkg) : (s.setBoothPkg p b x).regions = s.regions := rfl
@[simp] theorem State.setBoothPkg_boothPkgs (s : State) (p b : Nat) (x : BoothPkg) : (s.setBoothPkg p b x).boothPkgs = put s.boothPkgs (p * 64 + b) x := rfl
@[simp] theorem State.setBoothPkg_gangs (s : State) (p b : Nat) (x : BoothPkg) : (s.setBoothPkg p b x).gangs = s.gangs := rfl
@[simp] theorem State.setBoothPkg_grants (s : State) (p b : Nat) (x : BoothPkg) : (s.setBoothPkg p b x).grants = s.grants := rfl
@[simp] theorem State.setBoothPkg_hostRing (s : State) (p b : Nat) (x : BoothPkg) : (s.setBoothPkg p b x).hostRing = s.hostRing := rfl
@[simp] theorem State.setBoothPkg_bootAreas (s : State) (p b : Nat) (x : BoothPkg) : (s.setBoothPkg p b x).bootAreas = s.bootAreas := rfl
@[simp] theorem State.setBoothPkg_repairs (s : State) (p b : Nat) (x : BoothPkg) : (s.setBoothPkg p b x).repairs = s.repairs := rfl
@[simp] theorem State.setBoothPkg_mfg (s : State) (p b : Nat) (x : BoothPkg) : (s.setBoothPkg p b x).mfg = s.mfg := rfl
@[simp] theorem State.setBoothPkg_defects (s : State) (p b : Nat) (x : BoothPkg) : (s.setBoothPkg p b x).defects = s.defects := rfl
@[simp] theorem State.setBoothPkg_sparesUsed (s : State) (p b : Nat) (x : BoothPkg) : (s.setBoothPkg p b x).sparesUsed = s.sparesUsed := rfl
@[simp] theorem State.setBoothPkg_rowsUsed (s : State) (p b : Nat) (x : BoothPkg) : (s.setBoothPkg p b x).rowsUsed = s.rowsUsed := rfl
@[simp] theorem State.setBoothPkg_cur (s : State) (p b : Nat) (x : BoothPkg) : (s.setBoothPkg p b x).cur = s.cur := rfl
@[simp] theorem State.setBoothPkg_bun (s : State) (p b : Nat) (x : BoothPkg) : (s.setBoothPkg p b x).bun = s.bun := rfl
@[simp] theorem State.setBoothPkg_agenda (s : State) (p b : Nat) (x : BoothPkg) : (s.setBoothPkg p b x).agenda = s.agenda := rfl
@[simp] theorem State.setBoothPkg_cycle (s : State) (p b : Nat) (x : BoothPkg) : (s.setBoothPkg p b x).cycle = s.cycle := rfl
@[simp] theorem State.setBoothPkg_nextUid (s : State) (p b : Nat) (x : BoothPkg) : (s.setBoothPkg p b x).nextUid = s.nextUid := rfl
@[simp] theorem State.setBoothPkg_nextMid (s : State) (p b : Nat) (x : BoothPkg) : (s.setBoothPkg p b x).nextMid = s.nextMid := rfl
@[simp] theorem State.setBoothPkg_fresh (s : State) (p b : Nat) (x : BoothPkg) : (s.setBoothPkg p b x).fresh = s.fresh := rfl

/-! ### modMem -/

@[simp] theorem State.modMem_mem (s : State) (f : Memory → Memory) : (s.modMem f).mem = f s.mem := rfl
@[simp] theorem State.modMem_threads (s : State) (f : Memory → Memory) : (s.modMem f).threads = s.threads := rfl
@[simp] theorem State.modMem_slots (s : State) (f : Memory → Memory) : (s.modMem f).slots = s.slots := rfl
@[simp] theorem State.modMem_cores (s : State) (f : Memory → Memory) : (s.modMem f).cores = s.cores := rfl
@[simp] theorem State.modMem_booths (s : State) (f : Memory → Memory) : (s.modMem f).booths = s.booths := rfl
@[simp] theorem State.modMem_maps (s : State) (f : Memory → Memory) : (s.modMem f).maps = s.maps := rfl
@[simp] theorem State.modMem_l2 (s : State) (f : Memory → Memory) : (s.modMem f).l2 = s.l2 := rfl
@[simp] theorem State.modMem_walks (s : State) (f : Memory → Memory) : (s.modMem f).walks = s.walks := rfl
@[simp] theorem State.modMem_net (s : State) (f : Memory → Memory) : (s.modMem f).net = s.net := rfl
@[simp] theorem State.modMem_switches (s : State) (f : Memory → Memory) : (s.modMem f).switches = s.switches := rfl
@[simp] theorem State.modMem_bufFlits (s : State) (f : Memory → Memory) : (s.modMem f).bufFlits = s.bufFlits := rfl
@[simp] theorem State.modMem_queueFlits (s : State) (f : Memory → Memory) : (s.modMem f).queueFlits = s.queueFlits := rfl
@[simp] theorem State.modMem_feWait (s : State) (f : Memory → Memory) : (s.modMem f).feWait = s.feWait := rfl
@[simp] theorem State.modMem_agedWait (s : State) (f : Memory → Memory) : (s.modMem f).agedWait = s.agedWait := rfl
@[simp] theorem State.modMem_stops (s : State) (f : Memory → Memory) : (s.modMem f).stops = s.stops := rfl
@[simp] theorem State.modMem_rings (s : State) (f : Memory → Memory) : (s.modMem f).rings = s.rings := rfl
@[simp] theorem State.modMem_watch (s : State) (f : Memory → Memory) : (s.modMem f).watch = s.watch := rfl
@[simp] theorem State.modMem_uncredited (s : State) (f : Memory → Memory) : (s.modMem f).uncredited = s.uncredited := rfl
@[simp] theorem State.modMem_vqs (s : State) (f : Memory → Memory) : (s.modMem f).vqs = s.vqs := rfl
@[simp] theorem State.modMem_turns (s : State) (f : Memory → Memory) : (s.modMem f).turns = s.turns := rfl
@[simp] theorem State.modMem_nturns (s : State) (f : Memory → Memory) : (s.modMem f).nturns = s.nturns := rfl
@[simp] theorem State.modMem_pulses (s : State) (f : Memory → Memory) : (s.modMem f).pulses = s.pulses := rfl
@[simp] theorem State.modMem_nqs (s : State) (f : Memory → Memory) : (s.modMem f).nqs = s.nqs := rfl
@[simp] theorem State.modMem_ether (s : State) (f : Memory → Memory) : (s.modMem f).ether = s.ether := rfl
@[simp] theorem State.modMem_etherAddrs (s : State) (f : Memory → Memory) : (s.modMem f).etherAddrs = s.etherAddrs := rfl
@[simp] theorem State.modMem_etherLost (s : State) (f : Memory → Memory) : (s.modMem f).etherLost = s.etherLost := rfl
@[simp] theorem State.modMem_nextRid (s : State) (f : Memory → Memory) : (s.modMem f).nextRid = s.nextRid := rfl
@[simp] theorem State.modMem_linkNet (s : State) (f : Memory → Memory) : (s.modMem f).linkNet = s.linkNet := rfl
@[simp] theorem State.modMem_stitch (s : State) (f : Memory → Memory) : (s.modMem f).stitch = s.stitch := rfl
@[simp] theorem State.modMem_cxl (s : State) (f : Memory → Memory) : (s.modMem f).cxl = s.cxl := rfl
@[simp] theorem State.modMem_lacking (s : State) (f : Memory → Memory) : (s.modMem f).lacking = s.lacking := rfl
@[simp] theorem State.modMem_launches (s : State) (f : Memory → Memory) : (s.modMem f).launches = s.launches := rfl
@[simp] theorem State.modMem_nextLaunch (s : State) (f : Memory → Memory) : (s.modMem f).nextLaunch = s.nextLaunch := rfl
@[simp] theorem State.modMem_spawnQ (s : State) (f : Memory → Memory) : (s.modMem f).spawnQ = s.spawnQ := rfl
@[simp] theorem State.modMem_chans (s : State) (f : Memory → Memory) : (s.modMem f).chans = s.chans := rfl
@[simp] theorem State.modMem_preempts (s : State) (f : Memory → Memory) : (s.modMem f).preempts = s.preempts := rfl
@[simp] theorem State.modMem_images (s : State) (f : Memory → Memory) : (s.modMem f).images = s.images := rfl
@[simp] theorem State.modMem_spillAreas (s : State) (f : Memory → Memory) : (s.modMem f).spillAreas = s.spillAreas := rfl
@[simp] theorem State.modMem_receipts (s : State) (f : Memory → Memory) : (s.modMem f).receipts = s.receipts := rfl
@[simp] theorem State.modMem_handovers (s : State) (f : Memory → Memory) : (s.modMem f).handovers = s.handovers := rfl
@[simp] theorem State.modMem_areas (s : State) (f : Memory → Memory) : (s.modMem f).areas = s.areas := rfl
@[simp] theorem State.modMem_areaKeys (s : State) (f : Memory → Memory) : (s.modMem f).areaKeys = s.areaKeys := rfl
@[simp] theorem State.modMem_areaBanks (s : State) (f : Memory → Memory) : (s.modMem f).areaBanks = s.areaBanks := rfl
@[simp] theorem State.modMem_areaSlots (s : State) (f : Memory → Memory) : (s.modMem f).areaSlots = s.areaSlots := rfl
@[simp] theorem State.modMem_nextHandover (s : State) (f : Memory → Memory) : (s.modMem f).nextHandover = s.nextHandover := rfl
@[simp] theorem State.modMem_pkgs (s : State) (f : Memory → Memory) : (s.modMem f).pkgs = s.pkgs := rfl
@[simp] theorem State.modMem_regions (s : State) (f : Memory → Memory) : (s.modMem f).regions = s.regions := rfl
@[simp] theorem State.modMem_boothPkgs (s : State) (f : Memory → Memory) : (s.modMem f).boothPkgs = s.boothPkgs := rfl
@[simp] theorem State.modMem_gangs (s : State) (f : Memory → Memory) : (s.modMem f).gangs = s.gangs := rfl
@[simp] theorem State.modMem_grants (s : State) (f : Memory → Memory) : (s.modMem f).grants = s.grants := rfl
@[simp] theorem State.modMem_hostRing (s : State) (f : Memory → Memory) : (s.modMem f).hostRing = s.hostRing := rfl
@[simp] theorem State.modMem_bootAreas (s : State) (f : Memory → Memory) : (s.modMem f).bootAreas = s.bootAreas := rfl
@[simp] theorem State.modMem_repairs (s : State) (f : Memory → Memory) : (s.modMem f).repairs = s.repairs := rfl
@[simp] theorem State.modMem_mfg (s : State) (f : Memory → Memory) : (s.modMem f).mfg = s.mfg := rfl
@[simp] theorem State.modMem_defects (s : State) (f : Memory → Memory) : (s.modMem f).defects = s.defects := rfl
@[simp] theorem State.modMem_sparesUsed (s : State) (f : Memory → Memory) : (s.modMem f).sparesUsed = s.sparesUsed := rfl
@[simp] theorem State.modMem_rowsUsed (s : State) (f : Memory → Memory) : (s.modMem f).rowsUsed = s.rowsUsed := rfl
@[simp] theorem State.modMem_cur (s : State) (f : Memory → Memory) : (s.modMem f).cur = s.cur := rfl
@[simp] theorem State.modMem_bun (s : State) (f : Memory → Memory) : (s.modMem f).bun = s.bun := rfl
@[simp] theorem State.modMem_agenda (s : State) (f : Memory → Memory) : (s.modMem f).agenda = s.agenda := rfl
@[simp] theorem State.modMem_cycle (s : State) (f : Memory → Memory) : (s.modMem f).cycle = s.cycle := rfl
@[simp] theorem State.modMem_nextUid (s : State) (f : Memory → Memory) : (s.modMem f).nextUid = s.nextUid := rfl
@[simp] theorem State.modMem_nextMid (s : State) (f : Memory → Memory) : (s.modMem f).nextMid = s.nextMid := rfl
@[simp] theorem State.modMem_fresh (s : State) (f : Memory → Memory) : (s.modMem f).fresh = s.fresh := rfl

/-! ### setFin -/

@[simp] theorem State.setFin_mem (s : State) (f : WordEnd) : (s.setFin f).mem = s.mem := rfl
@[simp] theorem State.setFin_threads (s : State) (f : WordEnd) : (s.setFin f).threads = s.threads := rfl
@[simp] theorem State.setFin_slots (s : State) (f : WordEnd) : (s.setFin f).slots = s.slots := rfl
@[simp] theorem State.setFin_cores (s : State) (f : WordEnd) : (s.setFin f).cores = s.cores := rfl
@[simp] theorem State.setFin_booths (s : State) (f : WordEnd) : (s.setFin f).booths = s.booths := rfl
@[simp] theorem State.setFin_maps (s : State) (f : WordEnd) : (s.setFin f).maps = s.maps := rfl
@[simp] theorem State.setFin_l2 (s : State) (f : WordEnd) : (s.setFin f).l2 = s.l2 := rfl
@[simp] theorem State.setFin_walks (s : State) (f : WordEnd) : (s.setFin f).walks = s.walks := rfl
@[simp] theorem State.setFin_net (s : State) (f : WordEnd) : (s.setFin f).net = s.net := rfl
@[simp] theorem State.setFin_switches (s : State) (f : WordEnd) : (s.setFin f).switches = s.switches := rfl
@[simp] theorem State.setFin_bufFlits (s : State) (f : WordEnd) : (s.setFin f).bufFlits = s.bufFlits := rfl
@[simp] theorem State.setFin_queueFlits (s : State) (f : WordEnd) : (s.setFin f).queueFlits = s.queueFlits := rfl
@[simp] theorem State.setFin_feWait (s : State) (f : WordEnd) : (s.setFin f).feWait = s.feWait := rfl
@[simp] theorem State.setFin_agedWait (s : State) (f : WordEnd) : (s.setFin f).agedWait = s.agedWait := rfl
@[simp] theorem State.setFin_stops (s : State) (f : WordEnd) : (s.setFin f).stops = s.stops := rfl
@[simp] theorem State.setFin_rings (s : State) (f : WordEnd) : (s.setFin f).rings = s.rings := rfl
@[simp] theorem State.setFin_watch (s : State) (f : WordEnd) : (s.setFin f).watch = s.watch := rfl
@[simp] theorem State.setFin_uncredited (s : State) (f : WordEnd) : (s.setFin f).uncredited = s.uncredited := rfl
@[simp] theorem State.setFin_vqs (s : State) (f : WordEnd) : (s.setFin f).vqs = s.vqs := rfl
@[simp] theorem State.setFin_turns (s : State) (f : WordEnd) : (s.setFin f).turns = s.turns := rfl
@[simp] theorem State.setFin_nturns (s : State) (f : WordEnd) : (s.setFin f).nturns = s.nturns := rfl
@[simp] theorem State.setFin_pulses (s : State) (f : WordEnd) : (s.setFin f).pulses = s.pulses := rfl
@[simp] theorem State.setFin_nqs (s : State) (f : WordEnd) : (s.setFin f).nqs = s.nqs := rfl
@[simp] theorem State.setFin_ether (s : State) (f : WordEnd) : (s.setFin f).ether = s.ether := rfl
@[simp] theorem State.setFin_etherAddrs (s : State) (f : WordEnd) : (s.setFin f).etherAddrs = s.etherAddrs := rfl
@[simp] theorem State.setFin_etherLost (s : State) (f : WordEnd) : (s.setFin f).etherLost = s.etherLost := rfl
@[simp] theorem State.setFin_nextRid (s : State) (f : WordEnd) : (s.setFin f).nextRid = s.nextRid := rfl
@[simp] theorem State.setFin_linkNet (s : State) (f : WordEnd) : (s.setFin f).linkNet = s.linkNet := rfl
@[simp] theorem State.setFin_stitch (s : State) (f : WordEnd) : (s.setFin f).stitch = s.stitch := rfl
@[simp] theorem State.setFin_cxl (s : State) (f : WordEnd) : (s.setFin f).cxl = s.cxl := rfl
@[simp] theorem State.setFin_lacking (s : State) (f : WordEnd) : (s.setFin f).lacking = s.lacking := rfl
@[simp] theorem State.setFin_launches (s : State) (f : WordEnd) : (s.setFin f).launches = s.launches := rfl
@[simp] theorem State.setFin_nextLaunch (s : State) (f : WordEnd) : (s.setFin f).nextLaunch = s.nextLaunch := rfl
@[simp] theorem State.setFin_spawnQ (s : State) (f : WordEnd) : (s.setFin f).spawnQ = s.spawnQ := rfl
@[simp] theorem State.setFin_chans (s : State) (f : WordEnd) : (s.setFin f).chans = s.chans := rfl
@[simp] theorem State.setFin_preempts (s : State) (f : WordEnd) : (s.setFin f).preempts = s.preempts := rfl
@[simp] theorem State.setFin_images (s : State) (f : WordEnd) : (s.setFin f).images = s.images := rfl
@[simp] theorem State.setFin_spillAreas (s : State) (f : WordEnd) : (s.setFin f).spillAreas = s.spillAreas := rfl
@[simp] theorem State.setFin_receipts (s : State) (f : WordEnd) : (s.setFin f).receipts = s.receipts := rfl
@[simp] theorem State.setFin_handovers (s : State) (f : WordEnd) : (s.setFin f).handovers = s.handovers := rfl
@[simp] theorem State.setFin_areas (s : State) (f : WordEnd) : (s.setFin f).areas = s.areas := rfl
@[simp] theorem State.setFin_areaKeys (s : State) (f : WordEnd) : (s.setFin f).areaKeys = s.areaKeys := rfl
@[simp] theorem State.setFin_areaBanks (s : State) (f : WordEnd) : (s.setFin f).areaBanks = s.areaBanks := rfl
@[simp] theorem State.setFin_areaSlots (s : State) (f : WordEnd) : (s.setFin f).areaSlots = s.areaSlots := rfl
@[simp] theorem State.setFin_nextHandover (s : State) (f : WordEnd) : (s.setFin f).nextHandover = s.nextHandover := rfl
@[simp] theorem State.setFin_pkgs (s : State) (f : WordEnd) : (s.setFin f).pkgs = s.pkgs := rfl
@[simp] theorem State.setFin_regions (s : State) (f : WordEnd) : (s.setFin f).regions = s.regions := rfl
@[simp] theorem State.setFin_boothPkgs (s : State) (f : WordEnd) : (s.setFin f).boothPkgs = s.boothPkgs := rfl
@[simp] theorem State.setFin_gangs (s : State) (f : WordEnd) : (s.setFin f).gangs = s.gangs := rfl
@[simp] theorem State.setFin_grants (s : State) (f : WordEnd) : (s.setFin f).grants = s.grants := rfl
@[simp] theorem State.setFin_hostRing (s : State) (f : WordEnd) : (s.setFin f).hostRing = s.hostRing := rfl
@[simp] theorem State.setFin_bootAreas (s : State) (f : WordEnd) : (s.setFin f).bootAreas = s.bootAreas := rfl
@[simp] theorem State.setFin_repairs (s : State) (f : WordEnd) : (s.setFin f).repairs = s.repairs := rfl
@[simp] theorem State.setFin_mfg (s : State) (f : WordEnd) : (s.setFin f).mfg = s.mfg := rfl
@[simp] theorem State.setFin_defects (s : State) (f : WordEnd) : (s.setFin f).defects = s.defects := rfl
@[simp] theorem State.setFin_sparesUsed (s : State) (f : WordEnd) : (s.setFin f).sparesUsed = s.sparesUsed := rfl
@[simp] theorem State.setFin_rowsUsed (s : State) (f : WordEnd) : (s.setFin f).rowsUsed = s.rowsUsed := rfl
@[simp] theorem State.setFin_cur (s : State) (f : WordEnd) : (s.setFin f).cur = s.cur := rfl
@[simp] theorem State.setFin_bun (s : State) (f : WordEnd) : (s.setFin f).bun = ⟨s.bun.pc, s.bun.size, s.bun.cw, s.bun.aw, s.bun.isA, s.bun.hold, s.bun.g, s.bun.v, s.bun.k, s.bun.src, s.bun.given, f⟩ := rfl
@[simp] theorem State.setFin_agenda (s : State) (f : WordEnd) : (s.setFin f).agenda = s.agenda := rfl
@[simp] theorem State.setFin_cycle (s : State) (f : WordEnd) : (s.setFin f).cycle = s.cycle := rfl
@[simp] theorem State.setFin_nextUid (s : State) (f : WordEnd) : (s.setFin f).nextUid = s.nextUid := rfl
@[simp] theorem State.setFin_nextMid (s : State) (f : WordEnd) : (s.setFin f).nextMid = s.nextMid := rfl
@[simp] theorem State.setFin_fresh (s : State) (f : WordEnd) : (s.setFin f).fresh = s.fresh := rfl

/-! ### inject -/

@[simp] theorem State.inject_mem (s : State) (m : Msg) : (s.inject m).mem = s.mem := rfl
@[simp] theorem State.inject_threads (s : State) (m : Msg) : (s.inject m).threads = s.threads := rfl
@[simp] theorem State.inject_slots (s : State) (m : Msg) : (s.inject m).slots = s.slots := rfl
@[simp] theorem State.inject_cores (s : State) (m : Msg) : (s.inject m).cores = s.cores := rfl
@[simp] theorem State.inject_booths (s : State) (m : Msg) : (s.inject m).booths = s.booths := rfl
@[simp] theorem State.inject_maps (s : State) (m : Msg) : (s.inject m).maps = s.maps := rfl
@[simp] theorem State.inject_l2 (s : State) (m : Msg) : (s.inject m).l2 = s.l2 := rfl
@[simp] theorem State.inject_walks (s : State) (m : Msg) : (s.inject m).walks = s.walks := rfl
@[simp] theorem State.inject_net (s : State) (m : Msg) : (s.inject m).net = s.net ++ [m] := rfl
@[simp] theorem State.inject_switches (s : State) (m : Msg) : (s.inject m).switches = s.switches := rfl
@[simp] theorem State.inject_bufFlits (s : State) (m : Msg) : (s.inject m).bufFlits = s.bufFlits := rfl
@[simp] theorem State.inject_queueFlits (s : State) (m : Msg) : (s.inject m).queueFlits = s.queueFlits := rfl
@[simp] theorem State.inject_feWait (s : State) (m : Msg) : (s.inject m).feWait = s.feWait := rfl
@[simp] theorem State.inject_agedWait (s : State) (m : Msg) : (s.inject m).agedWait = s.agedWait := rfl
@[simp] theorem State.inject_stops (s : State) (m : Msg) : (s.inject m).stops = s.stops := rfl
@[simp] theorem State.inject_rings (s : State) (m : Msg) : (s.inject m).rings = s.rings := rfl
@[simp] theorem State.inject_watch (s : State) (m : Msg) : (s.inject m).watch = s.watch := rfl
@[simp] theorem State.inject_uncredited (s : State) (m : Msg) : (s.inject m).uncredited = s.uncredited := rfl
@[simp] theorem State.inject_vqs (s : State) (m : Msg) : (s.inject m).vqs = s.vqs := rfl
@[simp] theorem State.inject_turns (s : State) (m : Msg) : (s.inject m).turns = s.turns := rfl
@[simp] theorem State.inject_nturns (s : State) (m : Msg) : (s.inject m).nturns = s.nturns := rfl
@[simp] theorem State.inject_pulses (s : State) (m : Msg) : (s.inject m).pulses = s.pulses := rfl
@[simp] theorem State.inject_nqs (s : State) (m : Msg) : (s.inject m).nqs = s.nqs := rfl
@[simp] theorem State.inject_ether (s : State) (m : Msg) : (s.inject m).ether = s.ether := rfl
@[simp] theorem State.inject_etherAddrs (s : State) (m : Msg) : (s.inject m).etherAddrs = s.etherAddrs := rfl
@[simp] theorem State.inject_etherLost (s : State) (m : Msg) : (s.inject m).etherLost = s.etherLost := rfl
@[simp] theorem State.inject_nextRid (s : State) (m : Msg) : (s.inject m).nextRid = s.nextRid := rfl
@[simp] theorem State.inject_linkNet (s : State) (m : Msg) : (s.inject m).linkNet = s.linkNet := rfl
@[simp] theorem State.inject_stitch (s : State) (m : Msg) : (s.inject m).stitch = s.stitch := rfl
@[simp] theorem State.inject_cxl (s : State) (m : Msg) : (s.inject m).cxl = s.cxl := rfl
@[simp] theorem State.inject_lacking (s : State) (m : Msg) : (s.inject m).lacking = s.lacking := rfl
@[simp] theorem State.inject_launches (s : State) (m : Msg) : (s.inject m).launches = s.launches := rfl
@[simp] theorem State.inject_nextLaunch (s : State) (m : Msg) : (s.inject m).nextLaunch = s.nextLaunch := rfl
@[simp] theorem State.inject_spawnQ (s : State) (m : Msg) : (s.inject m).spawnQ = s.spawnQ := rfl
@[simp] theorem State.inject_chans (s : State) (m : Msg) : (s.inject m).chans = s.chans := rfl
@[simp] theorem State.inject_preempts (s : State) (m : Msg) : (s.inject m).preempts = s.preempts := rfl
@[simp] theorem State.inject_images (s : State) (m : Msg) : (s.inject m).images = s.images := rfl
@[simp] theorem State.inject_spillAreas (s : State) (m : Msg) : (s.inject m).spillAreas = s.spillAreas := rfl
@[simp] theorem State.inject_receipts (s : State) (m : Msg) : (s.inject m).receipts = s.receipts := rfl
@[simp] theorem State.inject_handovers (s : State) (m : Msg) : (s.inject m).handovers = s.handovers := rfl
@[simp] theorem State.inject_areas (s : State) (m : Msg) : (s.inject m).areas = s.areas := rfl
@[simp] theorem State.inject_areaKeys (s : State) (m : Msg) : (s.inject m).areaKeys = s.areaKeys := rfl
@[simp] theorem State.inject_areaBanks (s : State) (m : Msg) : (s.inject m).areaBanks = s.areaBanks := rfl
@[simp] theorem State.inject_areaSlots (s : State) (m : Msg) : (s.inject m).areaSlots = s.areaSlots := rfl
@[simp] theorem State.inject_nextHandover (s : State) (m : Msg) : (s.inject m).nextHandover = s.nextHandover := rfl
@[simp] theorem State.inject_pkgs (s : State) (m : Msg) : (s.inject m).pkgs = s.pkgs := rfl
@[simp] theorem State.inject_regions (s : State) (m : Msg) : (s.inject m).regions = s.regions := rfl
@[simp] theorem State.inject_boothPkgs (s : State) (m : Msg) : (s.inject m).boothPkgs = s.boothPkgs := rfl
@[simp] theorem State.inject_gangs (s : State) (m : Msg) : (s.inject m).gangs = s.gangs := rfl
@[simp] theorem State.inject_grants (s : State) (m : Msg) : (s.inject m).grants = s.grants := rfl
@[simp] theorem State.inject_hostRing (s : State) (m : Msg) : (s.inject m).hostRing = s.hostRing := rfl
@[simp] theorem State.inject_bootAreas (s : State) (m : Msg) : (s.inject m).bootAreas = s.bootAreas := rfl
@[simp] theorem State.inject_repairs (s : State) (m : Msg) : (s.inject m).repairs = s.repairs := rfl
@[simp] theorem State.inject_mfg (s : State) (m : Msg) : (s.inject m).mfg = s.mfg := rfl
@[simp] theorem State.inject_defects (s : State) (m : Msg) : (s.inject m).defects = s.defects := rfl
@[simp] theorem State.inject_sparesUsed (s : State) (m : Msg) : (s.inject m).sparesUsed = s.sparesUsed := rfl
@[simp] theorem State.inject_rowsUsed (s : State) (m : Msg) : (s.inject m).rowsUsed = s.rowsUsed := rfl
@[simp] theorem State.inject_cur (s : State) (m : Msg) : (s.inject m).cur = s.cur := rfl
@[simp] theorem State.inject_bun (s : State) (m : Msg) : (s.inject m).bun = s.bun := rfl
@[simp] theorem State.inject_agenda (s : State) (m : Msg) : (s.inject m).agenda = s.agenda := rfl
@[simp] theorem State.inject_cycle (s : State) (m : Msg) : (s.inject m).cycle = s.cycle := rfl
@[simp] theorem State.inject_nextUid (s : State) (m : Msg) : (s.inject m).nextUid = s.nextUid := rfl
@[simp] theorem State.inject_nextMid (s : State) (m : Msg) : (s.inject m).nextMid = s.nextMid + 1 := rfl
@[simp] theorem State.inject_fresh (s : State) (m : Msg) : (s.inject m).fresh = s.fresh := rfl

/-! ### dropMsg -/

@[simp] theorem State.dropMsg_mem (s : State) (n : Nat) : (s.dropMsg n).mem = s.mem := rfl
@[simp] theorem State.dropMsg_threads (s : State) (n : Nat) : (s.dropMsg n).threads = s.threads := rfl
@[simp] theorem State.dropMsg_slots (s : State) (n : Nat) : (s.dropMsg n).slots = s.slots := rfl
@[simp] theorem State.dropMsg_cores (s : State) (n : Nat) : (s.dropMsg n).cores = s.cores := rfl
@[simp] theorem State.dropMsg_booths (s : State) (n : Nat) : (s.dropMsg n).booths = s.booths := rfl
@[simp] theorem State.dropMsg_maps (s : State) (n : Nat) : (s.dropMsg n).maps = s.maps := rfl
@[simp] theorem State.dropMsg_l2 (s : State) (n : Nat) : (s.dropMsg n).l2 = s.l2 := rfl
@[simp] theorem State.dropMsg_walks (s : State) (n : Nat) : (s.dropMsg n).walks = s.walks := rfl
@[simp] theorem State.dropMsg_net (s : State) (n : Nat) : (s.dropMsg n).net = dropAt s.net n := rfl
@[simp] theorem State.dropMsg_switches (s : State) (n : Nat) : (s.dropMsg n).switches = s.switches := rfl
@[simp] theorem State.dropMsg_bufFlits (s : State) (n : Nat) : (s.dropMsg n).bufFlits = s.bufFlits := rfl
@[simp] theorem State.dropMsg_queueFlits (s : State) (n : Nat) : (s.dropMsg n).queueFlits = s.queueFlits := rfl
@[simp] theorem State.dropMsg_feWait (s : State) (n : Nat) : (s.dropMsg n).feWait = s.feWait := rfl
@[simp] theorem State.dropMsg_agedWait (s : State) (n : Nat) : (s.dropMsg n).agedWait = s.agedWait := rfl
@[simp] theorem State.dropMsg_stops (s : State) (n : Nat) : (s.dropMsg n).stops = s.stops := rfl
@[simp] theorem State.dropMsg_rings (s : State) (n : Nat) : (s.dropMsg n).rings = s.rings := rfl
@[simp] theorem State.dropMsg_watch (s : State) (n : Nat) : (s.dropMsg n).watch = s.watch := rfl
@[simp] theorem State.dropMsg_uncredited (s : State) (n : Nat) : (s.dropMsg n).uncredited = s.uncredited := rfl
@[simp] theorem State.dropMsg_vqs (s : State) (n : Nat) : (s.dropMsg n).vqs = s.vqs := rfl
@[simp] theorem State.dropMsg_turns (s : State) (n : Nat) : (s.dropMsg n).turns = s.turns := rfl
@[simp] theorem State.dropMsg_nturns (s : State) (n : Nat) : (s.dropMsg n).nturns = s.nturns := rfl
@[simp] theorem State.dropMsg_pulses (s : State) (n : Nat) : (s.dropMsg n).pulses = s.pulses := rfl
@[simp] theorem State.dropMsg_nqs (s : State) (n : Nat) : (s.dropMsg n).nqs = s.nqs := rfl
@[simp] theorem State.dropMsg_ether (s : State) (n : Nat) : (s.dropMsg n).ether = s.ether := rfl
@[simp] theorem State.dropMsg_etherAddrs (s : State) (n : Nat) : (s.dropMsg n).etherAddrs = s.etherAddrs := rfl
@[simp] theorem State.dropMsg_etherLost (s : State) (n : Nat) : (s.dropMsg n).etherLost = s.etherLost := rfl
@[simp] theorem State.dropMsg_nextRid (s : State) (n : Nat) : (s.dropMsg n).nextRid = s.nextRid := rfl
@[simp] theorem State.dropMsg_linkNet (s : State) (n : Nat) : (s.dropMsg n).linkNet = s.linkNet := rfl
@[simp] theorem State.dropMsg_stitch (s : State) (n : Nat) : (s.dropMsg n).stitch = s.stitch := rfl
@[simp] theorem State.dropMsg_cxl (s : State) (n : Nat) : (s.dropMsg n).cxl = s.cxl := rfl
@[simp] theorem State.dropMsg_lacking (s : State) (n : Nat) : (s.dropMsg n).lacking = s.lacking := rfl
@[simp] theorem State.dropMsg_launches (s : State) (n : Nat) : (s.dropMsg n).launches = s.launches := rfl
@[simp] theorem State.dropMsg_nextLaunch (s : State) (n : Nat) : (s.dropMsg n).nextLaunch = s.nextLaunch := rfl
@[simp] theorem State.dropMsg_spawnQ (s : State) (n : Nat) : (s.dropMsg n).spawnQ = s.spawnQ := rfl
@[simp] theorem State.dropMsg_chans (s : State) (n : Nat) : (s.dropMsg n).chans = s.chans := rfl
@[simp] theorem State.dropMsg_preempts (s : State) (n : Nat) : (s.dropMsg n).preempts = s.preempts := rfl
@[simp] theorem State.dropMsg_images (s : State) (n : Nat) : (s.dropMsg n).images = s.images := rfl
@[simp] theorem State.dropMsg_spillAreas (s : State) (n : Nat) : (s.dropMsg n).spillAreas = s.spillAreas := rfl
@[simp] theorem State.dropMsg_receipts (s : State) (n : Nat) : (s.dropMsg n).receipts = s.receipts := rfl
@[simp] theorem State.dropMsg_handovers (s : State) (n : Nat) : (s.dropMsg n).handovers = s.handovers := rfl
@[simp] theorem State.dropMsg_areas (s : State) (n : Nat) : (s.dropMsg n).areas = s.areas := rfl
@[simp] theorem State.dropMsg_areaKeys (s : State) (n : Nat) : (s.dropMsg n).areaKeys = s.areaKeys := rfl
@[simp] theorem State.dropMsg_areaBanks (s : State) (n : Nat) : (s.dropMsg n).areaBanks = s.areaBanks := rfl
@[simp] theorem State.dropMsg_areaSlots (s : State) (n : Nat) : (s.dropMsg n).areaSlots = s.areaSlots := rfl
@[simp] theorem State.dropMsg_nextHandover (s : State) (n : Nat) : (s.dropMsg n).nextHandover = s.nextHandover := rfl
@[simp] theorem State.dropMsg_pkgs (s : State) (n : Nat) : (s.dropMsg n).pkgs = s.pkgs := rfl
@[simp] theorem State.dropMsg_regions (s : State) (n : Nat) : (s.dropMsg n).regions = s.regions := rfl
@[simp] theorem State.dropMsg_boothPkgs (s : State) (n : Nat) : (s.dropMsg n).boothPkgs = s.boothPkgs := rfl
@[simp] theorem State.dropMsg_gangs (s : State) (n : Nat) : (s.dropMsg n).gangs = s.gangs := rfl
@[simp] theorem State.dropMsg_grants (s : State) (n : Nat) : (s.dropMsg n).grants = s.grants := rfl
@[simp] theorem State.dropMsg_hostRing (s : State) (n : Nat) : (s.dropMsg n).hostRing = s.hostRing := rfl
@[simp] theorem State.dropMsg_bootAreas (s : State) (n : Nat) : (s.dropMsg n).bootAreas = s.bootAreas := rfl
@[simp] theorem State.dropMsg_repairs (s : State) (n : Nat) : (s.dropMsg n).repairs = s.repairs := rfl
@[simp] theorem State.dropMsg_mfg (s : State) (n : Nat) : (s.dropMsg n).mfg = s.mfg := rfl
@[simp] theorem State.dropMsg_defects (s : State) (n : Nat) : (s.dropMsg n).defects = s.defects := rfl
@[simp] theorem State.dropMsg_sparesUsed (s : State) (n : Nat) : (s.dropMsg n).sparesUsed = s.sparesUsed := rfl
@[simp] theorem State.dropMsg_rowsUsed (s : State) (n : Nat) : (s.dropMsg n).rowsUsed = s.rowsUsed := rfl
@[simp] theorem State.dropMsg_cur (s : State) (n : Nat) : (s.dropMsg n).cur = s.cur := rfl
@[simp] theorem State.dropMsg_bun (s : State) (n : Nat) : (s.dropMsg n).bun = s.bun := rfl
@[simp] theorem State.dropMsg_agenda (s : State) (n : Nat) : (s.dropMsg n).agenda = s.agenda := rfl
@[simp] theorem State.dropMsg_cycle (s : State) (n : Nat) : (s.dropMsg n).cycle = s.cycle := rfl
@[simp] theorem State.dropMsg_nextUid (s : State) (n : Nat) : (s.dropMsg n).nextUid = s.nextUid := rfl
@[simp] theorem State.dropMsg_nextMid (s : State) (n : Nat) : (s.dropMsg n).nextMid = s.nextMid := rfl
@[simp] theorem State.dropMsg_fresh (s : State) (n : Nat) : (s.dropMsg n).fresh = s.fresh := rfl

/-! ### drawn -/

@[simp] theorem State.drawn_mem (s : State) (booth : Nat) (t : Word) : (s.drawn booth t).mem = s.mem := rfl
@[simp] theorem State.drawn_threads (s : State) (booth : Nat) (t : Word) : (s.drawn booth t).threads = s.threads := rfl
@[simp] theorem State.drawn_slots (s : State) (booth : Nat) (t : Word) : (s.drawn booth t).slots = s.slots := rfl
@[simp] theorem State.drawn_cores (s : State) (booth : Nat) (t : Word) : (s.drawn booth t).cores = s.cores := rfl
@[simp] theorem State.drawn_booths (s : State) (booth : Nat) (t : Word) : (s.drawn booth t).booths = s.booths := rfl
@[simp] theorem State.drawn_maps (s : State) (booth : Nat) (t : Word) : (s.drawn booth t).maps = s.maps := rfl
@[simp] theorem State.drawn_l2 (s : State) (booth : Nat) (t : Word) : (s.drawn booth t).l2 = s.l2 := rfl
@[simp] theorem State.drawn_walks (s : State) (booth : Nat) (t : Word) : (s.drawn booth t).walks = s.walks := rfl
@[simp] theorem State.drawn_net (s : State) (booth : Nat) (t : Word) : (s.drawn booth t).net = s.net := rfl
@[simp] theorem State.drawn_switches (s : State) (booth : Nat) (t : Word) : (s.drawn booth t).switches = s.switches := rfl
@[simp] theorem State.drawn_bufFlits (s : State) (booth : Nat) (t : Word) : (s.drawn booth t).bufFlits = s.bufFlits := rfl
@[simp] theorem State.drawn_queueFlits (s : State) (booth : Nat) (t : Word) : (s.drawn booth t).queueFlits = s.queueFlits := rfl
@[simp] theorem State.drawn_feWait (s : State) (booth : Nat) (t : Word) : (s.drawn booth t).feWait = s.feWait := rfl
@[simp] theorem State.drawn_agedWait (s : State) (booth : Nat) (t : Word) : (s.drawn booth t).agedWait = s.agedWait := rfl
@[simp] theorem State.drawn_stops (s : State) (booth : Nat) (t : Word) : (s.drawn booth t).stops = s.stops := rfl
@[simp] theorem State.drawn_rings (s : State) (booth : Nat) (t : Word) : (s.drawn booth t).rings = s.rings := rfl
@[simp] theorem State.drawn_watch (s : State) (booth : Nat) (t : Word) : (s.drawn booth t).watch = s.watch := rfl
@[simp] theorem State.drawn_uncredited (s : State) (booth : Nat) (t : Word) : (s.drawn booth t).uncredited = s.uncredited := rfl
@[simp] theorem State.drawn_vqs (s : State) (booth : Nat) (t : Word) : (s.drawn booth t).vqs = s.vqs := rfl
@[simp] theorem State.drawn_turns (s : State) (booth : Nat) (t : Word) : (s.drawn booth t).turns = s.turns := rfl
@[simp] theorem State.drawn_nturns (s : State) (booth : Nat) (t : Word) : (s.drawn booth t).nturns = s.nturns := rfl
@[simp] theorem State.drawn_pulses (s : State) (booth : Nat) (t : Word) : (s.drawn booth t).pulses = s.pulses := rfl
@[simp] theorem State.drawn_nqs (s : State) (booth : Nat) (t : Word) : (s.drawn booth t).nqs = s.nqs := rfl
@[simp] theorem State.drawn_ether (s : State) (booth : Nat) (t : Word) : (s.drawn booth t).ether = s.ether := rfl
@[simp] theorem State.drawn_etherAddrs (s : State) (booth : Nat) (t : Word) : (s.drawn booth t).etherAddrs = s.etherAddrs := rfl
@[simp] theorem State.drawn_etherLost (s : State) (booth : Nat) (t : Word) : (s.drawn booth t).etherLost = s.etherLost := rfl
@[simp] theorem State.drawn_nextRid (s : State) (booth : Nat) (t : Word) : (s.drawn booth t).nextRid = s.nextRid := rfl
@[simp] theorem State.drawn_linkNet (s : State) (booth : Nat) (t : Word) : (s.drawn booth t).linkNet = s.linkNet := rfl
@[simp] theorem State.drawn_stitch (s : State) (booth : Nat) (t : Word) : (s.drawn booth t).stitch = s.stitch := rfl
@[simp] theorem State.drawn_cxl (s : State) (booth : Nat) (t : Word) : (s.drawn booth t).cxl = s.cxl := rfl
@[simp] theorem State.drawn_lacking (s : State) (booth : Nat) (t : Word) : (s.drawn booth t).lacking = s.lacking := rfl
@[simp] theorem State.drawn_launches (s : State) (booth : Nat) (t : Word) : (s.drawn booth t).launches = s.launches := rfl
@[simp] theorem State.drawn_nextLaunch (s : State) (booth : Nat) (t : Word) : (s.drawn booth t).nextLaunch = s.nextLaunch := rfl
@[simp] theorem State.drawn_spawnQ (s : State) (booth : Nat) (t : Word) : (s.drawn booth t).spawnQ = s.spawnQ := rfl
@[simp] theorem State.drawn_chans (s : State) (booth : Nat) (t : Word) : (s.drawn booth t).chans = s.chans := rfl
@[simp] theorem State.drawn_preempts (s : State) (booth : Nat) (t : Word) : (s.drawn booth t).preempts = s.preempts := rfl
@[simp] theorem State.drawn_images (s : State) (booth : Nat) (t : Word) : (s.drawn booth t).images = s.images := rfl
@[simp] theorem State.drawn_spillAreas (s : State) (booth : Nat) (t : Word) : (s.drawn booth t).spillAreas = s.spillAreas := rfl
@[simp] theorem State.drawn_receipts (s : State) (booth : Nat) (t : Word) : (s.drawn booth t).receipts = s.receipts := rfl
@[simp] theorem State.drawn_handovers (s : State) (booth : Nat) (t : Word) : (s.drawn booth t).handovers = s.handovers := rfl
@[simp] theorem State.drawn_areas (s : State) (booth : Nat) (t : Word) : (s.drawn booth t).areas = s.areas := rfl
@[simp] theorem State.drawn_areaKeys (s : State) (booth : Nat) (t : Word) : (s.drawn booth t).areaKeys = s.areaKeys := rfl
@[simp] theorem State.drawn_areaBanks (s : State) (booth : Nat) (t : Word) : (s.drawn booth t).areaBanks = s.areaBanks := rfl
@[simp] theorem State.drawn_areaSlots (s : State) (booth : Nat) (t : Word) : (s.drawn booth t).areaSlots = s.areaSlots := rfl
@[simp] theorem State.drawn_nextHandover (s : State) (booth : Nat) (t : Word) : (s.drawn booth t).nextHandover = s.nextHandover := rfl
@[simp] theorem State.drawn_pkgs (s : State) (booth : Nat) (t : Word) : (s.drawn booth t).pkgs = s.pkgs := rfl
@[simp] theorem State.drawn_regions (s : State) (booth : Nat) (t : Word) : (s.drawn booth t).regions = s.regions := rfl
@[simp] theorem State.drawn_boothPkgs (s : State) (booth : Nat) (t : Word) : (s.drawn booth t).boothPkgs = s.boothPkgs := rfl
@[simp] theorem State.drawn_gangs (s : State) (booth : Nat) (t : Word) : (s.drawn booth t).gangs = s.gangs := rfl
@[simp] theorem State.drawn_grants (s : State) (booth : Nat) (t : Word) : (s.drawn booth t).grants = s.grants := rfl
@[simp] theorem State.drawn_hostRing (s : State) (booth : Nat) (t : Word) : (s.drawn booth t).hostRing = s.hostRing := rfl
@[simp] theorem State.drawn_bootAreas (s : State) (booth : Nat) (t : Word) : (s.drawn booth t).bootAreas = s.bootAreas := rfl
@[simp] theorem State.drawn_repairs (s : State) (booth : Nat) (t : Word) : (s.drawn booth t).repairs = s.repairs := rfl
@[simp] theorem State.drawn_mfg (s : State) (booth : Nat) (t : Word) : (s.drawn booth t).mfg = s.mfg := rfl
@[simp] theorem State.drawn_defects (s : State) (booth : Nat) (t : Word) : (s.drawn booth t).defects = s.defects := rfl
@[simp] theorem State.drawn_sparesUsed (s : State) (booth : Nat) (t : Word) : (s.drawn booth t).sparesUsed = s.sparesUsed := rfl
@[simp] theorem State.drawn_rowsUsed (s : State) (booth : Nat) (t : Word) : (s.drawn booth t).rowsUsed = s.rowsUsed := rfl
@[simp] theorem State.drawn_cur (s : State) (booth : Nat) (t : Word) : (s.drawn booth t).cur = s.cur := rfl
@[simp] theorem State.drawn_bun (s : State) (booth : Nat) (t : Word) : (s.drawn booth t).bun = s.bun := rfl
@[simp] theorem State.drawn_agenda (s : State) (booth : Nat) (t : Word) : (s.drawn booth t).agenda = s.agenda := rfl
@[simp] theorem State.drawn_cycle (s : State) (booth : Nat) (t : Word) : (s.drawn booth t).cycle = s.cycle := rfl
@[simp] theorem State.drawn_nextUid (s : State) (booth : Nat) (t : Word) : (s.drawn booth t).nextUid = s.nextUid := rfl
@[simp] theorem State.drawn_nextMid (s : State) (booth : Nat) (t : Word) : (s.drawn booth t).nextMid = s.nextMid := rfl
@[simp] theorem State.drawn_fresh (s : State) (booth : Nat) (t : Word) : (s.drawn booth t).fresh = put s.fresh (freshKey booth t) (getD s.fresh (freshKey booth t) 0 + 1) := rfl

/-! ### setSwitch -/

@[simp] theorem State.setSwitch_mem (s : State) (sw : Nat) (x : SwitchSt) : (s.setSwitch sw x).mem = s.mem := rfl
@[simp] theorem State.setSwitch_threads (s : State) (sw : Nat) (x : SwitchSt) : (s.setSwitch sw x).threads = s.threads := rfl
@[simp] theorem State.setSwitch_slots (s : State) (sw : Nat) (x : SwitchSt) : (s.setSwitch sw x).slots = s.slots := rfl
@[simp] theorem State.setSwitch_cores (s : State) (sw : Nat) (x : SwitchSt) : (s.setSwitch sw x).cores = s.cores := rfl
@[simp] theorem State.setSwitch_booths (s : State) (sw : Nat) (x : SwitchSt) : (s.setSwitch sw x).booths = s.booths := rfl
@[simp] theorem State.setSwitch_maps (s : State) (sw : Nat) (x : SwitchSt) : (s.setSwitch sw x).maps = s.maps := rfl
@[simp] theorem State.setSwitch_l2 (s : State) (sw : Nat) (x : SwitchSt) : (s.setSwitch sw x).l2 = s.l2 := rfl
@[simp] theorem State.setSwitch_walks (s : State) (sw : Nat) (x : SwitchSt) : (s.setSwitch sw x).walks = s.walks := rfl
@[simp] theorem State.setSwitch_net (s : State) (sw : Nat) (x : SwitchSt) : (s.setSwitch sw x).net = s.net := rfl
@[simp] theorem State.setSwitch_switches (s : State) (sw : Nat) (x : SwitchSt) : (s.setSwitch sw x).switches = put s.switches sw x := rfl
@[simp] theorem State.setSwitch_bufFlits (s : State) (sw : Nat) (x : SwitchSt) : (s.setSwitch sw x).bufFlits = s.bufFlits := rfl
@[simp] theorem State.setSwitch_queueFlits (s : State) (sw : Nat) (x : SwitchSt) : (s.setSwitch sw x).queueFlits = s.queueFlits := rfl
@[simp] theorem State.setSwitch_feWait (s : State) (sw : Nat) (x : SwitchSt) : (s.setSwitch sw x).feWait = s.feWait := rfl
@[simp] theorem State.setSwitch_agedWait (s : State) (sw : Nat) (x : SwitchSt) : (s.setSwitch sw x).agedWait = s.agedWait := rfl
@[simp] theorem State.setSwitch_stops (s : State) (sw : Nat) (x : SwitchSt) : (s.setSwitch sw x).stops = s.stops := rfl
@[simp] theorem State.setSwitch_rings (s : State) (sw : Nat) (x : SwitchSt) : (s.setSwitch sw x).rings = s.rings := rfl
@[simp] theorem State.setSwitch_watch (s : State) (sw : Nat) (x : SwitchSt) : (s.setSwitch sw x).watch = s.watch := rfl
@[simp] theorem State.setSwitch_uncredited (s : State) (sw : Nat) (x : SwitchSt) : (s.setSwitch sw x).uncredited = s.uncredited := rfl
@[simp] theorem State.setSwitch_vqs (s : State) (sw : Nat) (x : SwitchSt) : (s.setSwitch sw x).vqs = s.vqs := rfl
@[simp] theorem State.setSwitch_turns (s : State) (sw : Nat) (x : SwitchSt) : (s.setSwitch sw x).turns = s.turns := rfl
@[simp] theorem State.setSwitch_nturns (s : State) (sw : Nat) (x : SwitchSt) : (s.setSwitch sw x).nturns = s.nturns := rfl
@[simp] theorem State.setSwitch_pulses (s : State) (sw : Nat) (x : SwitchSt) : (s.setSwitch sw x).pulses = s.pulses := rfl
@[simp] theorem State.setSwitch_nqs (s : State) (sw : Nat) (x : SwitchSt) : (s.setSwitch sw x).nqs = s.nqs := rfl
@[simp] theorem State.setSwitch_ether (s : State) (sw : Nat) (x : SwitchSt) : (s.setSwitch sw x).ether = s.ether := rfl
@[simp] theorem State.setSwitch_etherAddrs (s : State) (sw : Nat) (x : SwitchSt) : (s.setSwitch sw x).etherAddrs = s.etherAddrs := rfl
@[simp] theorem State.setSwitch_etherLost (s : State) (sw : Nat) (x : SwitchSt) : (s.setSwitch sw x).etherLost = s.etherLost := rfl
@[simp] theorem State.setSwitch_nextRid (s : State) (sw : Nat) (x : SwitchSt) : (s.setSwitch sw x).nextRid = s.nextRid := rfl
@[simp] theorem State.setSwitch_linkNet (s : State) (sw : Nat) (x : SwitchSt) : (s.setSwitch sw x).linkNet = s.linkNet := rfl
@[simp] theorem State.setSwitch_stitch (s : State) (sw : Nat) (x : SwitchSt) : (s.setSwitch sw x).stitch = s.stitch := rfl
@[simp] theorem State.setSwitch_cxl (s : State) (sw : Nat) (x : SwitchSt) : (s.setSwitch sw x).cxl = s.cxl := rfl
@[simp] theorem State.setSwitch_lacking (s : State) (sw : Nat) (x : SwitchSt) : (s.setSwitch sw x).lacking = s.lacking := rfl
@[simp] theorem State.setSwitch_launches (s : State) (sw : Nat) (x : SwitchSt) : (s.setSwitch sw x).launches = s.launches := rfl
@[simp] theorem State.setSwitch_nextLaunch (s : State) (sw : Nat) (x : SwitchSt) : (s.setSwitch sw x).nextLaunch = s.nextLaunch := rfl
@[simp] theorem State.setSwitch_spawnQ (s : State) (sw : Nat) (x : SwitchSt) : (s.setSwitch sw x).spawnQ = s.spawnQ := rfl
@[simp] theorem State.setSwitch_chans (s : State) (sw : Nat) (x : SwitchSt) : (s.setSwitch sw x).chans = s.chans := rfl
@[simp] theorem State.setSwitch_preempts (s : State) (sw : Nat) (x : SwitchSt) : (s.setSwitch sw x).preempts = s.preempts := rfl
@[simp] theorem State.setSwitch_images (s : State) (sw : Nat) (x : SwitchSt) : (s.setSwitch sw x).images = s.images := rfl
@[simp] theorem State.setSwitch_spillAreas (s : State) (sw : Nat) (x : SwitchSt) : (s.setSwitch sw x).spillAreas = s.spillAreas := rfl
@[simp] theorem State.setSwitch_receipts (s : State) (sw : Nat) (x : SwitchSt) : (s.setSwitch sw x).receipts = s.receipts := rfl
@[simp] theorem State.setSwitch_handovers (s : State) (sw : Nat) (x : SwitchSt) : (s.setSwitch sw x).handovers = s.handovers := rfl
@[simp] theorem State.setSwitch_areas (s : State) (sw : Nat) (x : SwitchSt) : (s.setSwitch sw x).areas = s.areas := rfl
@[simp] theorem State.setSwitch_areaKeys (s : State) (sw : Nat) (x : SwitchSt) : (s.setSwitch sw x).areaKeys = s.areaKeys := rfl
@[simp] theorem State.setSwitch_areaBanks (s : State) (sw : Nat) (x : SwitchSt) : (s.setSwitch sw x).areaBanks = s.areaBanks := rfl
@[simp] theorem State.setSwitch_areaSlots (s : State) (sw : Nat) (x : SwitchSt) : (s.setSwitch sw x).areaSlots = s.areaSlots := rfl
@[simp] theorem State.setSwitch_nextHandover (s : State) (sw : Nat) (x : SwitchSt) : (s.setSwitch sw x).nextHandover = s.nextHandover := rfl
@[simp] theorem State.setSwitch_pkgs (s : State) (sw : Nat) (x : SwitchSt) : (s.setSwitch sw x).pkgs = s.pkgs := rfl
@[simp] theorem State.setSwitch_regions (s : State) (sw : Nat) (x : SwitchSt) : (s.setSwitch sw x).regions = s.regions := rfl
@[simp] theorem State.setSwitch_boothPkgs (s : State) (sw : Nat) (x : SwitchSt) : (s.setSwitch sw x).boothPkgs = s.boothPkgs := rfl
@[simp] theorem State.setSwitch_gangs (s : State) (sw : Nat) (x : SwitchSt) : (s.setSwitch sw x).gangs = s.gangs := rfl
@[simp] theorem State.setSwitch_grants (s : State) (sw : Nat) (x : SwitchSt) : (s.setSwitch sw x).grants = s.grants := rfl
@[simp] theorem State.setSwitch_hostRing (s : State) (sw : Nat) (x : SwitchSt) : (s.setSwitch sw x).hostRing = s.hostRing := rfl
@[simp] theorem State.setSwitch_bootAreas (s : State) (sw : Nat) (x : SwitchSt) : (s.setSwitch sw x).bootAreas = s.bootAreas := rfl
@[simp] theorem State.setSwitch_repairs (s : State) (sw : Nat) (x : SwitchSt) : (s.setSwitch sw x).repairs = s.repairs := rfl
@[simp] theorem State.setSwitch_mfg (s : State) (sw : Nat) (x : SwitchSt) : (s.setSwitch sw x).mfg = s.mfg := rfl
@[simp] theorem State.setSwitch_defects (s : State) (sw : Nat) (x : SwitchSt) : (s.setSwitch sw x).defects = s.defects := rfl
@[simp] theorem State.setSwitch_sparesUsed (s : State) (sw : Nat) (x : SwitchSt) : (s.setSwitch sw x).sparesUsed = s.sparesUsed := rfl
@[simp] theorem State.setSwitch_rowsUsed (s : State) (sw : Nat) (x : SwitchSt) : (s.setSwitch sw x).rowsUsed = s.rowsUsed := rfl
@[simp] theorem State.setSwitch_cur (s : State) (sw : Nat) (x : SwitchSt) : (s.setSwitch sw x).cur = s.cur := rfl
@[simp] theorem State.setSwitch_bun (s : State) (sw : Nat) (x : SwitchSt) : (s.setSwitch sw x).bun = s.bun := rfl
@[simp] theorem State.setSwitch_agenda (s : State) (sw : Nat) (x : SwitchSt) : (s.setSwitch sw x).agenda = s.agenda := rfl
@[simp] theorem State.setSwitch_cycle (s : State) (sw : Nat) (x : SwitchSt) : (s.setSwitch sw x).cycle = s.cycle := rfl
@[simp] theorem State.setSwitch_nextUid (s : State) (sw : Nat) (x : SwitchSt) : (s.setSwitch sw x).nextUid = s.nextUid := rfl
@[simp] theorem State.setSwitch_nextMid (s : State) (sw : Nat) (x : SwitchSt) : (s.setSwitch sw x).nextMid = s.nextMid := rfl
@[simp] theorem State.setSwitch_fresh (s : State) (sw : Nat) (x : SwitchSt) : (s.setSwitch sw x).fresh = s.fresh := rfl

/-! ### modRegs -/

@[simp] theorem State.modRegs_mem (s : State) (f : SlotRegs → SlotRegs) : (s.modRegs f).mem = s.mem := rfl
@[simp] theorem State.modRegs_threads (s : State) (f : SlotRegs → SlotRegs) : (s.modRegs f).threads = s.threads := rfl
@[simp] theorem State.modRegs_cores (s : State) (f : SlotRegs → SlotRegs) : (s.modRegs f).cores = s.cores := rfl
@[simp] theorem State.modRegs_booths (s : State) (f : SlotRegs → SlotRegs) : (s.modRegs f).booths = s.booths := rfl
@[simp] theorem State.modRegs_maps (s : State) (f : SlotRegs → SlotRegs) : (s.modRegs f).maps = s.maps := rfl
@[simp] theorem State.modRegs_l2 (s : State) (f : SlotRegs → SlotRegs) : (s.modRegs f).l2 = s.l2 := rfl
@[simp] theorem State.modRegs_walks (s : State) (f : SlotRegs → SlotRegs) : (s.modRegs f).walks = s.walks := rfl
@[simp] theorem State.modRegs_net (s : State) (f : SlotRegs → SlotRegs) : (s.modRegs f).net = s.net := rfl
@[simp] theorem State.modRegs_switches (s : State) (f : SlotRegs → SlotRegs) : (s.modRegs f).switches = s.switches := rfl
@[simp] theorem State.modRegs_bufFlits (s : State) (f : SlotRegs → SlotRegs) : (s.modRegs f).bufFlits = s.bufFlits := rfl
@[simp] theorem State.modRegs_queueFlits (s : State) (f : SlotRegs → SlotRegs) : (s.modRegs f).queueFlits = s.queueFlits := rfl
@[simp] theorem State.modRegs_feWait (s : State) (f : SlotRegs → SlotRegs) : (s.modRegs f).feWait = s.feWait := rfl
@[simp] theorem State.modRegs_agedWait (s : State) (f : SlotRegs → SlotRegs) : (s.modRegs f).agedWait = s.agedWait := rfl
@[simp] theorem State.modRegs_stops (s : State) (f : SlotRegs → SlotRegs) : (s.modRegs f).stops = s.stops := rfl
@[simp] theorem State.modRegs_rings (s : State) (f : SlotRegs → SlotRegs) : (s.modRegs f).rings = s.rings := rfl
@[simp] theorem State.modRegs_watch (s : State) (f : SlotRegs → SlotRegs) : (s.modRegs f).watch = s.watch := rfl
@[simp] theorem State.modRegs_uncredited (s : State) (f : SlotRegs → SlotRegs) : (s.modRegs f).uncredited = s.uncredited := rfl
@[simp] theorem State.modRegs_vqs (s : State) (f : SlotRegs → SlotRegs) : (s.modRegs f).vqs = s.vqs := rfl
@[simp] theorem State.modRegs_turns (s : State) (f : SlotRegs → SlotRegs) : (s.modRegs f).turns = s.turns := rfl
@[simp] theorem State.modRegs_nturns (s : State) (f : SlotRegs → SlotRegs) : (s.modRegs f).nturns = s.nturns := rfl
@[simp] theorem State.modRegs_pulses (s : State) (f : SlotRegs → SlotRegs) : (s.modRegs f).pulses = s.pulses := rfl
@[simp] theorem State.modRegs_nqs (s : State) (f : SlotRegs → SlotRegs) : (s.modRegs f).nqs = s.nqs := rfl
@[simp] theorem State.modRegs_ether (s : State) (f : SlotRegs → SlotRegs) : (s.modRegs f).ether = s.ether := rfl
@[simp] theorem State.modRegs_etherAddrs (s : State) (f : SlotRegs → SlotRegs) : (s.modRegs f).etherAddrs = s.etherAddrs := rfl
@[simp] theorem State.modRegs_etherLost (s : State) (f : SlotRegs → SlotRegs) : (s.modRegs f).etherLost = s.etherLost := rfl
@[simp] theorem State.modRegs_nextRid (s : State) (f : SlotRegs → SlotRegs) : (s.modRegs f).nextRid = s.nextRid := rfl
@[simp] theorem State.modRegs_linkNet (s : State) (f : SlotRegs → SlotRegs) : (s.modRegs f).linkNet = s.linkNet := rfl
@[simp] theorem State.modRegs_stitch (s : State) (f : SlotRegs → SlotRegs) : (s.modRegs f).stitch = s.stitch := rfl
@[simp] theorem State.modRegs_cxl (s : State) (f : SlotRegs → SlotRegs) : (s.modRegs f).cxl = s.cxl := rfl
@[simp] theorem State.modRegs_lacking (s : State) (f : SlotRegs → SlotRegs) : (s.modRegs f).lacking = s.lacking := rfl
@[simp] theorem State.modRegs_launches (s : State) (f : SlotRegs → SlotRegs) : (s.modRegs f).launches = s.launches := rfl
@[simp] theorem State.modRegs_nextLaunch (s : State) (f : SlotRegs → SlotRegs) : (s.modRegs f).nextLaunch = s.nextLaunch := rfl
@[simp] theorem State.modRegs_spawnQ (s : State) (f : SlotRegs → SlotRegs) : (s.modRegs f).spawnQ = s.spawnQ := rfl
@[simp] theorem State.modRegs_chans (s : State) (f : SlotRegs → SlotRegs) : (s.modRegs f).chans = s.chans := rfl
@[simp] theorem State.modRegs_preempts (s : State) (f : SlotRegs → SlotRegs) : (s.modRegs f).preempts = s.preempts := rfl
@[simp] theorem State.modRegs_images (s : State) (f : SlotRegs → SlotRegs) : (s.modRegs f).images = s.images := rfl
@[simp] theorem State.modRegs_spillAreas (s : State) (f : SlotRegs → SlotRegs) : (s.modRegs f).spillAreas = s.spillAreas := rfl
@[simp] theorem State.modRegs_receipts (s : State) (f : SlotRegs → SlotRegs) : (s.modRegs f).receipts = s.receipts := rfl
@[simp] theorem State.modRegs_handovers (s : State) (f : SlotRegs → SlotRegs) : (s.modRegs f).handovers = s.handovers := rfl
@[simp] theorem State.modRegs_areas (s : State) (f : SlotRegs → SlotRegs) : (s.modRegs f).areas = s.areas := rfl
@[simp] theorem State.modRegs_areaKeys (s : State) (f : SlotRegs → SlotRegs) : (s.modRegs f).areaKeys = s.areaKeys := rfl
@[simp] theorem State.modRegs_areaBanks (s : State) (f : SlotRegs → SlotRegs) : (s.modRegs f).areaBanks = s.areaBanks := rfl
@[simp] theorem State.modRegs_areaSlots (s : State) (f : SlotRegs → SlotRegs) : (s.modRegs f).areaSlots = s.areaSlots := rfl
@[simp] theorem State.modRegs_nextHandover (s : State) (f : SlotRegs → SlotRegs) : (s.modRegs f).nextHandover = s.nextHandover := rfl
@[simp] theorem State.modRegs_pkgs (s : State) (f : SlotRegs → SlotRegs) : (s.modRegs f).pkgs = s.pkgs := rfl
@[simp] theorem State.modRegs_regions (s : State) (f : SlotRegs → SlotRegs) : (s.modRegs f).regions = s.regions := rfl
@[simp] theorem State.modRegs_boothPkgs (s : State) (f : SlotRegs → SlotRegs) : (s.modRegs f).boothPkgs = s.boothPkgs := rfl
@[simp] theorem State.modRegs_gangs (s : State) (f : SlotRegs → SlotRegs) : (s.modRegs f).gangs = s.gangs := rfl
@[simp] theorem State.modRegs_grants (s : State) (f : SlotRegs → SlotRegs) : (s.modRegs f).grants = s.grants := rfl
@[simp] theorem State.modRegs_hostRing (s : State) (f : SlotRegs → SlotRegs) : (s.modRegs f).hostRing = s.hostRing := rfl
@[simp] theorem State.modRegs_bootAreas (s : State) (f : SlotRegs → SlotRegs) : (s.modRegs f).bootAreas = s.bootAreas := rfl
@[simp] theorem State.modRegs_repairs (s : State) (f : SlotRegs → SlotRegs) : (s.modRegs f).repairs = s.repairs := rfl
@[simp] theorem State.modRegs_mfg (s : State) (f : SlotRegs → SlotRegs) : (s.modRegs f).mfg = s.mfg := rfl
@[simp] theorem State.modRegs_defects (s : State) (f : SlotRegs → SlotRegs) : (s.modRegs f).defects = s.defects := rfl
@[simp] theorem State.modRegs_sparesUsed (s : State) (f : SlotRegs → SlotRegs) : (s.modRegs f).sparesUsed = s.sparesUsed := rfl
@[simp] theorem State.modRegs_rowsUsed (s : State) (f : SlotRegs → SlotRegs) : (s.modRegs f).rowsUsed = s.rowsUsed := rfl
@[simp] theorem State.modRegs_cur (s : State) (f : SlotRegs → SlotRegs) : (s.modRegs f).cur = s.cur := rfl
@[simp] theorem State.modRegs_bun (s : State) (f : SlotRegs → SlotRegs) : (s.modRegs f).bun = s.bun := rfl
@[simp] theorem State.modRegs_agenda (s : State) (f : SlotRegs → SlotRegs) : (s.modRegs f).agenda = s.agenda := rfl
@[simp] theorem State.modRegs_cycle (s : State) (f : SlotRegs → SlotRegs) : (s.modRegs f).cycle = s.cycle := rfl
@[simp] theorem State.modRegs_nextUid (s : State) (f : SlotRegs → SlotRegs) : (s.modRegs f).nextUid = s.nextUid := rfl
@[simp] theorem State.modRegs_nextMid (s : State) (f : SlotRegs → SlotRegs) : (s.modRegs f).nextMid = s.nextMid := rfl
@[simp] theorem State.modRegs_fresh (s : State) (f : SlotRegs → SlotRegs) : (s.modRegs f).fresh = s.fresh := rfl

/-! ### modThread -/

@[simp] theorem State.modThread_mem (s : State) (u : Nat) (f : Thread → Thread) : (s.modThread u f).mem = s.mem := by
  unfold State.modThread; split <;> rfl
@[simp] theorem State.modThread_slots (s : State) (u : Nat) (f : Thread → Thread) : (s.modThread u f).slots = s.slots := by
  unfold State.modThread; split <;> rfl
@[simp] theorem State.modThread_cores (s : State) (u : Nat) (f : Thread → Thread) : (s.modThread u f).cores = s.cores := by
  unfold State.modThread; split <;> rfl
@[simp] theorem State.modThread_booths (s : State) (u : Nat) (f : Thread → Thread) : (s.modThread u f).booths = s.booths := by
  unfold State.modThread; split <;> rfl
@[simp] theorem State.modThread_maps (s : State) (u : Nat) (f : Thread → Thread) : (s.modThread u f).maps = s.maps := by
  unfold State.modThread; split <;> rfl
@[simp] theorem State.modThread_l2 (s : State) (u : Nat) (f : Thread → Thread) : (s.modThread u f).l2 = s.l2 := by
  unfold State.modThread; split <;> rfl
@[simp] theorem State.modThread_walks (s : State) (u : Nat) (f : Thread → Thread) : (s.modThread u f).walks = s.walks := by
  unfold State.modThread; split <;> rfl
@[simp] theorem State.modThread_net (s : State) (u : Nat) (f : Thread → Thread) : (s.modThread u f).net = s.net := by
  unfold State.modThread; split <;> rfl
@[simp] theorem State.modThread_switches (s : State) (u : Nat) (f : Thread → Thread) : (s.modThread u f).switches = s.switches := by
  unfold State.modThread; split <;> rfl
@[simp] theorem State.modThread_bufFlits (s : State) (u : Nat) (f : Thread → Thread) : (s.modThread u f).bufFlits = s.bufFlits := by
  unfold State.modThread; split <;> rfl
@[simp] theorem State.modThread_queueFlits (s : State) (u : Nat) (f : Thread → Thread) : (s.modThread u f).queueFlits = s.queueFlits := by
  unfold State.modThread; split <;> rfl
@[simp] theorem State.modThread_feWait (s : State) (u : Nat) (f : Thread → Thread) : (s.modThread u f).feWait = s.feWait := by
  unfold State.modThread; split <;> rfl
@[simp] theorem State.modThread_agedWait (s : State) (u : Nat) (f : Thread → Thread) : (s.modThread u f).agedWait = s.agedWait := by
  unfold State.modThread; split <;> rfl
@[simp] theorem State.modThread_stops (s : State) (u : Nat) (f : Thread → Thread) : (s.modThread u f).stops = s.stops := by
  unfold State.modThread; split <;> rfl
@[simp] theorem State.modThread_rings (s : State) (u : Nat) (f : Thread → Thread) : (s.modThread u f).rings = s.rings := by
  unfold State.modThread; split <;> rfl
@[simp] theorem State.modThread_watch (s : State) (u : Nat) (f : Thread → Thread) : (s.modThread u f).watch = s.watch := by
  unfold State.modThread; split <;> rfl
@[simp] theorem State.modThread_uncredited (s : State) (u : Nat) (f : Thread → Thread) : (s.modThread u f).uncredited = s.uncredited := by
  unfold State.modThread; split <;> rfl
@[simp] theorem State.modThread_vqs (s : State) (u : Nat) (f : Thread → Thread) : (s.modThread u f).vqs = s.vqs := by
  unfold State.modThread; split <;> rfl
@[simp] theorem State.modThread_turns (s : State) (u : Nat) (f : Thread → Thread) : (s.modThread u f).turns = s.turns := by
  unfold State.modThread; split <;> rfl
@[simp] theorem State.modThread_nturns (s : State) (u : Nat) (f : Thread → Thread) : (s.modThread u f).nturns = s.nturns := by
  unfold State.modThread; split <;> rfl
@[simp] theorem State.modThread_pulses (s : State) (u : Nat) (f : Thread → Thread) : (s.modThread u f).pulses = s.pulses := by
  unfold State.modThread; split <;> rfl
@[simp] theorem State.modThread_nqs (s : State) (u : Nat) (f : Thread → Thread) : (s.modThread u f).nqs = s.nqs := by
  unfold State.modThread; split <;> rfl
@[simp] theorem State.modThread_ether (s : State) (u : Nat) (f : Thread → Thread) : (s.modThread u f).ether = s.ether := by
  unfold State.modThread; split <;> rfl
@[simp] theorem State.modThread_etherAddrs (s : State) (u : Nat) (f : Thread → Thread) : (s.modThread u f).etherAddrs = s.etherAddrs := by
  unfold State.modThread; split <;> rfl
@[simp] theorem State.modThread_etherLost (s : State) (u : Nat) (f : Thread → Thread) : (s.modThread u f).etherLost = s.etherLost := by
  unfold State.modThread; split <;> rfl
@[simp] theorem State.modThread_nextRid (s : State) (u : Nat) (f : Thread → Thread) : (s.modThread u f).nextRid = s.nextRid := by
  unfold State.modThread; split <;> rfl
@[simp] theorem State.modThread_linkNet (s : State) (u : Nat) (f : Thread → Thread) : (s.modThread u f).linkNet = s.linkNet := by
  unfold State.modThread; split <;> rfl
@[simp] theorem State.modThread_stitch (s : State) (u : Nat) (f : Thread → Thread) : (s.modThread u f).stitch = s.stitch := by
  unfold State.modThread; split <;> rfl
@[simp] theorem State.modThread_cxl (s : State) (u : Nat) (f : Thread → Thread) : (s.modThread u f).cxl = s.cxl := by
  unfold State.modThread; split <;> rfl
@[simp] theorem State.modThread_lacking (s : State) (u : Nat) (f : Thread → Thread) : (s.modThread u f).lacking = s.lacking := by
  unfold State.modThread; split <;> rfl
@[simp] theorem State.modThread_launches (s : State) (u : Nat) (f : Thread → Thread) : (s.modThread u f).launches = s.launches := by
  unfold State.modThread; split <;> rfl
@[simp] theorem State.modThread_nextLaunch (s : State) (u : Nat) (f : Thread → Thread) : (s.modThread u f).nextLaunch = s.nextLaunch := by
  unfold State.modThread; split <;> rfl
@[simp] theorem State.modThread_spawnQ (s : State) (u : Nat) (f : Thread → Thread) : (s.modThread u f).spawnQ = s.spawnQ := by
  unfold State.modThread; split <;> rfl
@[simp] theorem State.modThread_chans (s : State) (u : Nat) (f : Thread → Thread) : (s.modThread u f).chans = s.chans := by
  unfold State.modThread; split <;> rfl
@[simp] theorem State.modThread_preempts (s : State) (u : Nat) (f : Thread → Thread) : (s.modThread u f).preempts = s.preempts := by
  unfold State.modThread; split <;> rfl
@[simp] theorem State.modThread_images (s : State) (u : Nat) (f : Thread → Thread) : (s.modThread u f).images = s.images := by
  unfold State.modThread; split <;> rfl
@[simp] theorem State.modThread_spillAreas (s : State) (u : Nat) (f : Thread → Thread) : (s.modThread u f).spillAreas = s.spillAreas := by
  unfold State.modThread; split <;> rfl
@[simp] theorem State.modThread_receipts (s : State) (u : Nat) (f : Thread → Thread) : (s.modThread u f).receipts = s.receipts := by
  unfold State.modThread; split <;> rfl
@[simp] theorem State.modThread_handovers (s : State) (u : Nat) (f : Thread → Thread) : (s.modThread u f).handovers = s.handovers := by
  unfold State.modThread; split <;> rfl
@[simp] theorem State.modThread_areas (s : State) (u : Nat) (f : Thread → Thread) : (s.modThread u f).areas = s.areas := by
  unfold State.modThread; split <;> rfl
@[simp] theorem State.modThread_areaKeys (s : State) (u : Nat) (f : Thread → Thread) : (s.modThread u f).areaKeys = s.areaKeys := by
  unfold State.modThread; split <;> rfl
@[simp] theorem State.modThread_areaBanks (s : State) (u : Nat) (f : Thread → Thread) : (s.modThread u f).areaBanks = s.areaBanks := by
  unfold State.modThread; split <;> rfl
@[simp] theorem State.modThread_areaSlots (s : State) (u : Nat) (f : Thread → Thread) : (s.modThread u f).areaSlots = s.areaSlots := by
  unfold State.modThread; split <;> rfl
@[simp] theorem State.modThread_nextHandover (s : State) (u : Nat) (f : Thread → Thread) : (s.modThread u f).nextHandover = s.nextHandover := by
  unfold State.modThread; split <;> rfl
@[simp] theorem State.modThread_pkgs (s : State) (u : Nat) (f : Thread → Thread) : (s.modThread u f).pkgs = s.pkgs := by
  unfold State.modThread; split <;> rfl
@[simp] theorem State.modThread_regions (s : State) (u : Nat) (f : Thread → Thread) : (s.modThread u f).regions = s.regions := by
  unfold State.modThread; split <;> rfl
@[simp] theorem State.modThread_boothPkgs (s : State) (u : Nat) (f : Thread → Thread) : (s.modThread u f).boothPkgs = s.boothPkgs := by
  unfold State.modThread; split <;> rfl
@[simp] theorem State.modThread_gangs (s : State) (u : Nat) (f : Thread → Thread) : (s.modThread u f).gangs = s.gangs := by
  unfold State.modThread; split <;> rfl
@[simp] theorem State.modThread_grants (s : State) (u : Nat) (f : Thread → Thread) : (s.modThread u f).grants = s.grants := by
  unfold State.modThread; split <;> rfl
@[simp] theorem State.modThread_hostRing (s : State) (u : Nat) (f : Thread → Thread) : (s.modThread u f).hostRing = s.hostRing := by
  unfold State.modThread; split <;> rfl
@[simp] theorem State.modThread_bootAreas (s : State) (u : Nat) (f : Thread → Thread) : (s.modThread u f).bootAreas = s.bootAreas := by
  unfold State.modThread; split <;> rfl
@[simp] theorem State.modThread_repairs (s : State) (u : Nat) (f : Thread → Thread) : (s.modThread u f).repairs = s.repairs := by
  unfold State.modThread; split <;> rfl
@[simp] theorem State.modThread_mfg (s : State) (u : Nat) (f : Thread → Thread) : (s.modThread u f).mfg = s.mfg := by
  unfold State.modThread; split <;> rfl
@[simp] theorem State.modThread_defects (s : State) (u : Nat) (f : Thread → Thread) : (s.modThread u f).defects = s.defects := by
  unfold State.modThread; split <;> rfl
@[simp] theorem State.modThread_sparesUsed (s : State) (u : Nat) (f : Thread → Thread) : (s.modThread u f).sparesUsed = s.sparesUsed := by
  unfold State.modThread; split <;> rfl
@[simp] theorem State.modThread_rowsUsed (s : State) (u : Nat) (f : Thread → Thread) : (s.modThread u f).rowsUsed = s.rowsUsed := by
  unfold State.modThread; split <;> rfl
@[simp] theorem State.modThread_cur (s : State) (u : Nat) (f : Thread → Thread) : (s.modThread u f).cur = s.cur := by
  unfold State.modThread; split <;> rfl
@[simp] theorem State.modThread_bun (s : State) (u : Nat) (f : Thread → Thread) : (s.modThread u f).bun = s.bun := by
  unfold State.modThread; split <;> rfl
@[simp] theorem State.modThread_agenda (s : State) (u : Nat) (f : Thread → Thread) : (s.modThread u f).agenda = s.agenda := by
  unfold State.modThread; split <;> rfl
@[simp] theorem State.modThread_cycle (s : State) (u : Nat) (f : Thread → Thread) : (s.modThread u f).cycle = s.cycle := by
  unfold State.modThread; split <;> rfl
@[simp] theorem State.modThread_nextUid (s : State) (u : Nat) (f : Thread → Thread) : (s.modThread u f).nextUid = s.nextUid := by
  unfold State.modThread; split <;> rfl
@[simp] theorem State.modThread_nextMid (s : State) (u : Nat) (f : Thread → Thread) : (s.modThread u f).nextMid = s.nextMid := by
  unfold State.modThread; split <;> rfl
@[simp] theorem State.modThread_fresh (s : State) (u : Nat) (f : Thread → Thread) : (s.modThread u f).fresh = s.fresh := by
  unfold State.modThread; split <;> rfl

/-! ### modMe -/

@[simp] theorem State.modMe_mem (s : State) (f : Thread → Thread) : (s.modMe f).mem = s.mem := s.modThread_mem _ _
@[simp] theorem State.modMe_slots (s : State) (f : Thread → Thread) : (s.modMe f).slots = s.slots := s.modThread_slots _ _
@[simp] theorem State.modMe_cores (s : State) (f : Thread → Thread) : (s.modMe f).cores = s.cores := s.modThread_cores _ _
@[simp] theorem State.modMe_booths (s : State) (f : Thread → Thread) : (s.modMe f).booths = s.booths := s.modThread_booths _ _
@[simp] theorem State.modMe_maps (s : State) (f : Thread → Thread) : (s.modMe f).maps = s.maps := s.modThread_maps _ _
@[simp] theorem State.modMe_l2 (s : State) (f : Thread → Thread) : (s.modMe f).l2 = s.l2 := s.modThread_l2 _ _
@[simp] theorem State.modMe_walks (s : State) (f : Thread → Thread) : (s.modMe f).walks = s.walks := s.modThread_walks _ _
@[simp] theorem State.modMe_net (s : State) (f : Thread → Thread) : (s.modMe f).net = s.net := s.modThread_net _ _
@[simp] theorem State.modMe_switches (s : State) (f : Thread → Thread) : (s.modMe f).switches = s.switches := s.modThread_switches _ _
@[simp] theorem State.modMe_bufFlits (s : State) (f : Thread → Thread) : (s.modMe f).bufFlits = s.bufFlits := s.modThread_bufFlits _ _
@[simp] theorem State.modMe_queueFlits (s : State) (f : Thread → Thread) : (s.modMe f).queueFlits = s.queueFlits := s.modThread_queueFlits _ _
@[simp] theorem State.modMe_feWait (s : State) (f : Thread → Thread) : (s.modMe f).feWait = s.feWait := s.modThread_feWait _ _
@[simp] theorem State.modMe_agedWait (s : State) (f : Thread → Thread) : (s.modMe f).agedWait = s.agedWait := s.modThread_agedWait _ _
@[simp] theorem State.modMe_stops (s : State) (f : Thread → Thread) : (s.modMe f).stops = s.stops := s.modThread_stops _ _
@[simp] theorem State.modMe_rings (s : State) (f : Thread → Thread) : (s.modMe f).rings = s.rings := s.modThread_rings _ _
@[simp] theorem State.modMe_watch (s : State) (f : Thread → Thread) : (s.modMe f).watch = s.watch := s.modThread_watch _ _
@[simp] theorem State.modMe_uncredited (s : State) (f : Thread → Thread) : (s.modMe f).uncredited = s.uncredited := s.modThread_uncredited _ _
@[simp] theorem State.modMe_vqs (s : State) (f : Thread → Thread) : (s.modMe f).vqs = s.vqs := s.modThread_vqs _ _
@[simp] theorem State.modMe_turns (s : State) (f : Thread → Thread) : (s.modMe f).turns = s.turns := s.modThread_turns _ _
@[simp] theorem State.modMe_nturns (s : State) (f : Thread → Thread) : (s.modMe f).nturns = s.nturns := s.modThread_nturns _ _
@[simp] theorem State.modMe_pulses (s : State) (f : Thread → Thread) : (s.modMe f).pulses = s.pulses := s.modThread_pulses _ _
@[simp] theorem State.modMe_nqs (s : State) (f : Thread → Thread) : (s.modMe f).nqs = s.nqs := s.modThread_nqs _ _
@[simp] theorem State.modMe_ether (s : State) (f : Thread → Thread) : (s.modMe f).ether = s.ether := s.modThread_ether _ _
@[simp] theorem State.modMe_etherAddrs (s : State) (f : Thread → Thread) : (s.modMe f).etherAddrs = s.etherAddrs := s.modThread_etherAddrs _ _
@[simp] theorem State.modMe_etherLost (s : State) (f : Thread → Thread) : (s.modMe f).etherLost = s.etherLost := s.modThread_etherLost _ _
@[simp] theorem State.modMe_nextRid (s : State) (f : Thread → Thread) : (s.modMe f).nextRid = s.nextRid := s.modThread_nextRid _ _
@[simp] theorem State.modMe_linkNet (s : State) (f : Thread → Thread) : (s.modMe f).linkNet = s.linkNet := s.modThread_linkNet _ _
@[simp] theorem State.modMe_stitch (s : State) (f : Thread → Thread) : (s.modMe f).stitch = s.stitch := s.modThread_stitch _ _
@[simp] theorem State.modMe_cxl (s : State) (f : Thread → Thread) : (s.modMe f).cxl = s.cxl := s.modThread_cxl _ _
@[simp] theorem State.modMe_lacking (s : State) (f : Thread → Thread) : (s.modMe f).lacking = s.lacking := s.modThread_lacking _ _
@[simp] theorem State.modMe_launches (s : State) (f : Thread → Thread) : (s.modMe f).launches = s.launches := s.modThread_launches _ _
@[simp] theorem State.modMe_nextLaunch (s : State) (f : Thread → Thread) : (s.modMe f).nextLaunch = s.nextLaunch := s.modThread_nextLaunch _ _
@[simp] theorem State.modMe_spawnQ (s : State) (f : Thread → Thread) : (s.modMe f).spawnQ = s.spawnQ := s.modThread_spawnQ _ _
@[simp] theorem State.modMe_chans (s : State) (f : Thread → Thread) : (s.modMe f).chans = s.chans := s.modThread_chans _ _
@[simp] theorem State.modMe_preempts (s : State) (f : Thread → Thread) : (s.modMe f).preempts = s.preempts := s.modThread_preempts _ _
@[simp] theorem State.modMe_images (s : State) (f : Thread → Thread) : (s.modMe f).images = s.images := s.modThread_images _ _
@[simp] theorem State.modMe_spillAreas (s : State) (f : Thread → Thread) : (s.modMe f).spillAreas = s.spillAreas := s.modThread_spillAreas _ _
@[simp] theorem State.modMe_receipts (s : State) (f : Thread → Thread) : (s.modMe f).receipts = s.receipts := s.modThread_receipts _ _
@[simp] theorem State.modMe_handovers (s : State) (f : Thread → Thread) : (s.modMe f).handovers = s.handovers := s.modThread_handovers _ _
@[simp] theorem State.modMe_areas (s : State) (f : Thread → Thread) : (s.modMe f).areas = s.areas := s.modThread_areas _ _
@[simp] theorem State.modMe_areaKeys (s : State) (f : Thread → Thread) : (s.modMe f).areaKeys = s.areaKeys := s.modThread_areaKeys _ _
@[simp] theorem State.modMe_areaBanks (s : State) (f : Thread → Thread) : (s.modMe f).areaBanks = s.areaBanks := s.modThread_areaBanks _ _
@[simp] theorem State.modMe_areaSlots (s : State) (f : Thread → Thread) : (s.modMe f).areaSlots = s.areaSlots := s.modThread_areaSlots _ _
@[simp] theorem State.modMe_nextHandover (s : State) (f : Thread → Thread) : (s.modMe f).nextHandover = s.nextHandover := s.modThread_nextHandover _ _
@[simp] theorem State.modMe_pkgs (s : State) (f : Thread → Thread) : (s.modMe f).pkgs = s.pkgs := s.modThread_pkgs _ _
@[simp] theorem State.modMe_regions (s : State) (f : Thread → Thread) : (s.modMe f).regions = s.regions := s.modThread_regions _ _
@[simp] theorem State.modMe_boothPkgs (s : State) (f : Thread → Thread) : (s.modMe f).boothPkgs = s.boothPkgs := s.modThread_boothPkgs _ _
@[simp] theorem State.modMe_gangs (s : State) (f : Thread → Thread) : (s.modMe f).gangs = s.gangs := s.modThread_gangs _ _
@[simp] theorem State.modMe_grants (s : State) (f : Thread → Thread) : (s.modMe f).grants = s.grants := s.modThread_grants _ _
@[simp] theorem State.modMe_hostRing (s : State) (f : Thread → Thread) : (s.modMe f).hostRing = s.hostRing := s.modThread_hostRing _ _
@[simp] theorem State.modMe_bootAreas (s : State) (f : Thread → Thread) : (s.modMe f).bootAreas = s.bootAreas := s.modThread_bootAreas _ _
@[simp] theorem State.modMe_repairs (s : State) (f : Thread → Thread) : (s.modMe f).repairs = s.repairs := s.modThread_repairs _ _
@[simp] theorem State.modMe_mfg (s : State) (f : Thread → Thread) : (s.modMe f).mfg = s.mfg := s.modThread_mfg _ _
@[simp] theorem State.modMe_defects (s : State) (f : Thread → Thread) : (s.modMe f).defects = s.defects := s.modThread_defects _ _
@[simp] theorem State.modMe_sparesUsed (s : State) (f : Thread → Thread) : (s.modMe f).sparesUsed = s.sparesUsed := s.modThread_sparesUsed _ _
@[simp] theorem State.modMe_rowsUsed (s : State) (f : Thread → Thread) : (s.modMe f).rowsUsed = s.rowsUsed := s.modThread_rowsUsed _ _
@[simp] theorem State.modMe_cur (s : State) (f : Thread → Thread) : (s.modMe f).cur = s.cur := s.modThread_cur _ _
@[simp] theorem State.modMe_bun (s : State) (f : Thread → Thread) : (s.modMe f).bun = s.bun := s.modThread_bun _ _
@[simp] theorem State.modMe_agenda (s : State) (f : Thread → Thread) : (s.modMe f).agenda = s.agenda := s.modThread_agenda _ _
@[simp] theorem State.modMe_cycle (s : State) (f : Thread → Thread) : (s.modMe f).cycle = s.cycle := s.modThread_cycle _ _
@[simp] theorem State.modMe_nextUid (s : State) (f : Thread → Thread) : (s.modMe f).nextUid = s.nextUid := s.modThread_nextUid _ _
@[simp] theorem State.modMe_nextMid (s : State) (f : Thread → Thread) : (s.modMe f).nextMid = s.nextMid := s.modThread_nextMid _ _
@[simp] theorem State.modMe_fresh (s : State) (f : Thread → Thread) : (s.modMe f).fresh = s.fresh := s.modThread_fresh _ _

/-! ### modCtx -/

@[simp] theorem State.modCtx_mem (s : State) (f : Ctx → Ctx) : (s.modCtx f).mem = s.mem := s.modThread_mem _ _
@[simp] theorem State.modCtx_slots (s : State) (f : Ctx → Ctx) : (s.modCtx f).slots = s.slots := s.modThread_slots _ _
@[simp] theorem State.modCtx_cores (s : State) (f : Ctx → Ctx) : (s.modCtx f).cores = s.cores := s.modThread_cores _ _
@[simp] theorem State.modCtx_booths (s : State) (f : Ctx → Ctx) : (s.modCtx f).booths = s.booths := s.modThread_booths _ _
@[simp] theorem State.modCtx_maps (s : State) (f : Ctx → Ctx) : (s.modCtx f).maps = s.maps := s.modThread_maps _ _
@[simp] theorem State.modCtx_l2 (s : State) (f : Ctx → Ctx) : (s.modCtx f).l2 = s.l2 := s.modThread_l2 _ _
@[simp] theorem State.modCtx_walks (s : State) (f : Ctx → Ctx) : (s.modCtx f).walks = s.walks := s.modThread_walks _ _
@[simp] theorem State.modCtx_net (s : State) (f : Ctx → Ctx) : (s.modCtx f).net = s.net := s.modThread_net _ _
@[simp] theorem State.modCtx_switches (s : State) (f : Ctx → Ctx) : (s.modCtx f).switches = s.switches := s.modThread_switches _ _
@[simp] theorem State.modCtx_bufFlits (s : State) (f : Ctx → Ctx) : (s.modCtx f).bufFlits = s.bufFlits := s.modThread_bufFlits _ _
@[simp] theorem State.modCtx_queueFlits (s : State) (f : Ctx → Ctx) : (s.modCtx f).queueFlits = s.queueFlits := s.modThread_queueFlits _ _
@[simp] theorem State.modCtx_feWait (s : State) (f : Ctx → Ctx) : (s.modCtx f).feWait = s.feWait := s.modThread_feWait _ _
@[simp] theorem State.modCtx_agedWait (s : State) (f : Ctx → Ctx) : (s.modCtx f).agedWait = s.agedWait := s.modThread_agedWait _ _
@[simp] theorem State.modCtx_stops (s : State) (f : Ctx → Ctx) : (s.modCtx f).stops = s.stops := s.modThread_stops _ _
@[simp] theorem State.modCtx_rings (s : State) (f : Ctx → Ctx) : (s.modCtx f).rings = s.rings := s.modThread_rings _ _
@[simp] theorem State.modCtx_watch (s : State) (f : Ctx → Ctx) : (s.modCtx f).watch = s.watch := s.modThread_watch _ _
@[simp] theorem State.modCtx_uncredited (s : State) (f : Ctx → Ctx) : (s.modCtx f).uncredited = s.uncredited := s.modThread_uncredited _ _
@[simp] theorem State.modCtx_vqs (s : State) (f : Ctx → Ctx) : (s.modCtx f).vqs = s.vqs := s.modThread_vqs _ _
@[simp] theorem State.modCtx_turns (s : State) (f : Ctx → Ctx) : (s.modCtx f).turns = s.turns := s.modThread_turns _ _
@[simp] theorem State.modCtx_nturns (s : State) (f : Ctx → Ctx) : (s.modCtx f).nturns = s.nturns := s.modThread_nturns _ _
@[simp] theorem State.modCtx_pulses (s : State) (f : Ctx → Ctx) : (s.modCtx f).pulses = s.pulses := s.modThread_pulses _ _
@[simp] theorem State.modCtx_nqs (s : State) (f : Ctx → Ctx) : (s.modCtx f).nqs = s.nqs := s.modThread_nqs _ _
@[simp] theorem State.modCtx_ether (s : State) (f : Ctx → Ctx) : (s.modCtx f).ether = s.ether := s.modThread_ether _ _
@[simp] theorem State.modCtx_etherAddrs (s : State) (f : Ctx → Ctx) : (s.modCtx f).etherAddrs = s.etherAddrs := s.modThread_etherAddrs _ _
@[simp] theorem State.modCtx_etherLost (s : State) (f : Ctx → Ctx) : (s.modCtx f).etherLost = s.etherLost := s.modThread_etherLost _ _
@[simp] theorem State.modCtx_nextRid (s : State) (f : Ctx → Ctx) : (s.modCtx f).nextRid = s.nextRid := s.modThread_nextRid _ _
@[simp] theorem State.modCtx_linkNet (s : State) (f : Ctx → Ctx) : (s.modCtx f).linkNet = s.linkNet := s.modThread_linkNet _ _
@[simp] theorem State.modCtx_stitch (s : State) (f : Ctx → Ctx) : (s.modCtx f).stitch = s.stitch := s.modThread_stitch _ _
@[simp] theorem State.modCtx_cxl (s : State) (f : Ctx → Ctx) : (s.modCtx f).cxl = s.cxl := s.modThread_cxl _ _
@[simp] theorem State.modCtx_lacking (s : State) (f : Ctx → Ctx) : (s.modCtx f).lacking = s.lacking := s.modThread_lacking _ _
@[simp] theorem State.modCtx_launches (s : State) (f : Ctx → Ctx) : (s.modCtx f).launches = s.launches := s.modThread_launches _ _
@[simp] theorem State.modCtx_nextLaunch (s : State) (f : Ctx → Ctx) : (s.modCtx f).nextLaunch = s.nextLaunch := s.modThread_nextLaunch _ _
@[simp] theorem State.modCtx_spawnQ (s : State) (f : Ctx → Ctx) : (s.modCtx f).spawnQ = s.spawnQ := s.modThread_spawnQ _ _
@[simp] theorem State.modCtx_chans (s : State) (f : Ctx → Ctx) : (s.modCtx f).chans = s.chans := s.modThread_chans _ _
@[simp] theorem State.modCtx_preempts (s : State) (f : Ctx → Ctx) : (s.modCtx f).preempts = s.preempts := s.modThread_preempts _ _
@[simp] theorem State.modCtx_images (s : State) (f : Ctx → Ctx) : (s.modCtx f).images = s.images := s.modThread_images _ _
@[simp] theorem State.modCtx_spillAreas (s : State) (f : Ctx → Ctx) : (s.modCtx f).spillAreas = s.spillAreas := s.modThread_spillAreas _ _
@[simp] theorem State.modCtx_receipts (s : State) (f : Ctx → Ctx) : (s.modCtx f).receipts = s.receipts := s.modThread_receipts _ _
@[simp] theorem State.modCtx_handovers (s : State) (f : Ctx → Ctx) : (s.modCtx f).handovers = s.handovers := s.modThread_handovers _ _
@[simp] theorem State.modCtx_areas (s : State) (f : Ctx → Ctx) : (s.modCtx f).areas = s.areas := s.modThread_areas _ _
@[simp] theorem State.modCtx_areaKeys (s : State) (f : Ctx → Ctx) : (s.modCtx f).areaKeys = s.areaKeys := s.modThread_areaKeys _ _
@[simp] theorem State.modCtx_areaBanks (s : State) (f : Ctx → Ctx) : (s.modCtx f).areaBanks = s.areaBanks := s.modThread_areaBanks _ _
@[simp] theorem State.modCtx_areaSlots (s : State) (f : Ctx → Ctx) : (s.modCtx f).areaSlots = s.areaSlots := s.modThread_areaSlots _ _
@[simp] theorem State.modCtx_nextHandover (s : State) (f : Ctx → Ctx) : (s.modCtx f).nextHandover = s.nextHandover := s.modThread_nextHandover _ _
@[simp] theorem State.modCtx_pkgs (s : State) (f : Ctx → Ctx) : (s.modCtx f).pkgs = s.pkgs := s.modThread_pkgs _ _
@[simp] theorem State.modCtx_regions (s : State) (f : Ctx → Ctx) : (s.modCtx f).regions = s.regions := s.modThread_regions _ _
@[simp] theorem State.modCtx_boothPkgs (s : State) (f : Ctx → Ctx) : (s.modCtx f).boothPkgs = s.boothPkgs := s.modThread_boothPkgs _ _
@[simp] theorem State.modCtx_gangs (s : State) (f : Ctx → Ctx) : (s.modCtx f).gangs = s.gangs := s.modThread_gangs _ _
@[simp] theorem State.modCtx_grants (s : State) (f : Ctx → Ctx) : (s.modCtx f).grants = s.grants := s.modThread_grants _ _
@[simp] theorem State.modCtx_hostRing (s : State) (f : Ctx → Ctx) : (s.modCtx f).hostRing = s.hostRing := s.modThread_hostRing _ _
@[simp] theorem State.modCtx_bootAreas (s : State) (f : Ctx → Ctx) : (s.modCtx f).bootAreas = s.bootAreas := s.modThread_bootAreas _ _
@[simp] theorem State.modCtx_repairs (s : State) (f : Ctx → Ctx) : (s.modCtx f).repairs = s.repairs := s.modThread_repairs _ _
@[simp] theorem State.modCtx_mfg (s : State) (f : Ctx → Ctx) : (s.modCtx f).mfg = s.mfg := s.modThread_mfg _ _
@[simp] theorem State.modCtx_defects (s : State) (f : Ctx → Ctx) : (s.modCtx f).defects = s.defects := s.modThread_defects _ _
@[simp] theorem State.modCtx_sparesUsed (s : State) (f : Ctx → Ctx) : (s.modCtx f).sparesUsed = s.sparesUsed := s.modThread_sparesUsed _ _
@[simp] theorem State.modCtx_rowsUsed (s : State) (f : Ctx → Ctx) : (s.modCtx f).rowsUsed = s.rowsUsed := s.modThread_rowsUsed _ _
@[simp] theorem State.modCtx_cur (s : State) (f : Ctx → Ctx) : (s.modCtx f).cur = s.cur := s.modThread_cur _ _
@[simp] theorem State.modCtx_bun (s : State) (f : Ctx → Ctx) : (s.modCtx f).bun = s.bun := s.modThread_bun _ _
@[simp] theorem State.modCtx_agenda (s : State) (f : Ctx → Ctx) : (s.modCtx f).agenda = s.agenda := s.modThread_agenda _ _
@[simp] theorem State.modCtx_cycle (s : State) (f : Ctx → Ctx) : (s.modCtx f).cycle = s.cycle := s.modThread_cycle _ _
@[simp] theorem State.modCtx_nextUid (s : State) (f : Ctx → Ctx) : (s.modCtx f).nextUid = s.nextUid := s.modThread_nextUid _ _
@[simp] theorem State.modCtx_nextMid (s : State) (f : Ctx → Ctx) : (s.modCtx f).nextMid = s.nextMid := s.modThread_nextMid _ _
@[simp] theorem State.modCtx_fresh (s : State) (f : Ctx → Ctx) : (s.modCtx f).fresh = s.fresh := s.modThread_fresh _ _

end Sys2Proof.Machine
end

