-- ==== Sys2Proof/Laws/Ops.lean ====
section
/-! SUPPORT. One lemma for each shared operation: what running a word, reading a source and writing a result come to when no
stream is bound and no result is held, and what each can answer at all. -/

namespace Sys2Proof.Machine
open Bits Tables

/-! ### The running thread -/

theorem State.Runs.me {s : State} {u : Nat} {t : Thread} (h : s.Runs u t) : s.me = some (u, t) := by
  simp [State.me, h.run, h.thread]

theorem State.Runs.uid {s : State} {u : Nat} {t : Thread} (h : s.Runs u t) : s.uid = u := by
  simp [State.uid, h.run]

theorem State.Runs.th {s : State} {u : Nat} {t : Thread} (h : s.Runs u t) : s.th = t := by
  simp [State.th, h.uid, h.thread]

theorem State.Runs.regsOf {s : State} {u : Nat} {t : Thread} (h : s.Runs u t) : s.regsOf u = s.regs := by
  simp [State.regsOf, h.thread, h.place, h.key, State.regs]

theorem State.Runs.booth {s : State} {u : Nat} {t : Thread} (h : s.Runs u t) : s.booth = t.booth := by
  simp [State.booth, h.th]

theorem State.Runs.modMe {s : State} {u : Nat} {t : Thread} (h : s.Runs u t) (f : Thread → Thread) :
    s.modMe f = s.setThread u (f t) := by
  simp [State.modMe, State.modThread, h.uid, h.thread]

theorem State.Runs.modRegsOf {s : State} {u : Nat} {t : Thread} (h : s.Runs u t) (f : SlotRegs → SlotRegs) :
    s.modRegsOf u f = s.modRegs f := by
  simp [State.modRegsOf, State.modRegs, h.thread, h.place, h.key]

/-! ### Running a word -/

/-- What running a word can answer: no step without a thread, else a next state that its result determines. -/
theorem runWord_cases (s : State) (r : Step) :
    (s.me = none ∧ runWord s r = .refused .noThread) ∨
    (∃ u t, s.me = some (u, t) ∧
      ((∃ a, r = .next a ∧ runWord s r = .next (a.setFin .done)) ∨
       (∃ a, r = .park a ∧ runWord s r = .next (a.setFin .parked)) ∨
       (∃ c v, r = .trap c v ∧ runWord s r = .next ((s.takeTrap c v).setFin (.trapped c (BitVec.ofNat 64 v)))) ∨
       (∃ a c v, r = .trapAt a c v ∧
         runWord s r = .next (((a.unpop s).takeTrap c v).setFin (.trapped c (BitVec.ofNat 64 v)))) ∨
       (∃ w, r = .retry w ∧ runWord s r = .next ((s.again w).setFin (.again w))) ∨
       (∃ a, r = .fenced a ∧ runWord s r = .next ((a.unpop s).setFin .fenced)) ∨
       (∃ a, r = .gone a ∧ runWord s r = .next (a.setFin .gone)))) := by
  cases h : s.me with
  | none => left; simp [runWord, h]
  | some p =>
    obtain ⟨u, t⟩ := p
    right
    refine ⟨u, t, rfl, ?_⟩
    cases r with
    | next a => exact .inl ⟨a, rfl, by simp [runWord, h]⟩
    | park a => exact .inr (.inl ⟨a, rfl, by simp [runWord, h]⟩)
    | trap c v => exact .inr (.inr (.inl ⟨c, v, rfl, by simp [runWord, h]⟩))
    | trapAt a c v => exact .inr (.inr (.inr (.inl ⟨a, c, v, rfl, by simp [runWord, h]⟩)))
    | retry w => exact .inr (.inr (.inr (.inr (.inl ⟨w, rfl, by simp [runWord, h]⟩))))
    | fenced a => exact .inr (.inr (.inr (.inr (.inr (.inl ⟨a, rfl, by simp [runWord, h]⟩)))))
    | gone a => exact .inr (.inr (.inr (.inr (.inr (.inr ⟨a, rfl, by simp [runWord, h]⟩)))))

theorem runWord_next {s t : State} {u : Nat} {x : Thread} (h : s.Runs u x) : runWord s (.next t) = .next t.completed := by
  simp [runWord, h.me, State.completed]

theorem runWord_park {s t : State} {u : Nat} {x : Thread} (h : s.Runs u x) : runWord s (.park t) = .next t.waiting := by
  simp [runWord, h.me, State.waiting]

theorem runWord_trap {s : State} {u : Nat} {x : Thread} (h : s.Runs u x) (c v : Nat) :
    runWord s (.trap c v) = .next ((s.takeTrap c v).setFin (.trapped c (BitVec.ofNat 64 v))) := by
  simp [runWord, h.me]

/-! ### Sources and results -/

theorem State.getG_unbound {s : State} {r : GReg} (h : s.Unbound r) (k : Word → State → Step) : s.getG r k = k (s.src r) s := by
  simp only [State.Unbound] at h
  simp [State.getG, h, State.src, takeGiven]

theorem State.notBound_unbound {s : State} {r : GReg} (h : s.Unbound r) (k : State → Step) : s.notBound r k = k s := by
  simp only [State.Unbound] at h
  simp [State.notBound, h]

theorem State.checkDest_unbound {s : State} {r : GReg} (h : s.Unbound r) (k : State → Step) : s.checkDest r k = k s := by
  simp only [State.Unbound] at h
  simp [State.checkDest, h]

theorem State.writeGOf_unbound {s : State} {u : Nat} {t : Thread} (hr : s.Runs u t) {d : GReg} (h : s.Unbound d) (w : Word) :
    s.writeGOf u d w = s.withG d w := by
  simp only [State.Unbound] at h
  simp only [State.writeGOf, State.withG, hr.regsOf, h, State.modCtx, State.modMe, hr.uid]

/-- A result for a register that no stream is bound to. -/
theorem State.putG_unbound {s : State} {u : Nat} {t : Thread} (hr : s.Runs u t) (hp : s.Prompt) {d : GReg} (h : s.Unbound d)
    (w : Word) : s.putG d w = .next (s.withG d w) := by
  simp only [State.Prompt] at hp
  rw [State.putG, State.checkDest_unbound h]
  simp only [State.result, hp, State.applyHeld, hr.uid, State.writeGOf_unbound hr h]
  rfl

theorem State.op1_unbound {s : State} {u : Nat} {t : Thread} (hr : s.Runs u t) (hp : s.Prompt) {d a : GReg} (hd : s.Unbound d)
    (ha : s.Unbound a) (f : Word → Word) : s.op1 d a f = .next (s.withG d (f (s.src a))) := by
  rw [State.op1, State.getG_unbound ha, State.putG_unbound hr hp hd]

theorem State.op2_unbound {s : State} {u : Nat} {t : Thread} (hr : s.Runs u t) (hp : s.Prompt) {d a b : GReg} (hd : s.Unbound d)
    (ha : s.Unbound a) (hb : s.Unbound b) (f : Word → Word → Word) :
    s.op2 d a b f = .next (s.withG d (f (s.src a) (s.src b))) := by
  rw [State.op2, State.getG_unbound ha, State.getG_unbound hb, State.putG_unbound hr hp hd]

theorem State.op3_unbound {s : State} {u : Nat} {t : Thread} (hr : s.Runs u t) (hp : s.Prompt) {d a b c : GReg}
    (hd : s.Unbound d) (ha : s.Unbound a) (hb : s.Unbound b) (hc : s.Unbound c) (f : Word → Word → Word → Word) :
    s.op3 d a b c f = .next (s.withG d (f (s.src a) (s.src b) (s.src c))) := by
  rw [State.op3, State.getG_unbound ha, State.getG_unbound hb, State.getG_unbound hc, State.putG_unbound hr hp hd]

theorem State.op1d_unbound {s : State} {u : Nat} {t : Thread} (hr : s.Runs u t) (hp : s.Prompt) {d a : GReg} (hd : s.Unbound d)
    (ha : s.Unbound a) (f : Word → Word → Word) : s.op1d d a f = .next (s.withG d (f (s.src a) (s.src d))) := by
  rw [State.op1d, State.notBound_unbound hd, State.getG_unbound ha, State.getG_unbound hd, State.putG_unbound hr hp hd]

theorem State.op2d_unbound {s : State} {u : Nat} {t : Thread} (hr : s.Runs u t) (hp : s.Prompt) {d a b : GReg}
    (hd : s.Unbound d) (ha : s.Unbound a) (hb : s.Unbound b) (f : Word → Word → Word → Word) :
    s.op2d d a b f = .next (s.withG d (f (s.src a) (s.src b) (s.src d))) := by
  rw [State.op2d, State.notBound_unbound hd, State.getG_unbound ha, State.getG_unbound hb, State.getG_unbound hd,
    State.putG_unbound hr hp hd]

/-! ### Traps -/

/-- Entering a trap with a handler: EPC, CAUSE, TVAL, PPRV, PRV, TH and PC, and nothing else of the thread (R111). -/
theorem State.enterTrap_handler {s : State} {u : Nat} {t : Thread} (h : s.thread u = some t) (hth : t.ctx.th = false)
    (hv : (s.bc (cidOf t.key) t.booth).tvec ≠ 0) (pc cause : Nat) (tval : Word) :
    s.enterTrap u pc cause tval =
      (s.setSlot t.key { s.slot t.key with
        regs := { (s.slot t.key).regs with epc := BitVec.ofNat 64 pc, cause := BitVec.ofNat 64 cause, tval := tval } }).setThread u
        { t.woken s.cycle with held := [], aRan := false, beats := 0, given := [], ctx := { t.ctx with
          pprv := t.ctx.prv, prv := true, th := true, pc := ((s.bc (cidOf t.key) t.booth).tvec).setWidth 48 } } := by
  have hb : (t.ctx.th || (s.bc (cidOf t.key) t.booth).tvec == 0) = false := by simp_all
  simp only [State.enterTrap, h, hb, Bool.false_eq_true, if_false]

/-- A trap with TH set or without a handler stops the thread (R111). -/
theorem State.enterTrap_stop {s : State} {u : Nat} {t : Thread} (h : s.thread u = some t)
    (hs : t.ctx.th = true ∨ (s.bc (cidOf t.key) t.booth).tvec = 0) (pc cause : Nat) (tval : Word) :
    s.enterTrap u pc cause tval =
      (s.setSlot t.key { s.slot t.key with
        regs := { (s.slot t.key).regs with epc := BitVec.ofNat 64 pc, cause := BitVec.ofNat 64 cause, tval := tval } }).retire u
        (some (cause, pc)) := by
  have hb : (t.ctx.th || (s.bc (cidOf t.key) t.booth).tvec == 0) = true := by
    rcases hs with hs | hs <;> simp [hs]
  simp only [State.enterTrap, h, hb, if_true]

/-! ### Events -/

/-- An event answers a next state exactly when its precondition gives one. -/
theorem event_next (n : String) (r : Option State) (t : State) : event n r = .next t ↔ r = some t := by
  cases r <;> simp [event]

theorem event_some (n : String) (t : State) : event n (some t) = .next t := rfl

end Sys2Proof.Machine
end

