-- ==== Sys2Proof/Laws/PerInstr.lean ====
section
/-! SUPPORT. The family Words, per instruction: the encoding of a word keeps below bit 31, which frames bundles (R62). -/

namespace Sys2Proof.Laws
open Bits

theorem b2n_le (b : Bool) : b2n b ≤ 1 := by cases b <;> decide

theorem iTy_code_le (x : ITy) : x.code ≤ 3 := by cases x <;> decide
theorem size_code_le (x : Size) : x.code ≤ 3 := by cases x <;> decide
theorem cls_code_le (x : Cls) : x.code ≤ 1 := by cases x <;> decide
theorem aMode_code_le (x : AMode) : x.code ≤ 1 := by cases x <;> decide
theorem amoOp_code_le (x : AmoOp) : x.code ≤ 9 := by cases x <;> decide
theorem scope_code_le (x : Scope) : x.code ≤ 4 := by cases x <;> decide
theorem rnd_code_le (x : Rnd) : x.code ≤ 4 := by cases x <;> decide
theorem cTy_code_le (x : CTy) : x.code ≤ 15 := by cases x <;> decide
theorem srndD_code_le (x : SrndD) : x.code ≤ 2 := by cases x <;> decide
theorem srndS_code_le (x : SrndS) : x.code ≤ 1 := by cases x <;> decide
theorem sgnMode_code_le (x : SgnMode) : x.code ≤ 2 := by cases x <;> decide
theorem eSize_code_le (x : ESize) : x.code ≤ 2 := by cases x <;> decide
theorem redOp_code_le (x : RedOp) : x.code ≤ 5 := by cases x <;> decide
theorem redTy_code_le (x : RedTy) : x.code ≤ 5 := by cases x <;> decide
theorem port_code_le (x : Port) : x.code ≤ 2 := by cases x <;> decide
theorem link_code_le (x : Link) : x.code ≤ 3 := by cases x <;> decide
theorem latch_code_le (x : Latch) : x.code ≤ 15 := by
  cases x with
  | opa => decide
  | opb => decide
  | lane l => cases l <;> decide
theorem lag_bits_le (g : Lag) : g.bits.1 ≤ 1 ∧ g.bits.2 < 16 := by
  cases g with
  | count n => exact ⟨by simp [Lag.bits], n.isLt⟩
  | reg r => exact ⟨by simp [Lag.bits], r.isLt⟩

namespace Words

/-- What holds of every instruction: its word, if it has one, has bit 31 clear. -/
def Statement (i : Instr) : Prop := ∀ w, encode i = some w → w < 2 ^ 31

theorem nop : Statement .nop := by
  intro w hw
  rw [← Option.some.inj hw]
  simp only [encR]
  omega
theorem ecall : Statement .ecall := by
  intro w hw
  rw [← Option.some.inj hw]
  simp only [encR]
  omega
theorem brk : Statement .brk := by
  intro w hw
  rw [← Option.some.inj hw]
  simp only [encR]
  omega
theorem tret : Statement .tret := by
  intro w hw
  rw [← Option.some.inj hw]
  simp only [encR]
  omega
theorem ifence : Statement .ifence := by
  intro w hw
  rw [← Option.some.inj hw]
  simp only [encR]
  omega
theorem csrr (d : GReg) (c : BitVec 12) : Statement (.csrr d c) := by
  intro w hw
  rw [← Option.some.inj hw]
  have := d.isLt
  have := c.isLt
  simp only [encI]
  omega
theorem csrw (c : BitVec 12) (a : GReg) : Statement (.csrw c a) := by
  intro w hw
  rw [← Option.some.inj hw]
  have := c.isLt
  have := a.isLt
  simp only [encI]
  omega
theorem csrs (c : BitVec 12) (a : GReg) : Statement (.csrs c a) := by
  intro w hw
  rw [← Option.some.inj hw]
  have := c.isLt
  have := a.isLt
  simp only [encI]
  omega
theorem csrc (c : BitVec 12) (a : GReg) : Statement (.csrc c a) := by
  intro w hw
  rw [← Option.some.inj hw]
  have := c.isLt
  have := a.isLt
  simp only [encI]
  omega
theorem jmp (t : BitVec 21) : Statement (.jmp t) := by
  intro w hw
  rw [← Option.some.inj hw]
  have := t.isLt
  simp only [encU]
  omega
theorem call (t : BitVec 21) : Statement (.call t) := by
  intro w hw
  rw [← Option.some.inj hw]
  have := t.isLt
  simp only [encU]
  omega
theorem jr (a : GReg) : Statement (.jr a) := by
  intro w hw
  rw [← Option.some.inj hw]
  have := a.isLt
  simp only [encR]
  omega
theorem callr (a : GReg) : Statement (.callr a) := by
  intro w hw
  rw [← Option.some.inj hw]
  have := a.isLt
  simp only [encR]
  omega
theorem beq (a : GReg) (b : GReg) (t : BitVec 17) : Statement (.beq a b t) := by
  intro w hw
  rw [← Option.some.inj hw]
  have := a.isLt
  have := b.isLt
  have := t.isLt
  simp only [encI]
  omega
theorem bne (a : GReg) (b : GReg) (t : BitVec 17) : Statement (.bne a b t) := by
  intro w hw
  rw [← Option.some.inj hw]
  have := a.isLt
  have := b.isLt
  have := t.isLt
  simp only [encI]
  omega
theorem blt (a : GReg) (b : GReg) (t : BitVec 17) : Statement (.blt a b t) := by
  intro w hw
  rw [← Option.some.inj hw]
  have := a.isLt
  have := b.isLt
  have := t.isLt
  simp only [encI]
  omega
theorem bge (a : GReg) (b : GReg) (t : BitVec 17) : Statement (.bge a b t) := by
  intro w hw
  rw [← Option.some.inj hw]
  have := a.isLt
  have := b.isLt
  have := t.isLt
  simp only [encI]
  omega
theorem blo (a : GReg) (b : GReg) (t : BitVec 17) : Statement (.blo a b t) := by
  intro w hw
  rw [← Option.some.inj hw]
  have := a.isLt
  have := b.isLt
  have := t.isLt
  simp only [encI]
  omega
theorem bhs (a : GReg) (b : GReg) (t : BitVec 17) : Statement (.bhs a b t) := by
  intro w hw
  rw [← Option.some.inj hw]
  have := a.isLt
  have := b.isLt
  have := t.isLt
  simp only [encI]
  omega
theorem bkz (k : KReg) (t : BitVec 17) : Statement (.bkz k t) := by
  intro w hw
  rw [← Option.some.inj hw]
  have := k.isLt
  have := t.isLt
  simp only [encI]
  omega
theorem bknz (k : KReg) (t : BitVec 17) : Statement (.bknz k t) := by
  intro w hw
  rw [← Option.some.inj hw]
  have := k.isLt
  have := t.isLt
  simp only [encI]
  omega
theorem ld (d : GReg) (a : GReg) (s : Size) (c : Cls) (e : Ext) (o : BitVec 12) : Statement (.ld d a s c e o) := by
  intro w hw
  rw [← Option.some.inj hw]
  have := d.isLt
  have := a.isLt
  have := size_code_le s
  have := cls_code_le c
  have := o.isLt
  simp only [encM]
  split <;> omega
theorem st (d : GReg) (a : GReg) (s : Size) (c : Cls) (o : BitVec 12) : Statement (.st d a s c o) := by
  intro w hw
  rw [← Option.some.inj hw]
  have := d.isLt
  have := a.isLt
  have := size_code_le s
  have := cls_code_le c
  have := o.isLt
  simp only [encM]
  omega
theorem ldf (d : GReg) (a : GReg) (c : Cls) (o : BitVec 12) : Statement (.ldf d a c o) := by
  intro w hw
  rw [← Option.some.inj hw]
  have := d.isLt
  have := a.isLt
  have := cls_code_le c
  have := o.isLt
  simp only [encM]
  omega
theorem ldff (d : GReg) (a : GReg) (c : Cls) (o : BitVec 12) : Statement (.ldff d a c o) := by
  intro w hw
  rw [← Option.some.inj hw]
  have := d.isLt
  have := a.isLt
  have := cls_code_le c
  have := o.isLt
  simp only [encM]
  omega
theorem fetst (d : GReg) (a : GReg) (c : Cls) (o : BitVec 12) : Statement (.fetst d a c o) := by
  intro w hw
  rw [← Option.some.inj hw]
  have := d.isLt
  have := a.isLt
  have := cls_code_le c
  have := o.isLt
  simp only [encM]
  omega
theorem stf (d : GReg) (a : GReg) (c : Cls) (o : BitVec 12) : Statement (.stf d a c o) := by
  intro w hw
  rw [← Option.some.inj hw]
  have := d.isLt
  have := a.isLt
  have := cls_code_le c
  have := o.isLt
  simp only [encM]
  omega
theorem stfill (d : GReg) (a : GReg) (c : Cls) (o : BitVec 12) : Statement (.stfill d a c o) := by
  intro w hw
  rw [← Option.some.inj hw]
  have := d.isLt
  have := a.isLt
  have := cls_code_le c
  have := o.isLt
  simp only [encM]
  omega
theorem stemp (a : GReg) (c : Cls) (o : BitVec 12) : Statement (.stemp a c o) := by
  intro w hw
  rw [← Option.some.inj hw]
  have := a.isLt
  have := cls_code_le c
  have := o.isLt
  simp only [encM]
  omega
theorem lda (d : GReg) (a : GReg) (m : AMode) (g : Lag) (o : BitVec 8) : Statement (.lda d a m g o) := by
  intro w hw
  rw [← Option.some.inj hw]
  have := d.isLt
  have := a.isLt
  have := aMode_code_le m
  have := lag_bits_le g
  have := o.isLt
  simp only [encAged, encM]
  omega
theorem fetcha (d : GReg) (a : GReg) (m : AMode) (g : Lag) (o : BitVec 8) : Statement (.fetcha d a m g o) := by
  intro w hw
  rw [← Option.some.inj hw]
  have := d.isLt
  have := a.isLt
  have := aMode_code_le m
  have := lag_bits_le g
  have := o.isLt
  simp only [encAged, encM]
  omega
theorem pub (d : GReg) (a : GReg) (b : GReg) : Statement (.pub d a b) := by
  intro w hw
  rw [← Option.some.inj hw]
  have := d.isLt
  have := a.isLt
  have := b.isLt
  simp only [encR]
  omega
theorem itset (a : GReg) : Statement (.itset a) := by
  intro w hw
  rw [← Option.some.inj hw]
  have := a.isLt
  simp only [encR]
  omega
theorem itinc : Statement .itinc := by
  intro w hw
  rw [← Option.some.inj hw]
  simp only [encR]
  omega
theorem amo (o : AmoOp) (d : GReg) (a : GReg) (b : GReg) (wide : Bool) (c : Cls) : Statement (.amo o d a b wide c) := by
  intro w hw
  rw [← Option.some.inj hw]
  have := amoOp_code_le o
  have := d.isLt
  have := a.isLt
  have := b.isLt
  have := b2n_le wide
  have := cls_code_le c
  simp only [encR]
  omega
theorem cas (d : GReg) (a : GReg) (b : GReg) (wide : Bool) (c : Cls) : Statement (.cas d a b wide c) := by
  intro w hw
  rw [← Option.some.inj hw]
  have := d.isLt
  have := a.isLt
  have := b.isLt
  have := b2n_le wide
  have := cls_code_le c
  simp only [encR]
  omega
theorem fence (s : Scope) : Statement (.fence s) := by
  intro w hw
  rw [← Option.some.inj hw]
  have := scope_code_le s
  simp only [encR]
  omega
theorem mig (a : GReg) : Statement (.mig a) := by
  intro w hw
  rw [← Option.some.inj hw]
  have := a.isLt
  simp only [encR]
  omega
theorem migc (a : GReg) : Statement (.migc a) := by
  intro w hw
  rw [← Option.some.inj hw]
  have := a.isLt
  simp only [encR]
  omega
theorem tlook (d : GReg) (a : GReg) : Statement (.tlook d a) := by
  intro w hw
  rw [← Option.some.inj hw]
  have := d.isLt
  have := a.isLt
  simp only [encR]
  omega
theorem tset (a : GReg) (b : GReg) : Statement (.tset a b) := by
  intro w hw
  rw [← Option.some.inj hw]
  have := a.isLt
  have := b.isLt
  simp only [encR]
  omega
theorem tinv (a : GReg) : Statement (.tinv a) := by
  intro w hw
  rw [← Option.some.inj hw]
  have := a.isLt
  simp only [encR]
  omega
theorem tage (d : GReg) (a : GReg) : Statement (.tage d a) := by
  intro w hw
  rw [← Option.some.inj hw]
  have := d.isLt
  have := a.isLt
  simp only [encR]
  omega
theorem pushCopy (a : GReg) (b : GReg) (o : CpOpt) (r : Bar) : Statement (.pushCopy a b o r) := by
  intro w hw
  rw [← Option.some.inj hw]
  have := a.isLt
  have := b.isLt
  have := b2n_le o.nr
  have := b2n_le o.q
  have := b2n_le o.ob
  have := b2n_le r.be
  have := r.bh.isLt
  simp only [encCp, encBar, encR]
  omega
theorem pushGather (a : GReg) (b : GReg) (o : CpOpt) (r : Bar) (z : ESize) : Statement (.pushGather a b o r z) := by
  intro w hw
  rw [← Option.some.inj hw]
  have := a.isLt
  have := b.isLt
  have := b2n_le o.nr
  have := b2n_le o.q
  have := b2n_le o.ob
  have := b2n_le r.be
  have := r.bh.isLt
  have := eSize_code_le z
  simp only [encCp, encBar, encR]
  omega
theorem pushScatter (a : GReg) (b : GReg) (o : CpOpt) (r : Bar) (z : ESize) : Statement (.pushScatter a b o r z) := by
  intro w hw
  rw [← Option.some.inj hw]
  have := a.isLt
  have := b.isLt
  have := b2n_le o.nr
  have := b2n_le o.q
  have := b2n_le o.ob
  have := b2n_le r.be
  have := r.bh.isLt
  have := eSize_code_le z
  simp only [encCp, encBar, encR]
  omega
theorem pushFill (a : GReg) (b : GReg) (o : CpOpt) (r : Bar) : Statement (.pushFill a b o r) := by
  intro w hw
  rw [← Option.some.inj hw]
  have := a.isLt
  have := b.isLt
  have := b2n_le o.nr
  have := b2n_le o.q
  have := b2n_le o.ob
  have := b2n_le r.be
  have := r.bh.isLt
  simp only [encCp, encBar, encR]
  omega
theorem pushFetcha (a : GReg) (b : GReg) (o : CpOpt) (r : Bar) : Statement (.pushFetcha a b o r) := by
  intro w hw
  rw [← Option.some.inj hw]
  have := a.isLt
  have := b.isLt
  have := b2n_le o.nr
  have := b2n_le o.q
  have := b2n_le o.ob
  have := b2n_le r.be
  have := r.bh.isLt
  simp only [encCp, encBar, encR]
  omega
theorem pushPublish (a : GReg) (b : GReg) (o : CpOpt) (r : Bar) : Statement (.pushPublish a b o r) := by
  intro w hw
  rw [← Option.some.inj hw]
  have := a.isLt
  have := b.isLt
  have := b2n_le o.nr
  have := b2n_le o.q
  have := b2n_le o.ob
  have := b2n_le r.be
  have := r.bh.isLt
  simp only [encCp, encBar, encR]
  omega
theorem pushReduce (a : GReg) (b : GReg) (o : CpOpt) (x : RedOp) (t : RedTy) : Statement (.pushReduce a b o x t) := by
  intro w hw
  rw [← Option.some.inj hw]
  have := a.isLt
  have := b.isLt
  have := b2n_le o.nr
  have := b2n_le o.q
  have := b2n_le o.ob
  have := redOp_code_le x
  have := redTy_code_le t
  simp only [encCp, encR]
  omega
theorem pushAbar (a : GReg) (b : GReg) (o : CpOpt) (h : Fin 8) : Statement (.pushAbar a b o h) := by
  intro w hw
  rw [← Option.some.inj hw]
  have := a.isLt
  have := b.isLt
  have := b2n_le o.nr
  have := b2n_le o.q
  have := b2n_le o.ob
  have := h.isLt
  simp only [encCp, encR]
  omega
theorem pushArm (a : GReg) (b : GReg) : Statement (.pushArm a b) := by
  intro w hw
  rw [← Option.some.inj hw]
  have := a.isLt
  have := b.isLt
  simp only [encR]
  omega
theorem pushEpopen (a : GReg) (b : GReg) (o : NwOpt) : Statement (.pushEpopen a b o) := by
  intro w hw
  rw [← Option.some.inj hw]
  have := a.isLt
  have := b.isLt
  have := b2n_le o.nr
  have := b2n_le o.q
  have := b2n_le o.h
  have := o.t.isLt
  simp only [encNw, encR]
  omega
theorem pushWsend (a : GReg) (b : GReg) (o : NwOpt) : Statement (.pushWsend a b o) := by
  intro w hw
  rw [← Option.some.inj hw]
  have := a.isLt
  have := b.isLt
  have := b2n_le o.nr
  have := b2n_le o.q
  have := b2n_le o.h
  have := o.t.isLt
  simp only [encNw, encR]
  omega
theorem pushWwrite (a : GReg) (b : GReg) (o : NwOpt) : Statement (.pushWwrite a b o) := by
  intro w hw
  rw [← Option.some.inj hw]
  have := a.isLt
  have := b.isLt
  have := b2n_le o.nr
  have := b2n_le o.q
  have := b2n_le o.h
  have := o.t.isLt
  simp only [encNw, encR]
  omega
theorem pushWread (a : GReg) (b : GReg) (o : NwOpt) : Statement (.pushWread a b o) := by
  intro w hw
  rw [← Option.some.inj hw]
  have := a.isLt
  have := b.isLt
  have := b2n_le o.nr
  have := b2n_le o.q
  have := b2n_le o.h
  have := o.t.isLt
  simp only [encNw, encR]
  omega
theorem pushCtrset (a : GReg) (b : GReg) (o : NwOpt) : Statement (.pushCtrset a b o) := by
  intro w hw
  rw [← Option.some.inj hw]
  have := a.isLt
  have := b.isLt
  have := b2n_le o.nr
  have := b2n_le o.q
  have := b2n_le o.h
  have := o.t.isLt
  simp only [encNw, encR]
  omega
theorem pushCtrwait (a : GReg) (b : GReg) (o : NwOpt) : Statement (.pushCtrwait a b o) := by
  intro w hw
  rw [← Option.some.inj hw]
  have := a.isLt
  have := b.isLt
  have := b2n_le o.nr
  have := b2n_le o.q
  have := b2n_le o.h
  have := o.t.isLt
  simp only [encNw, encR]
  omega
theorem pop (d : GReg) (p : Port) : Statement (.pop d p) := by
  intro w hw
  rw [← Option.some.inj hw]
  have := d.isLt
  have := port_code_le p
  simp only [encR]
  omega
theorem ctrwait (a : GReg) (p : Port) : Statement (.ctrwait a p) := by
  intro w hw
  rw [← Option.some.inj hw]
  have := a.isLt
  have := port_code_le p
  simp only [encR]
  omega
theorem crcfg (a : GReg) : Statement (.crcfg a) := by
  intro w hw
  rw [← Option.some.inj hw]
  have := a.isLt
  simp only [encR]
  omega
theorem crcfgSet (a : GReg) : Statement (.crcfgSet a) := by
  intro w hw
  rw [← Option.some.inj hw]
  have := a.isLt
  simp only [encR]
  omega
theorem crcfgAdd (a : GReg) : Statement (.crcfgAdd a) := by
  intro w hw
  rw [← Option.some.inj hw]
  have := a.isLt
  simp only [encR]
  omega
theorem spawn (a : GReg) (b : GReg) : Statement (.spawn a b) := by
  intro w hw
  rw [← Option.some.inj hw]
  have := a.isLt
  have := b.isLt
  simp only [encR]
  omega
theorem post (a : GReg) (b : GReg) : Statement (.post a b) := by
  intro w hw
  rw [← Option.some.inj hw]
  have := a.isLt
  have := b.isLt
  simp only [encR]
  omega
theorem done : Statement .done := by
  intro w hw
  rw [← Option.some.inj hw]
  simp only [encR]
  omega
theorem yield : Statement .yield := by
  intro w hw
  rw [← Option.some.inj hw]
  simp only [encR]
  omega
theorem send (a : GReg) (b : GReg) : Statement (.send a b) := by
  intro w hw
  rw [← Option.some.inj hw]
  have := a.isLt
  have := b.isLt
  simp only [encR]
  omega
theorem chset (d : GReg) (a : GReg) (b : GReg) : Statement (.chset d a b) := by
  intro w hw
  rw [← Option.some.inj hw]
  have := d.isLt
  have := a.isLt
  have := b.isLt
  simp only [encR]
  omega
theorem chclr (d : GReg) (a : GReg) (b : GReg) : Statement (.chclr d a b) := by
  intro w hw
  rw [← Option.some.inj hw]
  have := d.isLt
  have := a.isLt
  have := b.isLt
  simp only [encR]
  omega
theorem resid (a : GReg) : Statement (.resid a) := by
  intro w hw
  rw [← Option.some.inj hw]
  have := a.isLt
  simp only [encR]
  omega
theorem launch (d : GReg) (a : GReg) : Statement (.launch d a) := by
  intro w hw
  rw [← Option.some.inj hw]
  have := d.isLt
  have := a.isLt
  simp only [encR]
  omega
theorem mcfg (a : GReg) (b : GReg) : Statement (.mcfg a b) := by
  intro w hw
  rw [← Option.some.inj hw]
  have := a.isLt
  have := b.isLt
  simp only [encR]
  omega
theorem mzero (t : Tile) (all : Bool) : Statement (.mzero t all) := by
  intro w hw
  rw [← Option.some.inj hw]
  have := t.isLt
  have := b2n_le all
  simp only [encR]
  omega
theorem mma (t : Tile) (a : GReg) (b : GReg) (s : Bool) (k : BitVec 8) : Statement (.mma t a b s k) := by
  intro w hw
  rw [← Option.some.inj hw]
  have := t.isLt
  have := a.isLt
  have := b.isLt
  have := b2n_le s
  have := k.isLt
  simp only [encRun, encR]
  omega
theorem mst (t : Tile) (a : GReg) (b : GReg) : Statement (.mst t a b) := by
  intro w hw
  rw [← Option.some.inj hw]
  have := t.isLt
  have := a.isLt
  have := b.isLt
  simp only [encR]
  omega
theorem mcnt (d : GReg) (t : Tile) (s : Fin 4) : Statement (.mcnt d t s) := by
  intro w hw
  rw [← Option.some.inj hw]
  have := d.isLt
  have := t.isLt
  have := s.isLt
  simp only [encR]
  omega
theorem mclrTile (t : Tile) : Statement (.mclrTile t) := by
  intro w hw
  rw [← Option.some.inj hw]
  have := t.isLt
  simp only [encR]
  omega
theorem mclrLatch (l : Latch) : Statement (.mclrLatch l) := by
  intro w hw
  rw [← Option.some.inj hw]
  have := latch_code_le l
  simp only [encR]
  omega
theorem mcmp (a : GReg) (b : GReg) (k : BitVec 8) : Statement (.mcmp a b k) := by
  intro w hw
  rw [← Option.some.inj hw]
  have := a.isLt
  have := b.isLt
  have := k.isLt
  simp only [encR]
  omega
theorem mlink (d : GReg) (r : Link) : Statement (.mlink d r) := by
  intro w hw
  rw [← Option.some.inj hw]
  have := d.isLt
  have := link_code_le r
  simp only [encR]
  omega
theorem mrot (t : Tile) (a : GReg) (b : GReg) (s : Bool) (k : BitVec 8) : Statement (.mrot t a b s k) := by
  intro w hw
  rw [← Option.some.inj hw]
  have := t.isLt
  have := a.isLt
  have := b.isLt
  have := b2n_le s
  have := k.isLt
  simp only [encRun, encR]
  omega
theorem mnorm (d : GReg) (a : GReg) (b : GReg) : Statement (.mnorm d a b) := by
  intro w hw
  rw [← Option.some.inj hw]
  have := d.isLt
  have := a.isLt
  have := b.isLt
  simp only [encR]
  omega
theorem malias (a : GReg) : Statement (.malias a) := by
  intro w hw
  rw [← Option.some.inj hw]
  have := a.isLt
  simp only [encR]
  omega
theorem msmp (t : Tile) (a : GReg) (b : GReg) (s : Bool) (k : BitVec 8) : Statement (.msmp t a b s k) := by
  intro w hw
  rw [← Option.some.inj hw]
  have := t.isLt
  have := a.isLt
  have := b.isLt
  have := b2n_le s
  have := k.isLt
  simp only [encRun, encR]
  omega
theorem mvar (d : GReg) (s : Fin 4) : Statement (.mvar d s) := by
  intro w hw
  rw [← Option.some.inj hw]
  have := d.isLt
  have := s.isLt
  simp only [encR]
  omega
theorem mstop (a : GReg) (b : GReg) : Statement (.mstop a b) := by
  intro w hw
  rw [← Option.some.inj hw]
  have := a.isLt
  have := b.isLt
  simp only [encR]
  omega
theorem lrd (d : GReg) (i : Link) : Statement (.lrd d i) := by
  intro w hw
  rw [← Option.some.inj hw]
  have := d.isLt
  have := link_code_le i
  simp only [encR]
  omega
theorem lrf (d : GReg) (i : Link) (o : Link) : Statement (.lrf d i o) := by
  intro w hw
  rw [← Option.some.inj hw]
  have := d.isLt
  have := link_code_le i
  have := link_code_le o
  simp only [encR]
  omega
theorem lwr (o : Link) (a : GReg) : Statement (.lwr o a) := by
  intro w hw
  rw [← Option.some.inj hw]
  have := link_code_le o
  have := a.isLt
  simp only [encR]
  omega
theorem vld (v : VReg) (a : GReg) (b : GReg) (m : Bool) (k : KReg) : Statement (.vld v a b m k) := by
  intro w hw
  rw [← Option.some.inj hw]
  have := v.isLt
  have := a.isLt
  have := b.isLt
  have := b2n_le m
  have := k.isLt
  simp only [encR]
  omega
theorem vst (v : VReg) (a : GReg) (b : GReg) (m : Bool) (k : KReg) : Statement (.vst v a b m k) := by
  intro w hw
  rw [← Option.some.inj hw]
  have := v.isLt
  have := a.isLt
  have := b.isLt
  have := b2n_le m
  have := k.isLt
  simp only [encR]
  omega
theorem vfence : Statement .vfence := by
  intro w hw
  rw [← Option.some.inj hw]
  simp only [encR]
  omega
theorem sbind (s : Fin 4) (a : GReg) (b : GReg) : Statement (.sbind s a b) := by
  intro w hw
  rw [← Option.some.inj hw]
  have := s.isLt
  have := a.isLt
  have := b.isLt
  simp only [encR]
  omega
theorem sfree (s : Fin 4) : Statement (.sfree s) := by
  intro w hw
  rw [← Option.some.inj hw]
  have := s.isLt
  simp only [encR]
  omega
theorem ssync : Statement .ssync := by
  intro w hw
  rw [← Option.some.inj hw]
  simp only [encR]
  omega
theorem add (t : ITy) (d : GReg) (a : GReg) (b : GReg) : Statement (.add t d a b) := by
  intro w hw
  rw [← Option.some.inj hw]
  have := iTy_code_le t
  have := d.isLt
  have := a.isLt
  have := b.isLt
  simp only [encInt, encR]
  omega
theorem sub (t : ITy) (d : GReg) (a : GReg) (b : GReg) : Statement (.sub t d a b) := by
  intro w hw
  rw [← Option.some.inj hw]
  have := iTy_code_le t
  have := d.isLt
  have := a.isLt
  have := b.isLt
  simp only [encInt, encR]
  omega
theorem mul (t : ITy) (d : GReg) (a : GReg) (b : GReg) : Statement (.mul t d a b) := by
  intro w hw
  rw [← Option.some.inj hw]
  have := iTy_code_le t
  have := d.isLt
  have := a.isLt
  have := b.isLt
  simp only [encInt, encR]
  omega
theorem mulh (t : ITy) (d : GReg) (a : GReg) (b : GReg) : Statement (.mulh t d a b) := by
  intro w hw
  rw [← Option.some.inj hw]
  have := iTy_code_le t
  have := d.isLt
  have := a.isLt
  have := b.isLt
  simp only [encInt, encR]
  omega
theorem mulhz (t : ITy) (d : GReg) (a : GReg) (b : GReg) : Statement (.mulhz t d a b) := by
  intro w hw
  rw [← Option.some.inj hw]
  have := iTy_code_le t
  have := d.isLt
  have := a.isLt
  have := b.isLt
  simp only [encInt, encR]
  omega
theorem div (t : ITy) (d : GReg) (a : GReg) (b : GReg) : Statement (.div t d a b) := by
  intro w hw
  rw [← Option.some.inj hw]
  have := iTy_code_le t
  have := d.isLt
  have := a.isLt
  have := b.isLt
  simp only [encInt, encR]
  omega
theorem divz (t : ITy) (d : GReg) (a : GReg) (b : GReg) : Statement (.divz t d a b) := by
  intro w hw
  rw [← Option.some.inj hw]
  have := iTy_code_le t
  have := d.isLt
  have := a.isLt
  have := b.isLt
  simp only [encInt, encR]
  omega
theorem rem (t : ITy) (d : GReg) (a : GReg) (b : GReg) : Statement (.rem t d a b) := by
  intro w hw
  rw [← Option.some.inj hw]
  have := iTy_code_le t
  have := d.isLt
  have := a.isLt
  have := b.isLt
  simp only [encInt, encR]
  omega
theorem remz (t : ITy) (d : GReg) (a : GReg) (b : GReg) : Statement (.remz t d a b) := by
  intro w hw
  rw [← Option.some.inj hw]
  have := iTy_code_le t
  have := d.isLt
  have := a.isLt
  have := b.isLt
  simp only [encInt, encR]
  omega
theorem and (t : ITy) (d : GReg) (a : GReg) (b : GReg) : Statement (.and t d a b) := by
  intro w hw
  rw [← Option.some.inj hw]
  have := iTy_code_le t
  have := d.isLt
  have := a.isLt
  have := b.isLt
  simp only [encInt, encR]
  omega
theorem or (t : ITy) (d : GReg) (a : GReg) (b : GReg) : Statement (.or t d a b) := by
  intro w hw
  rw [← Option.some.inj hw]
  have := iTy_code_le t
  have := d.isLt
  have := a.isLt
  have := b.isLt
  simp only [encInt, encR]
  omega
theorem xor (t : ITy) (d : GReg) (a : GReg) (b : GReg) : Statement (.xor t d a b) := by
  intro w hw
  rw [← Option.some.inj hw]
  have := iTy_code_le t
  have := d.isLt
  have := a.isLt
  have := b.isLt
  simp only [encInt, encR]
  omega
theorem andn (t : ITy) (d : GReg) (a : GReg) (b : GReg) : Statement (.andn t d a b) := by
  intro w hw
  rw [← Option.some.inj hw]
  have := iTy_code_le t
  have := d.isLt
  have := a.isLt
  have := b.isLt
  simp only [encInt, encR]
  omega
theorem shl (t : ITy) (d : GReg) (a : GReg) (b : GReg) : Statement (.shl t d a b) := by
  intro w hw
  rw [← Option.some.inj hw]
  have := iTy_code_le t
  have := d.isLt
  have := a.isLt
  have := b.isLt
  simp only [encInt, encR]
  omega
theorem shr (t : ITy) (d : GReg) (a : GReg) (b : GReg) : Statement (.shr t d a b) := by
  intro w hw
  rw [← Option.some.inj hw]
  have := iTy_code_le t
  have := d.isLt
  have := a.isLt
  have := b.isLt
  simp only [encInt, encR]
  omega
theorem sar (t : ITy) (d : GReg) (a : GReg) (b : GReg) : Statement (.sar t d a b) := by
  intro w hw
  rw [← Option.some.inj hw]
  have := iTy_code_le t
  have := d.isLt
  have := a.isLt
  have := b.isLt
  simp only [encInt, encR]
  omega
theorem slt (t : ITy) (d : GReg) (a : GReg) (b : GReg) : Statement (.slt t d a b) := by
  intro w hw
  rw [← Option.some.inj hw]
  have := iTy_code_le t
  have := d.isLt
  have := a.isLt
  have := b.isLt
  simp only [encInt, encR]
  omega
theorem sltz (t : ITy) (d : GReg) (a : GReg) (b : GReg) : Statement (.sltz t d a b) := by
  intro w hw
  rw [← Option.some.inj hw]
  have := iTy_code_le t
  have := d.isLt
  have := a.isLt
  have := b.isLt
  simp only [encInt, encR]
  omega
theorem min (t : ITy) (d : GReg) (a : GReg) (b : GReg) : Statement (.min t d a b) := by
  intro w hw
  rw [← Option.some.inj hw]
  have := iTy_code_le t
  have := d.isLt
  have := a.isLt
  have := b.isLt
  simp only [encInt, encR]
  omega
theorem max (t : ITy) (d : GReg) (a : GReg) (b : GReg) : Statement (.max t d a b) := by
  intro w hw
  rw [← Option.some.inj hw]
  have := iTy_code_le t
  have := d.isLt
  have := a.isLt
  have := b.isLt
  simp only [encInt, encR]
  omega
theorem minz (t : ITy) (d : GReg) (a : GReg) (b : GReg) : Statement (.minz t d a b) := by
  intro w hw
  rw [← Option.some.inj hw]
  have := iTy_code_le t
  have := d.isLt
  have := a.isLt
  have := b.isLt
  simp only [encInt, encR]
  omega
theorem maxz (t : ITy) (d : GReg) (a : GReg) (b : GReg) : Statement (.maxz t d a b) := by
  intro w hw
  rw [← Option.some.inj hw]
  have := iTy_code_le t
  have := d.isLt
  have := a.isLt
  have := b.isLt
  simp only [encInt, encR]
  omega
theorem clz (t : ITy) (d : GReg) (a : GReg) : Statement (.clz t d a) := by
  intro w hw
  rw [← Option.some.inj hw]
  have := iTy_code_le t
  have := d.isLt
  have := a.isLt
  simp only [encInt, encR]
  omega
theorem ctz (t : ITy) (d : GReg) (a : GReg) : Statement (.ctz t d a) := by
  intro w hw
  rw [← Option.some.inj hw]
  have := iTy_code_le t
  have := d.isLt
  have := a.isLt
  simp only [encInt, encR]
  omega
theorem popc (t : ITy) (d : GReg) (a : GReg) : Statement (.popc t d a) := by
  intro w hw
  rw [← Option.some.inj hw]
  have := iTy_code_le t
  have := d.isLt
  have := a.isLt
  simp only [encInt, encR]
  omega
theorem sel (t : ITy) (d : GReg) (a : GReg) (b : GReg) (c : GReg) : Statement (.sel t d a b c) := by
  intro w hw
  rw [← Option.some.inj hw]
  have := iTy_code_le t
  have := d.isLt
  have := a.isLt
  have := b.isLt
  have := c.isLt
  simp only [encInt, encR]
  omega
theorem bfx (d : GReg) (a : GReg) (e : Ext) (p : Fin 64) (n : Fin 64) : Statement (.bfx d a e p n) := by
  intro w hw
  rw [← Option.some.inj hw]
  have := d.isLt
  have := a.isLt
  have := p.isLt
  have := n.isLt
  simp only [encR]
  split <;> omega
theorem bfi (d : GReg) (a : GReg) (p : Fin 64) (n : Fin 64) : Statement (.bfi d a p n) := by
  intro w hw
  rw [← Option.some.inj hw]
  have := d.isLt
  have := a.isLt
  have := p.isLt
  have := n.isLt
  simp only [encR]
  omega
theorem addi (d : GReg) (a : GReg) (i : BitVec 17) : Statement (.addi d a i) := by
  intro w hw
  rw [← Option.some.inj hw]
  have := d.isLt
  have := a.isLt
  have := i.isLt
  simp only [encI]
  omega
theorem andi (d : GReg) (a : GReg) (i : BitVec 17) : Statement (.andi d a i) := by
  intro w hw
  rw [← Option.some.inj hw]
  have := d.isLt
  have := a.isLt
  have := i.isLt
  simp only [encI]
  omega
theorem ori (d : GReg) (a : GReg) (i : BitVec 17) : Statement (.ori d a i) := by
  intro w hw
  rw [← Option.some.inj hw]
  have := d.isLt
  have := a.isLt
  have := i.isLt
  simp only [encI]
  omega
theorem xori (d : GReg) (a : GReg) (i : BitVec 17) : Statement (.xori d a i) := by
  intro w hw
  rw [← Option.some.inj hw]
  have := d.isLt
  have := a.isLt
  have := i.isLt
  simp only [encI]
  omega
theorem shli (d : GReg) (a : GReg) (i : Fin 64) : Statement (.shli d a i) := by
  intro w hw
  rw [← Option.some.inj hw]
  have := d.isLt
  have := a.isLt
  have := i.isLt
  simp only [encI]
  omega
theorem shri (d : GReg) (a : GReg) (i : Fin 64) : Statement (.shri d a i) := by
  intro w hw
  rw [← Option.some.inj hw]
  have := d.isLt
  have := a.isLt
  have := i.isLt
  simp only [encI]
  omega
theorem sari (d : GReg) (a : GReg) (i : Fin 64) : Statement (.sari d a i) := by
  intro w hw
  rw [← Option.some.inj hw]
  have := d.isLt
  have := a.isLt
  have := i.isLt
  simp only [encI]
  omega
theorem slti (d : GReg) (a : GReg) (i : BitVec 17) : Statement (.slti d a i) := by
  intro w hw
  rw [← Option.some.inj hw]
  have := d.isLt
  have := a.isLt
  have := i.isLt
  simp only [encI]
  omega
theorem lui (d : GReg) (i : BitVec 21) : Statement (.lui d i) := by
  intro w hw
  rw [← Option.some.inj hw]
  have := d.isLt
  have := i.isLt
  simp only [encU]
  omega
theorem fadd (d : GReg) (a : GReg) (b : GReg) (r : Rnd) (s : Bool) (n : Fin 32) : Statement (.fadd d a b r s n) := by
  intro w hw
  rw [← Option.some.inj hw]
  have := d.isLt
  have := a.isLt
  have := b.isLt
  have := rnd_code_le r
  have := b2n_le s
  have := n.isLt
  simp only [encFloat, encR]
  omega
theorem fsub (d : GReg) (a : GReg) (b : GReg) (r : Rnd) (s : Bool) (n : Fin 32) : Statement (.fsub d a b r s n) := by
  intro w hw
  rw [← Option.some.inj hw]
  have := d.isLt
  have := a.isLt
  have := b.isLt
  have := rnd_code_le r
  have := b2n_le s
  have := n.isLt
  simp only [encFloat, encR]
  omega
theorem fmul (d : GReg) (a : GReg) (b : GReg) (r : Rnd) (s : Bool) (n : Fin 32) : Statement (.fmul d a b r s n) := by
  intro w hw
  rw [← Option.some.inj hw]
  have := d.isLt
  have := a.isLt
  have := b.isLt
  have := rnd_code_le r
  have := b2n_le s
  have := n.isLt
  simp only [encFloat, encR]
  omega
theorem fmin (d : GReg) (a : GReg) (b : GReg) : Statement (.fmin d a b) := by
  intro w hw
  rw [← Option.some.inj hw]
  have := d.isLt
  have := a.isLt
  have := b.isLt
  simp only [encR]
  omega
theorem fmax (d : GReg) (a : GReg) (b : GReg) : Statement (.fmax d a b) := by
  intro w hw
  rw [← Option.some.inj hw]
  have := d.isLt
  have := a.isLt
  have := b.isLt
  simp only [encR]
  omega
theorem feq (d : GReg) (a : GReg) (b : GReg) : Statement (.feq d a b) := by
  intro w hw
  rw [← Option.some.inj hw]
  have := d.isLt
  have := a.isLt
  have := b.isLt
  simp only [encR]
  omega
theorem flt (d : GReg) (a : GReg) (b : GReg) : Statement (.flt d a b) := by
  intro w hw
  rw [← Option.some.inj hw]
  have := d.isLt
  have := a.isLt
  have := b.isLt
  simp only [encR]
  omega
theorem fle (d : GReg) (a : GReg) (b : GReg) : Statement (.fle d a b) := by
  intro w hw
  rw [← Option.some.inj hw]
  have := d.isLt
  have := a.isLt
  have := b.isLt
  simp only [encR]
  omega
theorem fcls (d : GReg) (a : GReg) : Statement (.fcls d a) := by
  intro w hw
  rw [← Option.some.inj hw]
  have := d.isLt
  have := a.isLt
  simp only [encR]
  omega
theorem fsgn (d : GReg) (a : GReg) (b : GReg) (m : SgnMode) : Statement (.fsgn d a b m) := by
  intro w hw
  rw [← Option.some.inj hw]
  have := d.isLt
  have := a.isLt
  have := b.isLt
  have := sgnMode_code_le m
  simp only [encR]
  omega
theorem ffma (d : GReg) (a : GReg) (b : GReg) (c : GReg) (r : Rnd) (s : Bool) (n : Fin 32) : Statement (.ffma d a b c r s n) := by
  intro w hw
  rw [← Option.some.inj hw]
  have := d.isLt
  have := a.isLt
  have := b.isLt
  have := c.isLt
  have := rnd_code_le r
  have := b2n_le s
  have := n.isLt
  simp only [encR]
  omega
theorem fcvt (d : GReg) (a : GReg) (s : Bool) (t : CTy) (u : CTy) (r : Rnd) : Statement (.fcvt d a s t u r) := by
  intro w hw
  rw [← Option.some.inj hw]
  have := d.isLt
  have := a.isLt
  have := b2n_le s
  have := cTy_code_le t
  have := cTy_code_le u
  have := rnd_code_le r
  simp only [encR]
  omega
theorem srnd (d : GReg) (a : GReg) (b : GReg) (t : SrndD) (u : SrndS) (s : Bool) (n : Fin 32) : Statement (.srnd d a b t u s n) := by
  intro w hw
  rw [← Option.some.inj hw]
  have := d.isLt
  have := a.isLt
  have := b.isLt
  have := srndD_code_le t
  have := srndS_code_le u
  have := b2n_le s
  have := n.isLt
  simp only [encR]
  omega
theorem cadd (d : GReg) (a : GReg) (b : GReg) : Statement (.cadd d a b) := by
  intro w hw
  rw [← Option.some.inj hw]
  have := d.isLt
  have := a.isLt
  have := b.isLt
  simp only [encR]
  omega
theorem frcp (d : GReg) (a : GReg) : Statement (.frcp d a) := by
  intro w hw
  rw [← Option.some.inj hw]
  have := d.isLt
  have := a.isLt
  simp only [encR]
  omega
theorem frsq (d : GReg) (a : GReg) : Statement (.frsq d a) := by
  intro w hw
  rw [← Option.some.inj hw]
  have := d.isLt
  have := a.isLt
  simp only [encR]
  omega
theorem fsqrt (d : GReg) (a : GReg) : Statement (.fsqrt d a) := by
  intro w hw
  rw [← Option.some.inj hw]
  have := d.isLt
  have := a.isLt
  simp only [encR]
  omega
theorem fdiv (d : GReg) (a : GReg) (b : GReg) : Statement (.fdiv d a b) := by
  intro w hw
  rw [← Option.some.inj hw]
  have := d.isLt
  have := a.isLt
  have := b.isLt
  simp only [encR]
  omega
theorem fex2 (d : GReg) (a : GReg) : Statement (.fex2 d a) := by
  intro w hw
  rw [← Option.some.inj hw]
  have := d.isLt
  have := a.isLt
  simp only [encR]
  omega
theorem flg2 (d : GReg) (a : GReg) : Statement (.flg2 d a) := by
  intro w hw
  rw [← Option.some.inj hw]
  have := d.isLt
  have := a.isLt
  simp only [encR]
  omega
theorem fsin (d : GReg) (a : GReg) : Statement (.fsin d a) := by
  intro w hw
  rw [← Option.some.inj hw]
  have := d.isLt
  have := a.isLt
  simp only [encR]
  omega
theorem fcos (d : GReg) (a : GReg) : Statement (.fcos d a) := by
  intro w hw
  rw [← Option.some.inj hw]
  have := d.isLt
  have := a.isLt
  simp only [encR]
  omega
theorem ftanh (d : GReg) (a : GReg) : Statement (.ftanh d a) := by
  intro w hw
  rw [← Option.some.inj hw]
  have := d.isLt
  have := a.isLt
  simp only [encR]
  omega
theorem vadd (d : VReg) (x : VReg) (y : VReg) (b : GReg) (a : GReg) : Statement (.vadd d x y b a) := by
  intro w hw
  rw [← Option.some.inj hw]
  have := d.isLt
  have := x.isLt
  have := y.isLt
  have := b.isLt
  have := a.isLt
  simp only [encVec, encR]
  omega
theorem vsub (d : VReg) (x : VReg) (y : VReg) (b : GReg) (a : GReg) : Statement (.vsub d x y b a) := by
  intro w hw
  rw [← Option.some.inj hw]
  have := d.isLt
  have := x.isLt
  have := y.isLt
  have := b.isLt
  have := a.isLt
  simp only [encVec, encR]
  omega
theorem vmul (d : VReg) (x : VReg) (y : VReg) (b : GReg) (a : GReg) : Statement (.vmul d x y b a) := by
  intro w hw
  rw [← Option.some.inj hw]
  have := d.isLt
  have := x.isLt
  have := y.isLt
  have := b.isLt
  have := a.isLt
  simp only [encVec, encR]
  omega
theorem vfma (d : VReg) (x : VReg) (y : VReg) (b : GReg) (a : GReg) : Statement (.vfma d x y b a) := by
  intro w hw
  rw [← Option.some.inj hw]
  have := d.isLt
  have := x.isLt
  have := y.isLt
  have := b.isLt
  have := a.isLt
  simp only [encVec, encR]
  omega
theorem vmin (d : VReg) (x : VReg) (y : VReg) (b : GReg) : Statement (.vmin d x y b) := by
  intro w hw
  rw [← Option.some.inj hw]
  have := d.isLt
  have := x.isLt
  have := y.isLt
  have := b.isLt
  simp only [encVec, encR]
  omega
theorem vmax (d : VReg) (x : VReg) (y : VReg) (b : GReg) : Statement (.vmax d x y b) := by
  intro w hw
  rw [← Option.some.inj hw]
  have := d.isLt
  have := x.isLt
  have := y.isLt
  have := b.isLt
  simp only [encVec, encR]
  omega
theorem vcmp (d : KReg) (x : VReg) (y : VReg) (b : GReg) : Statement (.vcmp d x y b) := by
  intro w hw
  rw [← Option.some.inj hw]
  have := d.isLt
  have := x.isLt
  have := y.isLt
  have := b.isLt
  simp only [encVec, encR]
  omega
theorem vsel (d : VReg) (x : VReg) (y : VReg) (b : GReg) : Statement (.vsel d x y b) := by
  intro w hw
  rw [← Option.some.inj hw]
  have := d.isLt
  have := x.isLt
  have := y.isLt
  have := b.isLt
  simp only [encVec, encR]
  omega
theorem vred (d : VReg) (x : VReg) (b : GReg) : Statement (.vred d x b) := by
  intro w hw
  rw [← Option.some.inj hw]
  have := d.isLt
  have := x.isLt
  have := b.isLt
  simp only [encVec, encR]
  omega
theorem vscan (d : VReg) (x : VReg) (b : GReg) : Statement (.vscan d x b) := by
  intro w hw
  rw [← Option.some.inj hw]
  have := d.isLt
  have := x.isLt
  have := b.isLt
  simp only [encVec, encR]
  omega
theorem vcvt (d : VReg) (x : VReg) (b : GReg) (a : GReg) : Statement (.vcvt d x b a) := by
  intro w hw
  rw [← Option.some.inj hw]
  have := d.isLt
  have := x.isLt
  have := b.isLt
  have := a.isLt
  simp only [encVec, encR]
  omega
theorem vperm (d : VReg) (x : VReg) (y : VReg) (b : GReg) : Statement (.vperm d x y b) := by
  intro w hw
  rw [← Option.some.inj hw]
  have := d.isLt
  have := x.isLt
  have := y.isLt
  have := b.isLt
  simp only [encVec, encR]
  omega
theorem vbcast (d : VReg) (b : GReg) (a : GReg) : Statement (.vbcast d b a) := by
  intro w hw
  rw [← Option.some.inj hw]
  have := d.isLt
  have := b.isLt
  have := a.isLt
  simp only [encVec, encR]
  omega
theorem kand (d : KReg) (x : KReg) (y : KReg) : Statement (.kand d x y) := by
  intro w hw
  rw [← Option.some.inj hw]
  have := d.isLt
  have := x.isLt
  have := y.isLt
  simp only [encMask, encR]
  omega
theorem kor (d : KReg) (x : KReg) (y : KReg) : Statement (.kor d x y) := by
  intro w hw
  rw [← Option.some.inj hw]
  have := d.isLt
  have := x.isLt
  have := y.isLt
  simp only [encMask, encR]
  omega
theorem kxor (d : KReg) (x : KReg) (y : KReg) : Statement (.kxor d x y) := by
  intro w hw
  rw [← Option.some.inj hw]
  have := d.isLt
  have := x.isLt
  have := y.isLt
  simp only [encMask, encR]
  omega
theorem knot (d : KReg) (x : KReg) : Statement (.knot d x) := by
  intro w hw
  rw [← Option.some.inj hw]
  have := d.isLt
  have := x.isLt
  simp only [encMask, encR]
  omega
theorem kset (d : KReg) (a : GReg) : Statement (.kset d a) := by
  intro w hw
  rw [← Option.some.inj hw]
  have := d.isLt
  have := a.isLt
  simp only [encMask, encR]
  omega
theorem vget (d : GReg) (v : VReg) (n : Fin 16) : Statement (.vget d v n) := by
  intro w hw
  rw [← Option.some.inj hw]
  have := d.isLt
  have := v.isLt
  have := n.isLt
  simp only [encR]
  omega
theorem vput (v : VReg) (a : GReg) (n : Fin 16) : Statement (.vput v a n) := by
  intro w hw
  rw [← Option.some.inj hw]
  have := v.isLt
  have := a.isLt
  have := n.isLt
  simp only [encR]
  omega
theorem vbusy (d : GReg) : Statement (.vbusy d) := by
  intro w hw
  rw [← Option.some.inj hw]
  have := d.isLt
  simp only [encR]
  omega
theorem kpop (d : GReg) (k : KReg) : Statement (.kpop d k) := by
  intro w hw
  rw [← Option.some.inj hw]
  have := d.isLt
  have := k.isLt
  simp only [encR]
  omega
theorem remoteReply (n : Nat) : Statement (.remoteReply n) := nofun
theorem acknowledgement (n : Nat) : Statement (.acknowledgement n) := nofun
theorem orderedCredit (n : Nat) : Statement (.orderedCredit n) := nofun
theorem creditTimer (n : Nat) : Statement (.creditTimer n) := nofun
theorem fenceProbe (n : Nat) : Statement (.fenceProbe n) := nofun
theorem fenceEcho (n : Nat) : Statement (.fenceEcho n) := nofun
theorem postedRefusal (n : Nat) : Statement (.postedRefusal n) := nofun
theorem homeLoad (n : Nat) : Statement (.homeLoad n) := nofun
theorem homeStore (n : Nat) : Statement (.homeStore n) := nofun
theorem homeAtomic (n : Nat) : Statement (.homeAtomic n) := nofun
theorem homeSyncAccess (n : Nat) : Statement (.homeSyncAccess n) := nofun
theorem feRetryLimit (n : Nat) : Statement (.feRetryLimit n) := nofun
theorem feWaitLimit (n : Nat) : Statement (.feWaitLimit n) := nofun
theorem homeAgedLoad (n : Nat) : Statement (.homeAgedLoad n) := nofun
theorem homeFetcha (n : Nat) : Statement (.homeFetcha n) := nofun
theorem homePublish (n : Nat) : Statement (.homePublish n) := nofun
theorem lagTimeout (n : Nat) : Statement (.lagTimeout n) := nofun
theorem stopNotice (n : Nat) : Statement (.stopNotice n) := nofun
theorem migrationArrival (n : Nat) : Statement (.migrationArrival n) := nofun
theorem slotFill (key : Nat) : Statement (.slotFill key) := nofun
theorem walkComplete (n : Nat) : Statement (.walkComplete n) := nofun
theorem sfuEnqueue (cid : Nat) : Statement (.sfuEnqueue cid) := nofun
theorem sfuResult (cid : Nat) : Statement (.sfuResult cid) := nofun
theorem matrixRunStart (cid : Nat) : Statement (.matrixRunStart cid) := nofun
theorem matrixRunEnd (cid : Nat) : Statement (.matrixRunEnd cid) := nofun
theorem matrixRunLimit (cid : Nat) : Statement (.matrixRunLimit cid) := nofun
theorem operandUnitArrival (n : Nat) : Statement (.operandUnitArrival n) := nofun
theorem linkWordArrival (n : Nat) : Statement (.linkWordArrival n) := nofun
theorem copyCmdStart (eng : Nat) : Statement (.copyCmdStart eng) := nofun
theorem chunkCounted (eng : Nat) (i : Nat) (chunk : Nat) : Statement (.chunkCounted eng i chunk) := nofun
theorem copyCmdComplete (eng : Nat) (i : Nat) : Statement (.copyCmdComplete eng i) := nofun
theorem copyFetchaTimeout (eng : Nat) (i : Nat) : Statement (.copyFetchaTimeout eng i) := nofun
theorem crierPulse (n : Nat) : Statement (.crierPulse n) := nofun
theorem heldCmdEnter (eng : Nat) : Statement (.heldCmdEnter eng) := nofun
theorem nwCmdStart (eng : Nat) : Statement (.nwCmdStart eng) := nofun
theorem nwPacketArrival (n : Nat) : Statement (.nwPacketArrival n) := nofun
theorem nwAckArrival (n : Nat) : Statement (.nwAckArrival n) := nofun
theorem nwAckTimer (eng : Nat) (i : Nat) : Statement (.nwAckTimer eng i) := nofun
theorem nwRtoExpiry (eng : Nat) (i : Nat) (pkt : Nat) : Statement (.nwRtoExpiry eng i pkt) := nofun
theorem nwReadResponse (n : Nat) : Statement (.nwReadResponse n) := nofun
theorem nwRefusal (n : Nat) : Statement (.nwRefusal n) := nofun
theorem nwPortLoss (die : Nat) (port : Nat) : Statement (.nwPortLoss die port) := nofun
theorem channelMessageArrival (n : Nat) : Statement (.channelMessageArrival n) := nofun
theorem sendStall (uid : Nat) : Statement (.sendStall uid) := nofun
theorem launchComplete (h : Nat) : Statement (.launchComplete h) := nofun
theorem deadlineExpiry (h : Nat) : Statement (.deadlineExpiry h) := nofun
theorem preemptRequest (cid : Nat) (booth : Nat) : Statement (.preemptRequest cid booth) := nofun
theorem preemptSwap (key : Nat) : Statement (.preemptSwap key) := nofun
theorem spillComplete (key : Nat) : Statement (.spillComplete key) := nofun
theorem handoverSave (h : Nat) (key : Nat) : Statement (.handoverSave h key) := nofun
theorem handoverScrub (h : Nat) (key : Nat) : Statement (.handoverScrub h key) := nofun
theorem handoverLoad (h : Nat) (key : Nat) : Statement (.handoverLoad h key) := nofun
theorem storeHandover (h : Nat) (group : Nat) : Statement (.storeHandover h group) := nofun
theorem pageClear (h : Nat) : Statement (.pageClear h) := nofun
theorem receiptWrite (n : Nat) : Statement (.receiptWrite n) := nofun
theorem gangTick (h : Nat) : Statement (.gangTick h) := nofun
theorem gangDeadline (h : Nat) : Statement (.gangDeadline h) := nofun
theorem uncorrectableError (booth : Nat) (block : Option Nat) : Statement (.uncorrectableError booth block) := nofun
theorem unitLoss (n : Nat) (u : LostUnit) : Statement (.unitLoss n u) := nofun
theorem hangDetect (booth : Nat) : Statement (.hangDetect booth) := nofun
theorem boothReset (booth : Nat) : Statement (.boothReset booth) := nofun
theorem replay (booth : Nat) : Statement (.replay booth) := nofun
theorem replayFenceMark (pkg : Nat) (seq : Nat) : Statement (.replayFenceMark pkg seq) := nofun
theorem resize (pkg : Nat) (booth : Nat) : Statement (.resize pkg booth) := nofun
theorem switchForward (que : Nat) (chan : Nat) (k : Nat) : Statement (.switchForward que chan k) := nofun
theorem combinedReplySplit (n : Nat) : Statement (.combinedReplySplit n) := nofun
theorem abortTail (n : Nat) : Statement (.abortTail n) := nofun
theorem laneFailure (pkg : Nat) (port : Nat) (lane : Nat) : Statement (.laneFailure pkg port lane) := nofun
theorem linkRetrainDone (pkg : Nat) (port : Nat) : Statement (.linkRetrainDone pkg port) := nofun
theorem drainReport (sw : Nat) (entry : Nat) : Statement (.drainReport sw entry) := nofun
theorem linkTrained (pkg : Nat) (port : Nat) (x : Learnt) : Statement (.linkTrained pkg port x) := nofun
theorem tailWrite (pkg : Nat) (booth : Nat) (entries : List (Nat × List Word)) (tail : Word) : Statement (.tailWrite pkg booth entries tail) := nofun
theorem hostLaunch (pkg : Nat) (window : Nat) : Statement (.hostLaunch pkg window) := nofun
theorem hostFence (pkg : Nat) (window : Nat) : Statement (.hostFence pkg window) := nofun
theorem handover (pkg : Nat) (window : Nat) : Statement (.handover pkg window) := nofun
theorem teardown (pkg : Nat) (window : Nat) : Statement (.teardown pkg window) := nofun
theorem watch (pkg : Nat) (window : Nat) : Statement (.watch pkg window) := nofun
theorem owner (pkg : Nat) (window : Nat) : Statement (.owner pkg window) := nofun
theorem limits (pkg : Nat) (window : Nat) : Statement (.limits pkg window) := nofun
theorem trapvec (pkg : Nat) (window : Nat) : Statement (.trapvec pkg window) := nofun
theorem region (pkg : Nat) (window : Nat) : Statement (.region pkg window) := nofun
theorem map (pkg : Nat) (window : Nat) : Statement (.map pkg window) := nofun
theorem logring (pkg : Nat) (window : Nat) : Statement (.logring pkg window) := nofun
theorem gang (pkg : Nat) (window : Nat) : Statement (.gang pkg window) := nofun
theorem hostAccess (adapter : Nat) (booth : Nat) (pkg : Nat) (va : BitVec 48) (s : Size) (store : Option Word) : Statement (.hostAccess adapter booth pkg va s store) := nofun
theorem interruptDelivery (n : Nat) : Statement (.interruptDelivery n) := nofun
theorem powerUp (pkg : Nat) (bootid : Word) : Statement (.powerUp pkg bootid) := nofun
theorem powerDown (pkg : Nat) : Statement (.powerDown pkg) := nofun
theorem bootRequestRetry (pkg : Nat) : Statement (.bootRequestRetry pkg) := nofun
theorem imageReceived (pkg : Nat) (header : List Byte) (body : List Byte) : Statement (.imageReceived pkg header body) := nofun
theorem svnRaise (pkg : Nat) (svn : Half) : Statement (.svnRaise pkg svn) := nofun
theorem getVersion (pkg : Nat) : Statement (.getVersion pkg) := nofun
theorem getCapabilities (pkg : Nat) : Statement (.getCapabilities pkg) := nofun
theorem negotiateAlgorithms (x : AlgRequest) : Statement (.negotiateAlgorithms x) := nofun
theorem getDigests (pkg : Nat) : Statement (.getDigests pkg) := nofun
theorem getCertificate (pkg : Nat) (slot : Nat) : Statement (.getCertificate pkg slot) := nofun
theorem challenge (pkg : Nat) (slot : Nat) (nonce : Nat) : Statement (.challenge pkg slot nonce) := nofun
theorem getMeasurements (pkg : Nat) (nonce : Nat) : Statement (.getMeasurements pkg nonce) := nofun
theorem keyExchange (pkg : Nat) (peer : Nat) : Statement (.keyExchange pkg peer) := nofun
theorem finish (pkg : Nat) (verify : Nat) : Statement (.finish pkg verify) := nofun
theorem endSession (pkg : Nat) : Statement (.endSession pkg) := nofun
theorem vendorDefinedRequest (pkg : Nat) (home : Nat) (booth : Nat) (lo : Nat) (hi : Nat) : Statement (.vendorDefinedRequest pkg home booth lo hi) := nofun
theorem keyLoad (pkg : Nat) (slot : Nat) (tenant : Nat) (key : Nat) : Statement (.keyLoad pkg slot tenant key) := nofun
theorem keyErase (pkg : Nat) (slot : Nat) : Statement (.keyErase pkg slot) := nofun
theorem thermalTrip (pkg : Nat) : Statement (.thermalTrip pkg) := nofun
theorem flitArrivesInError (pkg : Nat) (port : Nat) : Statement (.flitArrivesInError pkg port) := nofun

end Words
end Sys2Proof.Laws
end

