-- ==== Sys2Proof/Machine/Assembly.lean ====
section
/-! DEFINITION. The assembly language Linush (R46 to R61): suffix slots, the full and the tight form of an instruction, source lines
with their expressions and directives, and the bytes that a source assembles to. No step of the machine uses this file. -/

namespace Sys2Proof.Asm
open Bits

/-! ### Letters and numerals -/

def lowerChar (c : Char) : Char := if 65 ≤ c.toNat ∧ c.toNat ≤ 90 then Char.ofNat (c.toNat + 32) else c
def lower (s : String) : String := String.ofList (s.toList.map lowerChar)
/-- A hexadecimal digit, upper case (R59 step 4). -/
def hexDigit (n : Nat) : Char := if n < 10 then Char.ofNat (48 + n) else Char.ofNat (55 + n)
/-- The decimal digits of a number in front of others; 20 at most. -/
def decDigits : Nat → Nat → List Char → List Char
  | 0, _, l => l
  | f + 1, n, l => if n < 10 then hexDigit n :: l else decDigits f (n / 10) (hexDigit (n % 10) :: l)
def natText (n : Nat) : String := String.ofList (decDigits 20 n [])
def cutChars (sep : Char) (l : List Char) : List (List Char) :=
  l.foldr (fun (c : Char) (acc : List (List Char)) => if c = sep then [] :: acc else (c :: acc.headD []) :: acc.tail) [[]]
/-- A string cut at a character. -/
def cut (sep : Char) (s : String) : List String := (cutChars sep s.toList).map String.ofList
def joinWith (sep : String) : List String → String
  | [] => ""
  | [x] => x
  | x :: xs => x ++ sep ++ joinWith sep xs

/-! ### Suffix slots (R51, R52) -/

inductive SlotKind where | type | extension | travel | mode | rounding | saturation
  deriving DecidableEq, Repr

/-- A slot: its spellings by choice, and the choice that it holds where no suffix is written. The saturation slot's first
choice, off, has no spelling. -/
structure Slot where
  kind : SlotKind
  spellings : List String
  dflt : Option Nat
  deriving DecidableEq, Repr

def Slot.spelling (s : Slot) (k : Nat) : String := (s.spellings[k]?).getD ""
def Slot.accepts (s : Slot) (x : String) : Option Nat := s.spellings.findIdx? (fun y => y == x && y != "")

/-- R52: suffixes go to slots from left to right, each to the first slot after the last one filled that accepts it; a slot
without a suffix holds its default. -/
def assign : List Slot → List String → Option (List Nat)
  | [], [] => some []
  | [], _ :: _ => none
  | s :: ss, [] => s.dflt.bind (fun d => (assign ss []).map (d :: ·))
  | s :: ss, x :: xs =>
    match s.accepts x with
    | some k => (assign ss xs).map (k :: ·)
    | none => s.dflt.bind (fun d => (assign ss (x :: xs)).map (d :: ·))

/-- R60 step 1: from the right, a default is dropped unless a later suffix would then fall into its slot. -/
def tightSuffixes : List Slot → List Nat → List String
  | s :: ss, k :: ks =>
    let rest := tightSuffixes ss ks
    if s.spelling k = "" || (s.dflt = some k && assign (s :: ss) rest = some (k :: ks)) then rest else s.spelling k :: rest
  | _, _ => []

/-- R59 step 1. -/
def fullSuffixes : List Slot → List Nat → List String
  | s :: ss, k :: ks => if s.spelling k = "" then fullSuffixes ss ks else s.spelling k :: fullSuffixes ss ks
  | _, _ => []

def sType (l : List String) (d : Nat) : Slot := ⟨.type, l, some d⟩
def sFree (k : SlotKind) (l : List String) : Slot := ⟨k, l, none⟩
def sSize : Slot := sType ["b64", "b32", "b16", "b8"] 0
def sWord : Slot := sType ["b64"] 0
def sTravel : Slot := ⟨.travel, ["o", "s"], some 0⟩
def sFloat : Slot := sType ["f32"] 0
def sRound : Slot := ⟨.rounding, ["rne", "rz", "rd", "ru", "rs"], some 0⟩
def sSat : Slot := ⟨.saturation, ["", "sat"], some 0⟩
def cvtTypes : List String := ["f32", "f16", "bf16", "l6", "a36", "s32", "s64", "z32", "z64"]
def copyCmds : List String := ["copy", "gather", "scatter", "fill", "fetcha", "publish", "reduce", "abar", "arm"]
def netCmds : List String := ["epopen", "wsend", "wwrite", "wread", "ctrset", "ctrwait"]

/-! ### Mnemonics by shape -/

def itys : List ITy := [.s64, .s32, .z64, .z32]
def sizes : List Size := [.b64, .b32, .b16, .b8]
def travels : List Cls := [.ord, .spray]
def rnds : List Rnd := [.rne, .rz, .rd, .ru, .rs]
def ctys : List CTy := [.f32, .f16, .bf16, .l6, .a36, .s32, .s64, .z32, .z64]
def amoOps : List AmoOp := [.add, .and, .or, .xor, .min, .max, .minz, .maxz, .swap, .fadd]
def scopes : List Scope := [.core, .cluster, .die, .package, .fabric]
def scopeNames : List String := ["core", "cluster", "die", "package", "fabric"]
def links : List Link := [.n, .e, .s, .w]
def linkNames : List String := ["ln", "le", "ls", "lw"]
def portNames : List String := ["cpin", "cpout", "nwin", "nwout"]
def idx [DecidableEq α] (l : List α) (x : α) : Nat := l.findIdx (· == x)

/-- The control registers' names and numbers (R104). -/
def csrNames : List (String × Nat) := [("STAT", 0), ("TVEC", 1), ("EPC", 2), ("CAUSE", 3), ("TVAL", 4), ("SCRATCH", 5), ("IT", 0x10),
  ("AGE", 0x11), ("TBM", 0x12), ("TID", 0x13), ("FDA", 0x18), ("FDB", 0x19), ("FDC", 0x1A), ("XLIST", 0x20), ("NBV", 0x21),
  ("FERETRY", 0x30), ("FEWAIT", 0x31), ("AGEWAIT", 0x32), ("SNDLIM", 0x33), ("MTHR", 0x40), ("MXC0", 0x41), ("MXC1", 0x42),
  ("MXC2", 0x43), ("MXC3", 0x44), ("CRCNT", 0x50), ("CRTERM", 0x51), ("cpin", 0x60), ("cpout", 0x61), ("nwin", 0x62), ("nwout", 0x63)]

def ops0 : List (String × Instr) := [("nop", .nop), ("ecall", .ecall), ("brk", .brk), ("tret", .tret), ("ifence", .ifence),
  ("itinc", .itinc), ("done", .done), ("yield", .yield), ("vfence", .vfence), ("ssync", .ssync)]
/-- One source register. -/
def opsA : List (String × (GReg → Instr)) := [("jr", .jr), ("callr", .callr), ("itset", .itset), ("mig", .mig), ("migc", .migc),
  ("tinv", .tinv), ("resid", .resid), ("malias", .malias)]
def opsAB : List (String × (GReg → GReg → Instr)) := [("tset", .tset), ("spawn", .spawn), ("post", .post), ("send", .send),
  ("mcfg", .mcfg), ("mstop", .mstop)]
def opsDA : List (String × (GReg → GReg → Instr)) := [("tlook", .tlook), ("tage", .tage), ("launch", .launch)]
def opsDAB : List (String × (GReg → GReg → GReg → Instr)) := [("pub", .pub), ("chset", .chset), ("chclr", .chclr), ("mnorm", .mnorm),
  ("cadd", .cadd)]
def floatDA : List (String × (GReg → GReg → Instr)) := [("fcls", .fcls), ("frcp", .frcp), ("frsq", .frsq), ("fsqrt", .fsqrt),
  ("fex2", .fex2), ("flg2", .flg2), ("fsin", .fsin), ("fcos", .fcos), ("ftanh", .ftanh)]
def floatDAB : List (String × (GReg → GReg → GReg → Instr)) := [("fmin", .fmin), ("fmax", .fmax), ("feq", .feq), ("flt", .flt),
  ("fle", .fle), ("fdiv", .fdiv)]
def rounded : List (String × (GReg → GReg → GReg → Rnd → Bool → Fin 32 → Instr)) := [("fadd", .fadd), ("fsub", .fsub), ("fmul", .fmul)]
def intDA : List (String × (ITy → GReg → GReg → Instr)) := [("clz", .clz), ("ctz", .ctz), ("popc", .popc)]
def intDAB : List (String × (ITy → GReg → GReg → GReg → Instr)) := [("add", .add), ("sub", .sub), ("mul", .mul), ("mulh", .mulh),
  ("mulhz", .mulhz), ("div", .div), ("divz", .divz), ("rem", .rem), ("remz", .remz), ("and", .and), ("or", .or), ("xor", .xor),
  ("andn", .andn), ("shl", .shl), ("shr", .shr), ("sar", .sar), ("slt", .slt), ("sltz", .sltz), ("min", .min), ("max", .max),
  ("minz", .minz), ("maxz", .maxz)]
def immediates : List (String × (GReg → GReg → BitVec 17 → Instr)) := [("addi", .addi), ("andi", .andi), ("ori", .ori), ("xori", .xori),
  ("slti", .slti)]
def shifts : List (String × (GReg → GReg → Fin 64 → Instr)) := [("shli", .shli), ("shri", .shri), ("sari", .sari)]
def branches : List (String × (GReg → GReg → BitVec 17 → Instr)) := [("beq", .beq), ("bne", .bne), ("blt", .blt), ("bge", .bge),
  ("blo", .blo), ("bhs", .bhs)]
def maskBranches : List (String × (KReg → BitVec 17 → Instr)) := [("bkz", .bkz), ("bknz", .bknz)]
def jumps : List (String × (BitVec 21 → Instr)) := [("jmp", .jmp), ("call", .call)]
def syncs : List (String × (GReg → GReg → Cls → BitVec 12 → Instr)) := [("ldf", .ldf), ("ldff", .ldff), ("fetst", .fetst), ("stf", .stf),
  ("stfill", .stfill)]
def ageds : List (String × (GReg → GReg → AMode → Lag → BitVec 8 → Instr)) := [("lda", .lda), ("fetcha", .fetcha)]
def products : List (String × (Tile → GReg → GReg → Bool → BitVec 8 → Instr)) := [("mma", .mma), ("mrot", .mrot), ("msmp", .msmp)]
def vecGS : List (String × (VReg → VReg → VReg → GReg → GReg → Instr)) := [("vadd", .vadd), ("vsub", .vsub), ("vmul", .vmul),
  ("vfma", .vfma)]
def vecG : List (String × (VReg → VReg → VReg → GReg → Instr)) := [("vmin", .vmin), ("vmax", .vmax), ("vsel", .vsel), ("vperm", .vperm)]
def vec1 : List (String × (VReg → VReg → GReg → Instr)) := [("vred", .vred), ("vscan", .vscan)]
def masks : List (String × (KReg → KReg → KReg → Instr)) := [("kand", .kand), ("kor", .kor), ("kxor", .kxor)]
def rowOps : List (String × (VReg → GReg → GReg → Bool → KReg → Instr)) := [("vld", .vld), ("vst", .vst)]

def named (l : List (String × β)) (m : String) : Bool := l.any (fun e => e.1 == m)
def look (l : List (String × β)) (m : String) : Option β := (l.find? (fun e => e.1 == m)).map Prod.snd

/-- The suffix slots of a mnemonic, in canonical order (R51); none for an unknown one. -/
def slotsOf (m : String) : Option (List Slot) :=
  if named intDA m || named intDAB m || m == "sel" then some [sType ["s64", "s32", "z64", "z32"] 0]
  else if named immediates m || named shifts m then some [sType ["s64"] 0]
  else if named syncs m || m == "stemp" then some [sWord, sTravel]
  else if named ageds m then some [sWord, ⟨.mode, ["park", "trap"], some 0⟩]
  else if named rounded m || m == "ffma" then some [sFloat, sRound, sSat]
  else if named floatDA m || named floatDAB m then some [sFloat]
  else if named products m then some [sSat]
  else if named ops0 m || named opsA m || named opsAB m || named opsDA m || named opsDAB m || named branches m || named maskBranches m ||
      named jumps m || named vecGS m || named vecG m || named vec1 m || named masks m || named rowOps m ||
      ["csrr", "csrw", "csrs", "csrc", "fence", "pop", "ctrwait", "mzero", "mst", "mcnt", "mclr", "mcmp", "mlink", "mvar", "lrd",
        "lrf", "lwr", "sbind", "sfree", "bfi", "lui", "vcmp", "vcvt", "vbcast", "knot", "kset", "vget", "vput", "vbusy",
        "kpop"].contains m then some []
  else match m with
    | "ld" => some [sSize, ⟨.extension, ["s", "z"], some 0⟩, sTravel]
    | "st" => some [sSize, sTravel]
    | "amo" => some [sType ["b64", "b32"] 0, sTravel,
        sFree .mode ["add", "and", "or", "xor", "min", "max", "minz", "maxz", "swap", "fadd"]]
    | "cas" => some [sType ["b64", "b32"] 0, sTravel]
    | "push" => some [sFree .mode (copyCmds ++ netCmds)]
    | "crcfg" => some [⟨.mode, ["term", "set", "add"], some 0⟩]
    | "bfx" => some [⟨.extension, ["z", "s"], some 0⟩]
    | "fsgn" => some [sFloat, ⟨.mode, ["j", "jn", "jx"], some 0⟩]
    | "fcvt" => some [sFree .type cvtTypes, sFree .type cvtTypes, sRound, sSat]
    | "srnd" => some [sType ["f32", "f16", "bf16"] 2, sType ["f32", "a36"] 0, sSat]
    | _ => none

/-- How many trailing operands may be left out: those hold 0, g0 or fabric then (R165, R193, R220). -/
def optionals (m : String) : Nat :=
  if m == "push" || m == "fence" || named vecG m || named vec1 m || m == "vcmp" then 1
  else if named vecGS m || m == "vcvt" || m == "vbcast" then 2
  else 0

/-! ### Operands and the two forms (R49, R50, R59, R60) -/

/-- A general register as written: g0 to g15, or s0 to s3 for g8 to g11. -/
inductive Reg where
  | g (n : GReg)
  | s (n : Fin 4)
  deriving DecidableEq, Repr

def Reg.num : Reg → GReg
  | .g n => n
  | .s n => Fin.ofNat 16 (8 + n.val)

/-- An operand. A target holds the label that names it, if one does, and its distance in bytes from the bundle. -/
inductive Operand where
  | reg (r : Reg)
  | v (n : VReg)
  | k (n : KReg)
  | link (l : Link)
  | latch (b : Bool)
  | acc (t : Tile)
  | imm (i : Int)
  | mem (r : Reg) (o : Int)
  | target (l : Option String) (d : Int)
  | count (n : Nat)
  | scope (s : Scope)
  | csr (n : Nat)
  | port (n : Nat)
  deriving DecidableEq, Repr

/-- n as groups of four hexadecimal digits (R4, R59 step 4); 16 groups at most. -/
def hexGroups : Nat → Nat → String
  | 0, _ => ""
  | f + 1, n =>
    let digit (k : Nat) : Char := hexDigit (n / 16 ^ k % 16)
    let group := String.ofList [digit 3, digit 2, digit 1, digit 0]
    if n < 2 ^ 16 then group else hexGroups f (n / 2 ^ 16) ++ "_" ++ group

def hex (n : Nat) : String := "0x" ++ hexGroups 16 n
def signedHex (i : Int) : String := if i < 0 then "-" ++ hex i.natAbs else hex i.natAbs
def plusHex (i : Int) : String := if i < 0 then "-" ++ hex i.natAbs else "+" ++ hex i.natAbs
def dec (i : Int) : String := if i < 0 then "-" ++ natText i.natAbs else natText i.natAbs
def plusDec (i : Int) : String := if i < 0 then "-" ++ natText i.natAbs else "+" ++ natText i.natAbs

def Reg.name : Reg → String
  | .g n => "g" ++ natText n.val
  | .s n => "s" ++ natText n.val

/-- An operand in full form, or in tight form (R59 steps 3 to 6, R60 steps 3 and 4). DESIGN CHOICE, safe: a register name is written in
lower case, whatever letters the source has, since names are not case-sensitive (R47; log entry 55). -/
def Operand.text (tight : Bool) : Operand → String
  | .reg r => r.name
  | .v n => "v" ++ natText n.val
  | .k n => "k" ++ natText n.val
  | .link l => (linkNames[idx links l]?).getD ""
  | .latch b => if b then "opb" else "opa"
  | .acc t => "acc" ++ natText t.val
  | .imm i => if tight then dec i else signedHex i
  | .mem r o => "[" ++ r.name ++ (if tight then plusDec o else plusHex o) ++ "]"
  | .target (some l) _ => l
  | .target none d => "." ++ plusHex d
  | .count n => natText n
  | .scope s => (scopeNames[idx scopes s]?).getD ""
  | .csr n =>
    match csrNames.find? (fun e => e.2 == n) with
    | some e => e.1
    | none => "0x" ++ String.ofList ([n / 256 % 16, n / 16 % 16, n % 16].map hexDigit)
  | .port n => (portNames[n]?).getD ""

/-- An instruction as written: its mnemonic, the choice of each slot, and its operands with the optional ones. -/
structure Text where
  mnem : String
  slots : List Nat
  ops : List Operand
  deriving DecidableEq, Repr

def operandsText (l : List String) : String := if l.isEmpty then "" else " " ++ joinWith ", " l

def Operand.isDefault (o : Operand) : Bool := o == .reg (.g 0) || o == .count 0 || o == .scope .fabric

/-- Drops at most n defaults from the end of a reversed operand list (R60 step 2). -/
def dropOptionals : Nat → List Operand → List Operand
  | n + 1, o :: os => if o.isDefault then dropOptionals n os else o :: os
  | _, os => os

/-- R59, without the ` || -` of a lone word. -/
def Text.full (t : Text) : String :=
  t.mnem ++ joinWith "" ((fullSuffixes ((slotsOf t.mnem).getD []) t.slots).map ("." ++ ·)) ++ operandsText (t.ops.map (Operand.text false))

/-- R60; `vld` and `vst`, whose memory operand has no offset, write it without one (R197). -/
def Text.tight (t : Text) : String :=
  let ops := (dropOptionals (optionals t.mnem) t.ops.reverse).reverse
  let one (o : Operand) : String :=
    match o with
    | .mem r _ => if named rowOps t.mnem then "[" ++ r.name ++ "]" else o.text true
    | _ => o.text true
  t.mnem ++ joinWith "" ((tightSuffixes ((slotsOf t.mnem).getD []) t.slots).map ("." ++ ·)) ++ operandsText (ops.map one)

def rg (r : GReg) : Operand := .reg (.g r)
def strm (n : Fin 4) : Operand := .reg (.s n)
/-- A displacement in words as a distance in bytes (R68). -/
def away (b : BitVec n) : Operand := .target none (4 * b.toInt)
def at0 (a : GReg) : Operand := .mem (.g a) 0
def off (a : GReg) (o : BitVec n) : Operand := .mem (.g a) o.toInt
def lagOperand : Lag → Operand
  | .count n => .count n.val
  | .reg r => rg r
def intText (m : String) (t : ITy) (rs : List GReg) : Text := ⟨m, [idx itys t], rs.map rg⟩
def immText (m : String) (d a : GReg) (i : BitVec 17) : Text := ⟨m, [0], [rg d, rg a, .imm i.toInt]⟩
def shiftText (m : String) (d a : GReg) (i : Fin 64) : Text := ⟨m, [0], [rg d, rg a, .imm i.val]⟩
def regsText (m : String) (slots : List Nat) (rs : List GReg) : Text := ⟨m, slots, rs.map rg⟩
def syncText (m : String) (d a : GReg) (c : Cls) (o : BitVec 12) : Text := ⟨m, [0, idx travels c], [rg d, off a o]⟩
def agedText (m : String) (d a : GReg) (x : AMode) (g : Lag) (o : BitVec 8) : Text := ⟨m, [0, x.code], [rg d, off a o, lagOperand g]⟩
def roundedText (m : String) (rs : List GReg) (r : Rnd) (s : Bool) (n : Fin 32) : Text :=
  ⟨m, [0, idx rnds r, b2n s], rs.map rg ++ (if r = .rs then [.count (n.val + 1)] else [])⟩
def runText (m : String) (t : Tile) (a b : GReg) (s : Bool) (k : BitVec 8) : Text :=
  ⟨m, [b2n s], [.acc t, rg a, rg b, .count (k.toNat + 1)]⟩
def rowText (m : String) (v : VReg) (a b : GReg) (m1 : Bool) (k : KReg) : Text :=
  ⟨m, [], [.v v, at0 a, rg b] ++ (if m1 then [.k k] else [])⟩
def vecText (m : String) (vs : List VReg) (rs : List GReg) : Text := ⟨m, [], vs.map .v ++ rs.map rg⟩
def maskText (m : String) (ks : List KReg) : Text := ⟨m, [], ks.map .k⟩
/-- A push: its command's place among the spellings, its port, and function bits [8:0] as the option count (R220, R365). -/
def pushText (cmd port : Nat) (a b : GReg) (i : Instr) : Text :=
  ⟨"push", [cmd], [.port port, rg a, rg b, .count ((encode i).getD 0 % 2 ^ 9)]⟩

/-- The source text of an instruction; none for an event, and for `mzero` with ALL, for which the spec gives no notation. -/
def textOf (i : Instr) : Option Text :=
  match i with
  | .nop => some ⟨"nop", [], []⟩ | .ecall => some ⟨"ecall", [], []⟩ | .brk => some ⟨"brk", [], []⟩
  | .tret => some ⟨"tret", [], []⟩ | .ifence => some ⟨"ifence", [], []⟩
  | .csrr d c => some ⟨"csrr", [], [rg d, .csr c.toNat]⟩
  | .csrw c a => some ⟨"csrw", [], [.csr c.toNat, rg a]⟩
  | .csrs c a => some ⟨"csrs", [], [.csr c.toNat, rg a]⟩
  | .csrc c a => some ⟨"csrc", [], [.csr c.toNat, rg a]⟩
  | .jmp t => some ⟨"jmp", [], [away t]⟩ | .call t => some ⟨"call", [], [away t]⟩
  | .jr a => some (regsText "jr" [] [a]) | .callr a => some (regsText "callr" [] [a])
  | .beq a b t => some ⟨"beq", [], [rg a, rg b, away t]⟩ | .bne a b t => some ⟨"bne", [], [rg a, rg b, away t]⟩
  | .blt a b t => some ⟨"blt", [], [rg a, rg b, away t]⟩ | .bge a b t => some ⟨"bge", [], [rg a, rg b, away t]⟩
  | .blo a b t => some ⟨"blo", [], [rg a, rg b, away t]⟩ | .bhs a b t => some ⟨"bhs", [], [rg a, rg b, away t]⟩
  | .bkz k t => some ⟨"bkz", [], [.k k, away t]⟩ | .bknz k t => some ⟨"bknz", [], [.k k, away t]⟩
  | .ld d a s c e o => some ⟨"ld", [idx sizes s, if e = .sx then 0 else 1, idx travels c], [rg d, off a o]⟩
  | .st d a s c o => some ⟨"st", [idx sizes s, idx travels c], [rg d, off a o]⟩
  | .ldf d a c o => some (syncText "ldf" d a c o) | .ldff d a c o => some (syncText "ldff" d a c o)
  | .fetst d a c o => some (syncText "fetst" d a c o) | .stf d a c o => some (syncText "stf" d a c o)
  | .stfill d a c o => some (syncText "stfill" d a c o)
  | .stemp a c o => some ⟨"stemp", [0, idx travels c], [off a o]⟩
  | .lda d a m g o => some (agedText "lda" d a m g o) | .fetcha d a m g o => some (agedText "fetcha" d a m g o)
  | .pub d a b => some (regsText "pub" [] [d, a, b])
  | .itset a => some (regsText "itset" [] [a]) | .itinc => some ⟨"itinc", [], []⟩
  | .amo o d a b w c => some ⟨"amo", [if w then 0 else 1, idx travels c, idx amoOps o], [rg d, rg b, at0 a]⟩
  | .cas d a b w c => some ⟨"cas", [if w then 0 else 1, idx travels c], [rg d, rg b, at0 a]⟩
  | .fence s => some ⟨"fence", [], [.scope s]⟩
  | .mig a => some (regsText "mig" [] [a]) | .migc a => some (regsText "migc" [] [a])
  | .tlook d a => some (regsText "tlook" [] [d, a]) | .tset a b => some (regsText "tset" [] [a, b])
  | .tinv a => some (regsText "tinv" [] [a]) | .tage d a => some (regsText "tage" [] [d, a])
  | .pushCopy a b _ _ => some (pushText 0 0 a b i) | .pushGather a b _ _ _ => some (pushText 1 0 a b i)
  | .pushScatter a b _ _ _ => some (pushText 2 0 a b i) | .pushFill a b _ _ => some (pushText 3 0 a b i)
  | .pushFetcha a b _ _ => some (pushText 4 0 a b i) | .pushPublish a b _ _ => some (pushText 5 0 a b i)
  | .pushReduce a b _ _ _ => some (pushText 6 0 a b i) | .pushAbar a b _ _ => some (pushText 7 0 a b i)
  | .pushArm a b => some (pushText 8 0 a b i)
  | .pushEpopen a b _ => some (pushText 9 2 a b i) | .pushWsend a b _ => some (pushText 10 2 a b i)
  | .pushWwrite a b _ => some (pushText 11 2 a b i) | .pushWread a b _ => some (pushText 12 2 a b i)
  | .pushCtrset a b _ => some (pushText 13 2 a b i) | .pushCtrwait a b _ => some (pushText 14 2 a b i)
  | .pop d p => some ⟨"pop", [], [rg d, .port (if p = .copy then 1 else 3)]⟩
  | .ctrwait a p => some ⟨"ctrwait", [], [.port (if p = .copy then 1 else 3), rg a]⟩
  | .crcfg a => some (regsText "crcfg" [0] [a]) | .crcfgSet a => some (regsText "crcfg" [1] [a])
  | .crcfgAdd a => some (regsText "crcfg" [2] [a])
  | .spawn a b => some (regsText "spawn" [] [a, b]) | .post a b => some (regsText "post" [] [a, b])
  | .done => some ⟨"done", [], []⟩ | .yield => some ⟨"yield", [], []⟩
  | .send a b => some (regsText "send" [] [a, b])
  | .chset d a b => some (regsText "chset" [] [d, a, b]) | .chclr d a b => some (regsText "chclr" [] [d, a, b])
  | .resid a => some (regsText "resid" [] [a]) | .launch d a => some (regsText "launch" [] [d, a])
  | .mcfg a b => some (regsText "mcfg" [] [a, b])
  | .mzero t all => if all then none else some ⟨"mzero", [], [.acc t]⟩
  | .mma t a b s k => some (runText "mma" t a b s k)
  | .mst t a b => some ⟨"mst", [], [.acc t, rg a, rg b]⟩
  | .mcnt d t s => some ⟨"mcnt", [], [rg d, .acc t, .count s.val]⟩
  | .mclrTile t => some ⟨"mclr", [], [.acc t]⟩
  | .mclrLatch .opa => some ⟨"mclr", [], [.latch false]⟩ | .mclrLatch .opb => some ⟨"mclr", [], [.latch true]⟩
  | .mclrLatch (.lane l) => some ⟨"mclr", [], [.link l]⟩
  | .mcmp a b k => some ⟨"mcmp", [], [rg a, rg b, .count (k.toNat + 1)]⟩
  | .mlink d r => some ⟨"mlink", [], [rg d, .count (idx links r)]⟩
  | .mrot t a b s k => some (runText "mrot" t a b s k)
  | .mnorm d a b => some (regsText "mnorm" [] [d, a, b]) | .malias a => some (regsText "malias" [] [a])
  | .msmp t a b s k => some (runText "msmp" t a b s k)
  | .mvar d s => some ⟨"mvar", [], [rg d, .count s.val]⟩ | .mstop a b => some (regsText "mstop" [] [a, b])
  | .lrd d l => some ⟨"lrd", [], [rg d, .link l]⟩ | .lrf d l o => some ⟨"lrf", [], [rg d, .link l, .link o]⟩
  | .lwr o a => some ⟨"lwr", [], [.link o, rg a]⟩
  | .vld v a b m k => some (rowText "vld" v a b m k) | .vst v a b m k => some (rowText "vst" v a b m k)
  | .vfence => some ⟨"vfence", [], []⟩
  | .sbind s a b => some ⟨"sbind", [], [strm s, rg a, rg b]⟩ | .sfree s => some ⟨"sfree", [], [strm s]⟩
  | .ssync => some ⟨"ssync", [], []⟩
  | .add t d a b => some (intText "add" t [d, a, b]) | .sub t d a b => some (intText "sub" t [d, a, b])
  | .mul t d a b => some (intText "mul" t [d, a, b]) | .mulh t d a b => some (intText "mulh" t [d, a, b])
  | .mulhz t d a b => some (intText "mulhz" t [d, a, b]) | .div t d a b => some (intText "div" t [d, a, b])
  | .divz t d a b => some (intText "divz" t [d, a, b]) | .rem t d a b => some (intText "rem" t [d, a, b])
  | .remz t d a b => some (intText "remz" t [d, a, b]) | .and t d a b => some (intText "and" t [d, a, b])
  | .or t d a b => some (intText "or" t [d, a, b]) | .xor t d a b => some (intText "xor" t [d, a, b])
  | .andn t d a b => some (intText "andn" t [d, a, b]) | .shl t d a b => some (intText "shl" t [d, a, b])
  | .shr t d a b => some (intText "shr" t [d, a, b]) | .sar t d a b => some (intText "sar" t [d, a, b])
  | .slt t d a b => some (intText "slt" t [d, a, b]) | .sltz t d a b => some (intText "sltz" t [d, a, b])
  | .min t d a b => some (intText "min" t [d, a, b]) | .max t d a b => some (intText "max" t [d, a, b])
  | .minz t d a b => some (intText "minz" t [d, a, b]) | .maxz t d a b => some (intText "maxz" t [d, a, b])
  | .clz t d a => some (intText "clz" t [d, a]) | .ctz t d a => some (intText "ctz" t [d, a])
  | .popc t d a => some (intText "popc" t [d, a]) | .sel t d a b c => some (intText "sel" t [d, a, b, c])
  | .bfx d a e p n => some ⟨"bfx", [if e = .zx then 0 else 1], [rg d, rg a, .count p.val, .count (n.val + 1)]⟩
  | .bfi d a p n => some ⟨"bfi", [], [rg d, rg a, .count p.val, .count (n.val + 1)]⟩
  | .addi d a i => some (immText "addi" d a i) | .andi d a i => some (immText "andi" d a i)
  | .ori d a i => some (immText "ori" d a i) | .xori d a i => some (immText "xori" d a i)
  | .slti d a i => some (immText "slti" d a i)
  | .shli d a i => some (shiftText "shli" d a i) | .shri d a i => some (shiftText "shri" d a i)
  | .sari d a i => some (shiftText "sari" d a i)
  | .lui d i => some ⟨"lui", [], [rg d, .imm i.toInt]⟩
  | .fadd d a b r s n => some (roundedText "fadd" [d, a, b] r s n) | .fsub d a b r s n => some (roundedText "fsub" [d, a, b] r s n)
  | .fmul d a b r s n => some (roundedText "fmul" [d, a, b] r s n)
  | .fmin d a b => some (regsText "fmin" [0] [d, a, b]) | .fmax d a b => some (regsText "fmax" [0] [d, a, b])
  | .feq d a b => some (regsText "feq" [0] [d, a, b]) | .flt d a b => some (regsText "flt" [0] [d, a, b])
  | .fle d a b => some (regsText "fle" [0] [d, a, b]) | .fcls d a => some (regsText "fcls" [0] [d, a])
  | .fsgn d a b m => some (regsText "fsgn" [0, idx [.j, .jn, .jx] m] [d, a, b])
  | .ffma d a b c r s n => some (roundedText "ffma" [d, a, b, c] r s n)
  | .fcvt d a s t u r => some (regsText "fcvt" [idx ctys t, idx ctys u, idx rnds r, b2n s] [d, a])
  | .srnd d a b t u s n =>
    some ⟨"srnd", [idx [.f32, .f16, .bf16] t, idx [.f32, .a36] u, b2n s], [rg d, rg a, rg b, .count (n.val + 1)]⟩
  | .cadd d a b => some (regsText "cadd" [] [d, a, b])
  | .frcp d a => some (regsText "frcp" [0] [d, a]) | .frsq d a => some (regsText "frsq" [0] [d, a])
  | .fsqrt d a => some (regsText "fsqrt" [0] [d, a]) | .fdiv d a b => some (regsText "fdiv" [0] [d, a, b])
  | .fex2 d a => some (regsText "fex2" [0] [d, a]) | .flg2 d a => some (regsText "flg2" [0] [d, a])
  | .fsin d a => some (regsText "fsin" [0] [d, a]) | .fcos d a => some (regsText "fcos" [0] [d, a])
  | .ftanh d a => some (regsText "ftanh" [0] [d, a])
  | .vadd d x y b a => some (vecText "vadd" [d, x, y] [b, a]) | .vsub d x y b a => some (vecText "vsub" [d, x, y] [b, a])
  | .vmul d x y b a => some (vecText "vmul" [d, x, y] [b, a]) | .vfma d x y b a => some (vecText "vfma" [d, x, y] [b, a])
  | .vmin d x y b => some (vecText "vmin" [d, x, y] [b]) | .vmax d x y b => some (vecText "vmax" [d, x, y] [b])
  | .vcmp d x y b => some ⟨"vcmp", [], [.k d, .v x, .v y, rg b]⟩ | .vsel d x y b => some (vecText "vsel" [d, x, y] [b])
  | .vred d x b => some (vecText "vred" [d, x] [b]) | .vscan d x b => some (vecText "vscan" [d, x] [b])
  | .vcvt d x b a => some (vecText "vcvt" [d, x] [b, a]) | .vperm d x y b => some (vecText "vperm" [d, x, y] [b])
  | .vbcast d b a => some (vecText "vbcast" [d] [b, a])
  | .kand d x y => some (maskText "kand" [d, x, y]) | .kor d x y => some (maskText "kor" [d, x, y])
  | .kxor d x y => some (maskText "kxor" [d, x, y]) | .knot d x => some (maskText "knot" [d, x])
  | .kset d a => some ⟨"kset", [], [.k d, rg a]⟩
  | .vget d v n => some ⟨"vget", [], [rg d, .v v, .count n.val]⟩ | .vput v a n => some ⟨"vput", [], [.v v, rg a, .count n.val]⟩
  | .vbusy d => some ⟨"vbusy", [], [rg d]⟩ | .kpop d k => some ⟨"kpop", [], [rg d, .k k]⟩
  | .remoteReply _ | .acknowledgement _ | .orderedCredit _ | .creditTimer _ | .fenceProbe _ | .fenceEcho _ | .postedRefusal _
  | .homeLoad _ | .homeStore _ | .homeAtomic _ | .homeSyncAccess _ | .feRetryLimit _ | .feWaitLimit _ | .homeAgedLoad _
  | .homeFetcha _ | .homePublish _ | .lagTimeout _ | .stopNotice _ | .migrationArrival _ | .slotFill _ | .walkComplete _
  | .sfuEnqueue _ | .sfuResult _ | .matrixRunStart _ | .matrixRunEnd _ | .matrixRunLimit _ | .operandUnitArrival _
  | .linkWordArrival _ | .copyCmdStart _ | .chunkCounted _ _ _ | .copyCmdComplete _ _ | .copyFetchaTimeout _ _
  | .crierPulse _ | .heldCmdEnter _ | .nwCmdStart _ | .nwPacketArrival _ | .nwAckArrival _ | .nwAckTimer _ _
  | .nwRtoExpiry _ _ _ | .nwReadResponse _ | .nwRefusal _ | .nwPortLoss _ _ | .channelMessageArrival _ | .sendStall _
  | .launchComplete _ | .deadlineExpiry _ | .preemptRequest _ _ | .preemptSwap _ | .spillComplete _ | .handoverSave _ _
  | .handoverScrub _ _ | .handoverLoad _ _ | .storeHandover _ _ | .pageClear _ | .receiptWrite _ | .gangTick _
  | .gangDeadline _ | .uncorrectableError _ _ | .unitLoss _ _ | .hangDetect _ | .boothReset _ | .replay _
  | .replayFenceMark _ _ | .resize _ _ | .switchForward _ _ _ | .combinedReplySplit _ | .abortTail _ | .laneFailure _ _ _
  | .linkRetrainDone _ _ | .drainReport _ _ | .linkTrained _ _ _ | .tailWrite _ _ _ _ | .hostLaunch _ _ | .hostFence _ _
  | .handover _ _ | .teardown _ _ | .watch _ _ | .owner _ _ | .limits _ _ | .trapvec _ _ | .region _ _ | .map _ _
  | .logring _ _ | .gang _ _ | .hostAccess _ _ _ _ _ _ | .interruptDelivery _ | .powerUp _ _ | .powerDown _
  | .bootRequestRetry _ | .imageReceived _ _ _ | .svnRaise _ _ | .getVersion _ | .getCapabilities _ | .negotiateAlgorithms _
  | .getDigests _ | .getCertificate _ _ | .challenge _ _ _ | .getMeasurements _ _ | .keyExchange _ _ | .finish _ _
  | .endSession _ | .vendorDefinedRequest _ _ _ _ _ | .keyLoad _ _ _ _ | .keyErase _ _ | .thermalTrip _
  | .flitArrivesInError _ _ => none

/-! ### Building an instruction from source (R48, R50, R53) -/

/-- An operand of a source line: a register, a memory operand, or an expression with its value, with its name where the whole
operand is one identifier, and whether it has the form of a target: a label, `.+e` or `.-e` (R50). -/
inductive Arg where
  | reg (o : Operand)
  | mem (r : Reg) (o : Int)
  | val (name : Option String) (v : Option Int) (goto : Bool)
  deriving DecidableEq, Repr

def Arg.g : Arg → Option GReg
  | .reg (.reg r) => some r.num
  | _ => none
def Arg.v : Arg → Option VReg
  | .reg (.v n) => some n
  | _ => none
def Arg.k : Arg → Option KReg
  | .reg (.k n) => some n
  | _ => none
def Arg.stream : Arg → Option (Fin 4)
  | .reg (.reg (.s n)) => some n
  | _ => none
def Arg.link : Arg → Option Link
  | .reg (.link l) => some l
  | _ => none
def Arg.acc : Arg → Option Tile
  | .reg (.acc t) => some t
  | _ => none
/-- A value within limits: a field never takes a truncated value (R48). -/
def Arg.int (lo hi : Int) : Arg → Option Int
  | .val _ (some v) _ => if lo ≤ v ∧ v ≤ hi then some v else none
  | _ => none
def Arg.count (lo hi : Nat) (a : Arg) : Option Nat := (a.int lo hi).map Int.toNat
def Arg.bits (n : Nat) (a : Arg) : Option (BitVec n) := (a.int (-(2 ^ (n - 1))) (2 ^ (n - 1) - 1)).map (BitVec.ofInt n)
/-- The displacement to a target from the bundle's address (R68); an operand in another form than a target's is an error (R50, R53). -/
def Arg.target (addr n : Nat) : Arg → Option (BitVec n)
  | .val l (some v) true => if (v - addr) % 4 = 0 then (Arg.val l (some ((v - addr) / 4)) true).bits n else none
  | _ => none
def Arg.memory (n : Nat) : Arg → Option (GReg × BitVec n)
  | .mem r o => ((Arg.val none (some o) false).bits n).map (fun b => (r.num, b))
  | _ => none
/-- A memory operand whose only offset is +0. -/
def Arg.plain : Arg → Option GReg
  | .mem r 0 => some r.num
  | _ => none
def Arg.lag (a : Arg) : Option Lag := (a.g.map Lag.reg) <|> ((a.count 0 15).map (fun n => Lag.count (Fin.ofNat 16 n)))
def Arg.name : Arg → String
  | .val (some l) _ _ => lower l
  | _ => ""
def Arg.csr (a : Arg) : Option (BitVec 12) :=
  match csrNames.find? (fun e => lower e.1 == a.name) with
  | some e => some (BitVec.ofNat 12 e.2)
  | none => (a.count 0 4095).map (BitVec.ofNat 12)
def Arg.scope (a : Arg) : Option Scope :=
  match scopeNames.findIdx? (· == a.name) with
  | some n => scopes[n]?
  | none => (a.count 0 4).bind (fun n => scopes[n]?)
def Arg.port (a : Arg) : Option Nat := portNames.findIdx? (· == a.name)
/-- The result port of an engine. -/
def Arg.outPort (a : Arg) : Option Port :=
  match a.port with
  | some 1 => some .copy
  | some 3 => some .net
  | _ => none
def fin64 (n : Nat) : Fin 64 := Fin.ofNat 64 n
def fin32 (n : Nat) : Fin 32 := Fin.ofNat 32 n

/-- The number of operands of a mnemonic with optional ones. -/
def arity (m : String) : Nat :=
  if named vecGS m then 5
  else if named vecG m || m == "vcmp" || m == "vcvt" || m == "push" then 4
  else if named vec1 m || m == "vbcast" then 3
  else if m == "fence" then 1
  else 0

/-- Optional operands that are left out hold their defaults (R165, R193, R220). -/
def complete (m : String) (as : List Arg) : List Arg :=
  let o : Arg := if m == "push" then .val none (some 0) false else if m == "fence" then .val none (some 4) false else .reg (.reg (.g 0))
  if as.length < arity m && arity m ≤ as.length + optionals m then as ++ List.replicate (arity m - as.length) o else as

/-- A rounded operation takes a count under `.rs`, and there only (R175). -/
def roundedOf (f : Rnd → Bool → Fin 32 → Instr) (cs : List Nat) (as : List Arg) : Option Instr := do
  let r ← rnds[cs.getD 1 0]?
  let s := cs.getD 2 0 == 1
  match r, as with
  | .rs, [n] => (n.count 1 32).map (fun n => f r s (fin32 (n - 1)))
  | .rs, _ => none
  | _, [] => some (f r s 0)
  | _, _ => none

/-- The instructions whose operands follow a common shape. -/
def buildShape (addr : Nat) (m : String) (cs : List Nat) (as : List Arg) : Option Instr :=
  let ty : Option ITy := itys[cs.getD 0 0]?
  match as with
  | [] => look ops0 m
  | [a] =>
    ((look opsA m).bind (fun f => a.g.map f)) <|>
    ((look jumps m).bind (fun f => (a.target addr 21).map f))
  | [a, b] =>
    ((look opsAB m).bind (fun f => do some (f (← a.g) (← b.g)))) <|>
    ((look opsDA m).bind (fun f => do some (f (← a.g) (← b.g)))) <|>
    ((look floatDA m).bind (fun f => do some (f (← a.g) (← b.g)))) <|>
    ((look intDA m).bind (fun f => do some (f (← ty) (← a.g) (← b.g)))) <|>
    ((look maskBranches m).bind (fun f => do some (f (← a.k) (← b.target addr 17)))) <|>
    ((look syncs m).bind (fun f => do
      let (r, o) ← b.memory 12
      some (f (← a.g) r (← travels[cs.getD 1 0]?) o)))
  | [a, b, c] =>
    ((look opsDAB m).bind (fun f => do some (f (← a.g) (← b.g) (← c.g)))) <|>
    ((look floatDAB m).bind (fun f => do some (f (← a.g) (← b.g) (← c.g)))) <|>
    ((look intDAB m).bind (fun f => do some (f (← ty) (← a.g) (← b.g) (← c.g)))) <|>
    ((look immediates m).bind (fun f => do some (f (← a.g) (← b.g) (← c.bits 17)))) <|>
    ((look shifts m).bind (fun f => do some (f (← a.g) (← b.g) (fin64 (← c.count 0 63))))) <|>
    ((look branches m).bind (fun f => do some (f (← a.g) (← b.g) (← c.target addr 17)))) <|>
    ((look ageds m).bind (fun f => do
      let (r, o) ← b.memory 8
      some (f (← a.g) r (if cs.getD 1 0 = 0 then .park else .trap) (← c.lag) o))) <|>
    ((look masks m).bind (fun f => do some (f (← a.k) (← b.k) (← c.k)))) <|>
    ((look vec1 m).bind (fun f => do some (f (← a.v) (← b.v) (← c.g)))) <|>
    ((look rowOps m).bind (fun f => do some (f (← a.v) (← b.plain) (← c.g) false 0))) <|>
    ((look rounded m).bind (fun f => do roundedOf (f (← a.g) (← b.g) (← c.g)) cs []))
  | [a, b, c, d] =>
    ((look products m).bind (fun f => do
      some (f (← a.acc) (← b.g) (← c.g) (cs.getD 0 0 == 1) (BitVec.ofNat 8 ((← d.count 1 256) - 1))))) <|>
    ((look vecG m).bind (fun f => do some (f (← a.v) (← b.v) (← c.v) (← d.g)))) <|>
    ((look rowOps m).bind (fun f => do some (f (← a.v) (← b.plain) (← c.g) true (← d.k)))) <|>
    ((look rounded m).bind (fun f => do roundedOf (f (← a.g) (← b.g) (← c.g)) cs [d]))
  | [a, b, c, d, e] => (look vecGS m).bind (fun f => do some (f (← a.v) (← b.v) (← c.v) (← d.g) (← e.g)))
  | _ => none

/-- The instructions of one mnemonic each. -/
def buildOther (m : String) (cs : List Nat) (as : List Arg) : Option Instr :=
  let ch (n : Nat) : Nat := cs.getD n 0
  match m, as with
  | "csrr", [d, c] => do some (.csrr (← d.g) (← c.csr))
  | "csrw", [c, a] => do some (.csrw (← c.csr) (← a.g))
  | "csrs", [c, a] => do some (.csrs (← c.csr) (← a.g))
  | "csrc", [c, a] => do some (.csrc (← c.csr) (← a.g))
  | "ld", [d, x] => do
    let (a, o) ← x.memory 12
    some (.ld (← d.g) a (← sizes[ch 0]?) (← travels[ch 2]?) (if ch 1 = 0 then .sx else .zx) o)
  | "st", [d, x] => do
    let (a, o) ← x.memory 12
    some (.st (← d.g) a (← sizes[ch 0]?) (← travels[ch 1]?) o)
  | "stemp", [x] => do
    let (a, o) ← x.memory 12
    some (.stemp a (← travels[ch 1]?) o)
  | "amo", [d, b, x] => do some (.amo (← amoOps[ch 2]?) (← d.g) (← x.plain) (← b.g) (ch 0 == 0) (← travels[ch 1]?))
  | "cas", [d, b, x] => do some (.cas (← d.g) (← x.plain) (← b.g) (ch 0 == 0) (← travels[ch 1]?))
  | "fence", [s] => do some (.fence (← s.scope))
  | "push", [p, a, b, o] => do
    let a ← a.g
    let b ← b.g
    let o ← o.count 0 511
    let word (port cmd : Nat) : Option Instr :=
      match decodeWord (encR 26 port a.val b.val (cmd * 2 ^ 9 + o)) with
      | .ok i => some i
      | .error _ => none
    match ← p.port with
    | 0 => if ch 0 < 9 then word 1 (ch 0) else none
    | 2 => if 9 ≤ ch 0 then word 2 (ch 0 - 9) else none
    | _ => none
  | "pop", [d, p] => do some (.pop (← d.g) (← p.outPort))
  | "ctrwait", [p, a] => do some (.ctrwait (← a.g) (← p.outPort))
  | "crcfg", [a] => do
    let a ← a.g
    some (if ch 0 = 0 then .crcfg a else if ch 0 = 1 then .crcfgSet a else .crcfgAdd a)
  | "mzero", [t] => do some (.mzero (← t.acc) false)
  | "mst", [t, a, b] => do some (.mst (← t.acc) (← a.g) (← b.g))
  | "mcnt", [d, t, s] => do some (.mcnt (← d.g) (← t.acc) (Fin.ofNat 4 (← s.count 0 3)))
  | "mclr", [.reg (.acc t)] => some (.mclrTile t)
  | "mclr", [.reg (.latch b)] => some (.mclrLatch (if b then .opb else .opa))
  | "mclr", [.reg (.link l)] => some (.mclrLatch (.lane l))
  | "mcmp", [a, b, k] => do some (.mcmp (← a.g) (← b.g) (BitVec.ofNat 8 ((← k.count 1 256) - 1)))
  | "mlink", [d, l] => do some (.mlink (← d.g) (← links[← l.count 0 3]?))
  | "mvar", [d, s] => do some (.mvar (← d.g) (Fin.ofNat 4 (← s.count 0 3)))
  | "lrd", [d, i] => do some (.lrd (← d.g) (← i.link))
  | "lrf", [d, i, o] => do some (.lrf (← d.g) (← i.link) (← o.link))
  | "lwr", [o, a] => do some (.lwr (← o.link) (← a.g))
  | "sbind", [s, a, b] => do some (.sbind (← s.stream) (← a.g) (← b.g))
  | "sfree", [s] => do some (.sfree (← s.stream))
  | "sel", [d, a, b, c] => do some (.sel (← itys[ch 0]?) (← d.g) (← a.g) (← b.g) (← c.g))
  | "bfx", [d, a, p, n] => do
    some (.bfx (← d.g) (← a.g) (if ch 0 = 0 then .zx else .sx) (fin64 (← p.count 0 63)) (fin64 ((← n.count 1 64) - 1)))
  | "bfi", [d, a, p, n] => do some (.bfi (← d.g) (← a.g) (fin64 (← p.count 0 63)) (fin64 ((← n.count 1 64) - 1)))
  | "lui", [d, i] => do some (.lui (← d.g) (← i.bits 21))
  | "fsgn", [d, a, b] => do some (.fsgn (← d.g) (← a.g) (← b.g) (← [SgnMode.j, .jn, .jx][ch 1]?))
  | "ffma", d :: a :: b :: c :: n => do roundedOf (.ffma (← d.g) (← a.g) (← b.g) (← c.g)) cs n
  | "fcvt", [d, a] => do some (.fcvt (← d.g) (← a.g) (ch 3 == 1) (← ctys[ch 0]?) (← ctys[ch 1]?) (← rnds[ch 2]?))
  | "srnd", [d, a, b, n] => do
    some (.srnd (← d.g) (← a.g) (← b.g) (← [SrndD.f32, .f16, .bf16][ch 0]?) (← [SrndS.f32, .a36][ch 1]?) (ch 2 == 1)
      (fin32 ((← n.count 1 32) - 1)))
  | "vcmp", [d, x, y, b] => do some (.vcmp (← d.k) (← x.v) (← y.v) (← b.g))
  | "vcvt", [d, x, b, a] => do some (.vcvt (← d.v) (← x.v) (← b.g) (← a.g))
  | "vbcast", [d, b, a] => do some (.vbcast (← d.v) (← b.g) (← a.g))
  | "knot", [d, x] => do some (.knot (← d.k) (← x.k))
  | "kset", [d, a] => do some (.kset (← d.k) (← a.g))
  | "vget", [d, v, n] => do some (.vget (← d.g) (← v.v) (Fin.ofNat 16 (← n.count 0 15)))
  | "vput", [v, a, n] => do some (.vput (← v.v) (← a.g) (Fin.ofNat 16 (← n.count 0 15)))
  | "vbusy", [d] => do some (.vbusy (← d.g))
  | "kpop", [d, k] => do some (.kpop (← d.g) (← k.k))
  | _, _ => none

/-- The instruction that a statement at an address names, if it has no error of R48 or R53 and its word is a valid one. -/
def build (addr : Nat) (m : String) (suffixes : List String) (as : List Arg) : Option Instr := do
  let cs ← assign (← slotsOf m) suffixes
  let xs := complete m as
  let i ← buildShape addr m cs xs <|> buildOther m cs xs
  if i.wf then some i else none

/-! ### Tokens and expressions (R47, R48) -/

inductive Tok where
  | id (s : String)
  | num (n : Nat)
  | sym (s : String)
  deriving DecidableEq, Repr

def idStart (c : Char) : Bool := c.isAlpha || c == '_'
def idChar (c : Char) : Bool := c.isAlphanum || c == '_' || c == '.'

def digitOf (c : Char) : Nat :=
  let n := c.toNat
  if 48 ≤ n ∧ n ≤ 57 then n - 48 else if 65 ≤ n ∧ n ≤ 70 then n - 55 else if 97 ≤ n ∧ n ≤ 102 then n - 87 else 16

/-- Digits to a base; underscores stand between digits only. -/
def digits (base : Nat) (l : List Char) : Option Nat :=
  let edges := match l.head?, l.getLast? with
    | some a, some b => a != '_' && b != '_'
    | _, _ => false
  if edges && l.all (fun c => c == '_' || digitOf c < base) then
    some ((l.filter (· != '_')).foldl (fun n c => n * base + digitOf c) 0)
  else none

/-- An integer: decimal, hexadecimal or binary, below 2^64. -/
def integer (l : List Char) : Option Nat :=
  let n := match l with
    | '0' :: 'x' :: ds => digits 16 ds
    | '0' :: 'b' :: ds => digits 2 ds
    | ds => digits 10 ds
  n.bind (fun v => if v < 2 ^ 64 then some v else none)

/-- The tokens of a statement; the fuel is its length. -/
def tokens : Nat → List Char → Option (List Tok)
  | _, [] => some []
  | 0, _ => none
  | f + 1, c :: cs =>
    let rest := c :: cs
    if c == ' ' || c == '\t' then tokens f cs
    else if idStart c then
      (tokens f (rest.dropWhile idChar)).map (Tok.id (String.ofList (rest.takeWhile idChar)) :: ·)
    else if c.isDigit then
      match integer (rest.takeWhile idChar), tokens f (rest.dropWhile idChar) with
      | some n, some ts => some (.num n :: ts)
      | _, _ => none
    else
      match c, cs with
      | '.', d :: _ =>
        if idStart d then (tokens f (cs.dropWhile idChar)).map (Tok.id (String.ofList ('.' :: cs.takeWhile idChar)) :: ·)
        else (tokens f cs).map (Tok.sym "." :: ·)
      | '<', '<' :: ds => (tokens f ds).map (Tok.sym "<<" :: ·)
      | '>', '>' :: ds => (tokens f ds).map (Tok.sym ">>" :: ·)
      | '|', '|' :: ds => (tokens f ds).map (Tok.sym "||" :: ·)
      | _, _ =>
        if ['+', '-', '*', '&', '|', '(', ')', '[', ']', ',', '.'].contains c then
          (tokens f cs).map (Tok.sym (String.ofList [c]) :: ·)
        else none

inductive Expr where
  | num (n : Nat)
  | sym (s : String)
  | here
  | neg (e : Expr)
  | bin (op : String) (x y : Expr)
  deriving DecidableEq, Repr

/-- The operators of each level, loosest first (R48). -/
def levelOps : List (List String) := [["|"], ["&"], ["<<", ">>"], ["+", "-"], ["*"]]

/-- An expression of a level and what follows it; `left` is what has been read of it. -/
def parseExpr : Nat → Nat → Option Expr → List Tok → Option (Expr × List Tok)
  | 0, _, _, _ => none
  | f + 1, level, left, ts =>
    match levelOps[level]?, left with
    | some ops, some x =>
      match ts with
      | .sym o :: rest =>
        if ops.contains o then
          (parseExpr f (level + 1) none rest).bind (fun (y, r) => parseExpr f level (some (.bin o x y)) r)
        else some (x, ts)
      | _ => some (x, ts)
    | some _, none => (parseExpr f (level + 1) none ts).bind (fun (x, r) => parseExpr f level (some x) r)
    | none, _ =>
      match ts with
      | .num n :: r => some (.num n, r)
      | .id s :: r => some (.sym s, r)
      | .sym "." :: r => some (.here, r)
      | .sym "-" :: r => (parseExpr f level none r).map (fun (x, r) => (.neg x, r))
      | .sym "(" :: r =>
        match parseExpr f 0 none r with
        | some (x, .sym ")" :: r) => some (x, r)
        | _ => none
      | _ => none

/-- The whole of a token list as one expression. -/
def exprOf (ts : List Tok) : Option Expr :=
  match parseExpr (16 * (ts.length + 1)) 0 none ts with
  | some (e, []) => some e
  | _ => none

/-- A value in 64-bit two's complement (R48). DESIGN CHOICE, safe: a shift count is read as unsigned, `<<` by 64 or more gives 0, and
`>>` by 63 or more gives the sign; R48 says nothing of such counts (log entry 55). -/
def Expr.eval (env : List (String × Word)) (here : Nat) : Expr → Option Word
  | .num n => some (BitVec.ofNat 64 n)
  | .sym s => (env.find? (fun e => e.1 == s)).map Prod.snd
  | .here => some (BitVec.ofNat 64 here)
  | .neg e => (e.eval env here).map (fun x => -x)
  | .bin o x y =>
    match x.eval env here, y.eval env here with
    | some a, some b =>
      match o with
      | "*" => some (a * b)
      | "+" => some (a + b)
      | "-" => some (a - b)
      | "<<" => some (if 64 ≤ b.toNat then 0 else a <<< b.toNat)
      | ">>" => some (a.sshiftRight (min b.toNat 63))
      | "&" => some (a &&& b)
      | "|" => some (a ||| b)
      | _ => none
    | _, _ => none

/-! ### Statements and lines (R46, R49, R50, R54, R58) -/

/-- The register that an identifier names (R49), in any case of letters. -/
def register (s : String) : Option Operand :=
  let n (p : String) (k : Nat) : Option Nat := (List.range k).find? (fun i => p ++ natText i == lower s)
  if lower s == "link" then some (.reg (.g 15))
  else if lower s == "stack" then some (.reg (.g 14))
  else if lower s == "opa" then some (.latch false)
  else if lower s == "opb" then some (.latch true)
  else ((n "g" 16).map (fun i => Operand.reg (.g (Fin.ofNat 16 i)))) <|> ((n "s" 4).map (fun i => Operand.reg (.s (Fin.ofNat 4 i)))) <|>
    ((n "v" 8).map (fun i => Operand.v (Fin.ofNat 8 i))) <|> ((n "k" 4).map (fun i => Operand.k (Fin.ofNat 4 i))) <|>
    ((n "acc" 4).map (fun i => Operand.acc (Fin.ofNat 4 i))) <|>
    ((linkNames.findIdx? (· == lower s)).bind (fun i => links[i]?)).map Operand.link

/-- An operand as written. -/
inductive Src where
  | reg (o : Operand)
  | mem (r : Reg) (neg : Bool) (e : Expr)
  | expr (e : Expr)
  /-- An expression that begins with `.+` or `.-`. -/
  | away (e : Expr)
  deriving DecidableEq, Repr

/-- A token list cut at a separator. -/
def splitAt (sep : Tok) (ts : List Tok) : List (List Tok) :=
  ts.foldr (fun (t : Tok) (acc : List (List Tok)) =>
    if t = sep then [] :: acc else (t :: acc.headD []) :: acc.tail) [[]]

/-- An operand's tokens. DESIGN CHOICE, safe: a target `.+e` or `.-e` is one expression by the precedence of R48, so that `.-8+4` is
`(.-8)+4`, while `[gA-e]` takes the whole of e away (log entry 55). -/
def operandOf (ts : List Tok) : Option Src :=
  match ts with
  | [.id s] => some (match register s with | some o => .reg o | none => .expr (.sym s))
  | .sym "[" :: .id s :: rest =>
    match register s, rest with
    | some (.reg r), [.sym "]"] => some (.mem r false (.num 0))
    | some (.reg r), .sym "+" :: more =>
      if more.getLast? = some (.sym "]") then (exprOf more.dropLast).map (.mem r false ·) else none
    | some (.reg r), .sym "-" :: more =>
      if more.getLast? = some (.sym "]") then (exprOf more.dropLast).map (.mem r true ·) else none
    | _, _ => none
  | .sym "." :: .sym "+" :: _ | .sym "." :: .sym "-" :: _ => (exprOf ts).map .away
  | _ => (exprOf ts).map .expr

/-- An instruction as written: mnemonic and suffixes in lower case, and operands. -/
structure SrcInstr where
  mnem : String
  suffixes : List String
  ops : List Src
  deriving DecidableEq, Repr

inductive Stmt where
  | code (c : SrcInstr) (a : Option SrcInstr)
  | org (e : Expr)
  | align (e : Expr)
  | data (width : Nat) (es : List Expr)
  | real (f : Exact.Fmt) (rs : List String)
  | zero (e : Expr)
  | fill (n w v : Expr)
  | equ (s : String) (e : Expr)
  | global (s : String)
  deriving DecidableEq, Repr

structure Line where
  label : Option String
  stmt : Option Stmt
  deriving DecidableEq, Repr

def instrOf (ts : List Tok) : Option SrcInstr :=
  match ts with
  | .id s :: rest =>
    let parts := cut '.' (lower s)
    if rest = [] then some ⟨parts.headD "", parts.tail, []⟩
    else ((splitAt (.sym ",") rest).mapM operandOf).map (fun os => ⟨parts.headD "", parts.tail, os⟩)
  | _ => none

/-- A name that a label or symbol may not have (R47). -/
def reserved (s : String) : Bool :=
  (register s).isSome || (slotsOf (lower s)).isSome || csrNames.any (fun e => lower e.1 == lower s) ||
    portNames.contains (lower s) || scopeNames.contains (lower s)

def symbolOk (s : String) : Bool :=
  match s.toList with
  | c :: cs => idStart c && cs.all idChar && !reserved s
  | [] => false

def trim (s : String) : String :=
  let blank (c : Char) : Bool := c == ' ' || c == '\t'
  String.ofList (((s.toList.dropWhile blank).reverse.dropWhile blank).reverse)

/-- A statement: a directive, a lone instruction or a pair (R54, R55, R58). -/
def stmtOf (s : String) : Option Stmt :=
  let word := lower (String.ofList (s.toList.takeWhile idChar))
  let rest := String.ofList (s.toList.dropWhile idChar)
  let reals (f : Exact.Fmt) : Option Stmt := some (.real f ((cut ',' rest).map trim))
  match word with
  | ".df16" => reals Exact.f16
  | ".dbf16" => reals Exact.bf16
  | ".df32" => reals Exact.f32
  | _ => do
    let ts ← tokens (rest.length + 1) rest.toList
    let args := splitAt (.sym ",") ts
    let exprs := args.mapM exprOf
    match word with
    | ".org" => do match ← exprs with | [e] => some (.org e) | _ => none
    | ".align" => do match ← exprs with | [e] => some (.align e) | _ => none
    | ".d8" => exprs.map (.data 1)
    | ".d16" => exprs.map (.data 2)
    | ".d32" => exprs.map (.data 4)
    | ".d64" => exprs.map (.data 8)
    | ".zero" => do match ← exprs with | [e] => some (.zero e) | _ => none
    | ".fill" => do match ← exprs with | [n, w, v] => some (.fill n w v) | _ => none
    | ".equ" =>
      match args with
      | [[.id n], e] => (exprOf e).map (.equ n)
      | _ => none
    | ".global" => match args with | [[.id n]] => some (.global n) | _ => none
    | _ => do
      let all ← tokens (s.length + 1) s.toList
      match splitAt (.sym "||") all with
      | [c] => (instrOf c).map (fun c => .code c none)
      | [c, [.sym "-"]] => (instrOf c).map (fun c => .code c none)
      | [c, a] => do some (.code (← instrOf c) (some (← instrOf a)))
      | _ => none

/-- The text of a line's statement, without label and comment (R46). -/
def stmtText (s : String) : String :=
  let body := trim (String.ofList (s.toList.takeWhile (· != ';')))
  match body.toList.dropWhile idChar with
  | ':' :: rest => trim (String.ofList rest)
  | _ => body

/-- One source line (R46): an identifier directly before a colon is its label, and a semicolon begins a comment. -/
def lineOf (s : String) : Option Line :=
  let body := trim (String.ofList (s.toList.takeWhile (· != ';')))
  let head := String.ofList (body.toList.takeWhile idChar)
  match body.toList.dropWhile idChar with
  | ':' :: rest =>
    if symbolOk head then
      let st := trim (String.ofList rest)
      if st == "" then some ⟨some head, none⟩ else (stmtOf st).map (fun x => ⟨some head, some x⟩)
    else none
  | _ => if body == "" then some ⟨none, none⟩ else (stmtOf body).map (fun x => ⟨none, some x⟩)

/-! ### Placing a source's items (R47, R55, R56, R58) -/

inductive Item where
  | code (c : SrcInstr) (a : Option SrcInstr)
  | data (width : Nat) (es : List Expr)
  | real (f : Exact.Fmt) (rs : List String)
  | fill (n w : Nat) (v : Expr)
  deriving DecidableEq, Repr

/-- A symbol of `.equ`, its expression, and the next free address at its definition. -/
structure Equ where
  name : String
  expr : Expr
  here : Nat
  deriving DecidableEq, Repr

/-- The values that symbols (newest first) have over the values of labels; one whose expression has no value is left out. -/
def resolve (labels : List (String × Word)) : List Equ → List (String × Word)
  | [] => []
  | q :: qs =>
    let env := resolve labels qs
    match q.expr.eval (env ++ labels) q.here with
    | some v => (q.name, v) :: env
    | none => env

/-- An item at its address, with the labels that take that address, the `.equ` symbols defined before it, and whether it is
padding. -/
structure Placed where
  addr : Nat
  labels : List String
  equs : List Equ
  pad : Bool
  item : Item
  deriving DecidableEq, Repr

/-- The state of the placement: the next free address, the address after the highest byte, whether padding is code now, the
labels placed and those waiting for an item, the symbols, the items in reverse, and the exported names. -/
structure Layout where
  next : Nat
  top : Nat
  code : Bool
  labels : List (String × Word)
  pending : List String
  equs : List Equ
  items : List Placed
  globals : List String
  deriving DecidableEq, Repr

def Layout.start : Layout := ⟨0, 0, true, [], [], [], [], []⟩
/-- The symbols and labels, each waiting label with the next free address if an item without padding follows. -/
def Layout.env (l : Layout) (waiting : Bool) : List (String × Word) :=
  let labels := (if waiting then l.pending.map (fun s => (s, BitVec.ofNat 64 l.next)) else []) ++ l.labels
  resolve labels l.equs ++ labels
def Layout.names (l : Layout) : List String := l.pending ++ l.equs.map Equ.name ++ l.labels.map Prod.fst
/-- The value of a directive's operand, over the labels that stand before it (`waiting` as above). DESIGN CHOICE, safe: a full stop in it stands for the next free address (R47 gives a full stop
a meaning in instructions only), and the value is read as unsigned, so that a negative one is a number near 2^64 (log entry 55). -/
def Layout.value (l : Layout) (waiting : Bool) (e : Expr) : Option Nat := (e.eval (l.env waiting) l.next).map BitVec.toNat
def nopStmt : SrcInstr := ⟨"nop", [], []⟩

/-- Places an item of a size at an address at or above the next free one; padding leaves the waiting labels waiting. DESIGN CHOICE,
safe: a data directive that emits no byte (`.zero 0`) counts as the last item and takes the waiting labels (log entry 55). -/
def Layout.put (l : Layout) (addr size : Nat) (pad code : Bool) (i : Item) : Layout :=
  let mine := if pad then [] else l.pending
  { l with
    next := addr + size
    top := if size = 0 then l.top else max l.top (addr + size)
    code := code
    labels := mine.map (fun s => (s, BitVec.ofNat 64 addr)) ++ l.labels
    pending := if pad then l.pending else []
    items := ⟨addr, mine, l.equs, pad, i⟩ :: l.items }

def Layout.zeros (l : Layout) (to4 : Nat) : Layout :=
  if to4 ≤ l.next then l else l.put l.next (to4 - l.next) true l.code (.fill (to4 - l.next) 1 (.num 0))

def up (n m : Nat) : Nat := (m + n - 1) / n * n

/-- Lone `nop` words up to an address. -/
def Layout.nops : Nat → Layout → Layout
  | 0, l => l
  | k + 1, l => (l.put l.next 4 true l.code (.code nopStmt none)).nops k

/-- A line of the source. DESIGN CHOICE, safe: where the next free address is no multiple of 4, a pair is preceded by zero bytes up to
one and then, if R56 asks for it, by the `nop`: R55 speaks of lone words only (log entry 55). -/
def Layout.line (l : Layout) (x : Line) : Option Layout := do
  let l ← match x.label with
    | none => some l
    | some s => if l.names.contains s then none else some { l with pending := l.pending ++ [s] }
  match x.stmt with
  | none => some l
  | some (.code c none) =>
    let l := l.zeros (up 4 l.next)
    some (l.put l.next 4 false true (.code c none))
  | some (.code c (some a)) =>
    let l := l.zeros (up 4 l.next)
    let l := l.nops (l.next % 8 / 4)
    some (l.put l.next 8 false true (.code c (some a)))
  | some (.org e) => do
    let n ← l.value false e
    if n < l.top then none else some { l with next := n }
  | some (.align e) => do
    let n ← l.value false e
    if n < 4 || 2 ^ 21 < n || 2 ^ Nat.log2 n ≠ n then none
    else if l.code then
      let l := l.zeros (up 4 l.next)
      some (l.nops ((up n l.next - l.next) / 4))
    else some (l.zeros (up n l.next))
  | some (.data w es) => some (l.put l.next (w * es.length) false false (.data w es))
  | some (.real f rs) => some (l.put l.next (f.width / 8 * rs.length) false false (.real f rs))
  | some (.zero e) => do
    let n ← l.value true e
    some (l.put l.next n false false (.fill n 1 (.num 0)))
  | some (.fill n w v) => do
    let n ← l.value true n
    let w ← l.value true w
    if [1, 2, 4, 8].contains w then some (l.put l.next (n * w) false false (.fill n w v)) else none
  | some (.equ s e) =>
    if !symbolOk s || l.names.contains s then none else some { l with equs := ⟨s, e, l.next⟩ :: l.equs }
  | some (.global s) => some { l with globals := l.globals ++ [s] }

/-- The layout of a source; labels that no item follows take the address after the last one, and every symbol has a value over the
labels of the whole source. -/
def layout (src : List String) : Option Layout := do
  let lines ← src.mapM lineOf
  let l ← lines.foldlM Layout.line Layout.start
  let m := { l with labels := l.pending.map (fun s => (s, BitVec.ofNat 64 l.next)) ++ l.labels, pending := [], items := l.items.reverse }
  if (resolve m.labels m.equs).length = m.equs.length then some m else none

/-! ### Bytes and listings -/

/-- An operand with its value. -/
def argOf (labels env : List (String × Word)) (addr : Nat) : Src → Option Arg
  | .reg o => some (.reg o)
  | .mem r neg e => (e.eval env addr).map (fun v => .mem r (if neg then -v.toInt else v.toInt))
  | .expr (.sym s) => some (.val (some s) (((Expr.sym s).eval env addr).map BitVec.toInt) (named labels s))
  | .expr e => (e.eval env addr).map (fun v => .val none (some v.toInt) false)
  | .away e => (e.eval env addr).map (fun v => .val none (some v.toInt) true)

def SrcInstr.build (labels env : List (String × Word)) (addr : Nat) (x : SrcInstr) : Option Instr := do
  Asm.build addr x.mnem x.suffixes (← x.ops.mapM (argOf labels env addr))

/-- The decimal real of a string as an exact value: digits with at most one point, and an exponent of ten. -/
def real (s : String) : Option Exact.Val :=
  let (neg, l) := match s.toList with
    | '-' :: r => (true, r)
    | r => (false, r)
  let isE (c : Char) : Bool := c == 'e' || c == 'E'
  let mant := l.takeWhile (fun c => !isE c)
  let ip := mant.takeWhile (· != '.')
  let fp := (mant.dropWhile (· != '.')).drop 1
  let ex : Option Int := match l.dropWhile (fun c => !isE c) with
    | [] => some 0
    | _ :: '-' :: ds => (digits 10 ds).map (fun n => -(n : Int))
    | _ :: '+' :: ds => (digits 10 ds).map (fun n => (n : Int))
    | _ :: ds => (digits 10 ds).map (fun n => (n : Int))
  let part (ds : List Char) : Option Nat := if ds.isEmpty then some 0 else digits 10 ds
  match part ip, part fp, if (ip ++ fp).isEmpty then none else ex with
  | some i, some m, some e =>
    let places := (fp.filter (· != '_')).length
    let m := i * 10 ^ places + m
    let k := e - places
    let num := Exact.Val.fin neg m 0
    some (if 0 ≤ k then Exact.mul num (.fin false (10 ^ k.toNat) 0) else Exact.div num (.fin false (10 ^ k.natAbs) 0))
  | _, _, _ => none

/-- A value that fits a width signed or unsigned (R58). -/
def fits (w : Nat) (v : Word) : Bool := -(2 ^ (8 * w - 1) : Int) ≤ v.toInt && (w = 8 || v.toInt < 2 ^ (8 * w))

/-- A pair: C-class before A-class, without a FRAMING trap of R64 (R54, R57). -/
def pairWords (c a : Instr) : Option (List Byte) := do
  let x ← encode c
  let y ← encode a
  if fld x 30 30 = 0 && fld y 30 30 = 1 && !c.clash a then some (wordBytes x ++ wordBytes y) else none

def Placed.bytes (labels : List (String × Word)) (p : Placed) : Option (List Byte) :=
  let env := resolve labels p.equs ++ labels
  match p.item with
  | .code c none => do
    let w ← encode (← c.build labels env p.addr)
    some (wordBytes (2 ^ 31 + w))
  | .code c (some a) => do pairWords (← c.build labels env p.addr) (← a.build labels env p.addr)
  | .data w es => do
    let vs ← es.mapM (fun e => e.eval env p.addr)
    if vs.all (fits w) then some (vs.flatMap (fun v => bytesOf w v.toNat)) else none
  | .real f rs => do
    let vs ← rs.mapM real
    if vs.any (Exact.exceeds f) then none
    else some (vs.flatMap (fun v => bytesOf (f.width / 8) (Exact.round f .rne false v)))
  | .fill n w v => do
    let x ← v.eval env p.addr
    if fits w x then some ((List.replicate n (bytesOf w x.toNat)).flatten) else none

/-- What a source assembles to: the items' bytes by address, and the exported symbols. -/
structure Image where
  parts : List (Nat × List Byte)
  symbols : List (String × Word)
  deriving DecidableEq, Repr

/-- The image of a source, or none where the assembler reports an error: then it writes nothing. -/
def assemble (src : List String) : Option Image := do
  let l ← layout src
  let parts ← l.items.mapM (fun p => (p.bytes l.labels).map (fun b => (p.addr, b)))
  let symbols ← l.globals.mapM (fun s => ((l.env false).find? (fun e => e.1 == s)))
  some ⟨parts, symbols⟩

/-- Register and label names as the source has them (R59 steps 3 and 6). -/
def asWritten (labels : List (String × Word)) (o : Operand) (x : Src) : Operand :=
  match o, x with
  | .reg _, .reg (.reg (.s n)) => .reg (.s n)
  | .mem _ v, .mem (.s n) _ _ => .mem (.s n) v
  | .target _ d, .expr (.sym s) => .target (if named labels s then some s else none) d
  | o, _ => o

/-- An instruction of a source in full or in tight form. -/
def SrcInstr.form (tight : Bool) (labels env : List (String × Word)) (addr : Nat) (x : SrcInstr) : Option String := do
  let t ← textOf (← x.build labels env addr)
  let t := { t with ops := (t.ops.zip x.ops).map (fun (e : Operand × Src) => asWritten labels e.1 e.2) ++ t.ops.drop x.ops.length }
  some (if tight then t.tight else t.full)

/-- A line of code in full or in tight form, without its labels (R59 step 7, R60 step 5). -/
def Placed.form (tight : Bool) (labels : List (String × Word)) (p : Placed) : Option String :=
  let env := resolve labels p.equs ++ labels
  match p.item with
  | .code c none => (c.form tight labels env p.addr).map (fun x => x ++ (if tight then "" else " || -"))
  | .code c (some a) => do some ((← c.form tight labels env p.addr) ++ " || " ++ (← a.form tight labels env p.addr))
  | _ => none

/-- What a converted source holds, in order: an item of code with the labels of its address, whether it stands there as padding
of R56; the text of a directive, with the labels of its data item. -/
inductive Part where
  | code (p : Placed) (pad : Bool)
  | text (addr : Nat) (labels : List String) (data : Bool) (s : String)
  deriving DecidableEq, Repr

def Item.isCode : Item → Bool
  | .code _ _ => true
  | _ => false

/-- The parts of a line that took the layout from l to m: the padding `nop` words before it (R59 step 7) and the line itself. -/
def partsOf (l m : Layout) (x : Line) (text : String) : List Part :=
  let new := (m.items.take (m.items.length - l.items.length)).reverse
  let nops := new.filter (fun p => p.pad && p.item.isCode)
  match x.stmt, new.filter (fun p => !p.pad) with
  | none, _ => []
  | some (.code _ _), own => nops.map (Part.code · true) ++ own.map (Part.code · false)
  | some _, own => nops.map (Part.code · false) ++ [.text ((own.head?.map Placed.addr).getD m.next) (own.flatMap Placed.labels) (!own.isEmpty) text]

/-- A lone `nop` that R56 would put in front of a pair again: it has no label and ends at the address of the pair that follows. -/
def Part.droppedBefore (p : Part) (next : Option Part) : Bool :=
  match p, next with
  | .code a pad, some (.code b _) =>
    pad || (a.item == .code nopStmt none && a.labels.isEmpty && a.addr % 8 = 4 && b.addr = a.addr + 4 &&
      (match b.item with | .code _ (some _) => true | _ => false))
  | _, _ => false

/-- Tight form drops the padding lines that R56 would insert again, and no others (R60 step 5). -/
def dropPadding : List Part → List Part
  | [] => []
  | p :: ps => if p.droppedBefore ps.head? then dropPadding ps else p :: dropPadding ps

/-- The lines of a part: a label of each line, the last one on the line of its item (R46, R59 step 8). -/
def Part.lines (tight : Bool) (labels : List (String × Word)) (p : Part) : Option (List (Nat × Bool × String)) := do
  let (addr, item, ls, s) ← match p with
    | .code q _ => (q.form tight labels).map (fun s => (q.addr, true, q.labels, s))
    | .text addr ls data s => some (addr, data, ls, s)
  let head := match ls.getLast? with
    | some x => x ++ ": "
    | none => ""
  some (ls.dropLast.map (fun x => (addr, item, x ++ ":")) ++ [(addr, item, head ++ s)])

/-- A source in full or in tight form, line by line, each line with its address and whether an item stands in it: code rewritten
(R59, R60), directives as they were written, comments dropped. Both forms assemble to the source's bytes (R61). -/
def convert (tight : Bool) (src : List String) : Option (List (Nat × Bool × String)) := do
  let final ← layout src
  let step (acc : Layout × List Part) (line : String) : Option (Layout × List Part) := do
    let x ← lineOf line
    let m ← acc.1.line x
    some (m, acc.2 ++ partsOf acc.1 m x (stmtText line))
  let (l, parts) ← src.foldlM step (Layout.start, [])
  let parts := if tight then dropPadding parts else parts
  let lines ← parts.mapM (Part.lines tight final.labels)
  some (lines.flatten ++ l.pending.map (fun x => (l.next, true, x ++ ":")))

/-- The lines of items and labels of a source with their addresses. -/
def listing (tight : Bool) (src : List String) : Option (List (Nat × String)) :=
  (convert tight src).map (fun ls => ls.filterMap (fun x => if x.2.1 then some (x.1, x.2.2) else none))

/-- A word of memory as the disassembler prints it: its instruction in full form, a lone word with ` || -` (R59). -/
def disassemble (w : Nat) : Option String :=
  match decodeWord w with
  | .ok i => (textOf i).map (fun t => t.full ++ (if fld w 31 31 = 1 then " || -" else ""))
  | .error _ => none

end Sys2Proof.Asm
end

