-- ==== Sys2Proof/Tests/Slice0.lean ====
section
/-! SUPPORT. The model's own tests: words of the spec's encodings, the checks of WellFormed, worked values of the spec, and for
every statement with hypotheses a state and operands that meet them. Expected values are the spec's. -/

namespace Sys2Proof.Tests
open Sys2Proof Sys2Proof.Machine Sys2Proof.Bits Sys2Proof.Tables

/-! ### Words of the encodings (04, and the encoding of each chapter) -/

theorem test_decode_scalar : ∀ p ∈ ([
    (0b1_100000_0101_0101_0110_0000000000000, .add .s64 5 5 6),
    (0b1_100000_0011_0100_0101_0100000100000, .sub .s32 3 4 5),
    (0b1_100000_0111_0001_0010_0000011000000, .divz .s64 7 1 2),
    (0b1_100000_0011_0100_0000_1101011000000, .clz .z32 3 4),
    (0b1_100000_0011_0100_0101_0001100100110, .sel .s64 3 4 5 6)] : List (Nat × Instr)),
    decodeTableWord 32 p.1 = some p.2 := by decide

theorem test_decode_field : ∀ p ∈ ([
    (0b1_100001_0011_0100_0001_0011100000111, .bfx 3 4 .sx 28 7),
    (0b1_100001_0011_0100_0000_0001000000011, .bfx 3 4 .zx 8 3),
    (0b1_100001_0011_0100_0000_1001000000011, .bfi 3 4 8 3)] : List (Nat × Instr)),
    decodeTableWord 32 p.1 = some p.2 := by decide

theorem test_decode_immediate : ∀ p ∈ ([
    (0b1_100010_0001_0001_00000000000010000, .addi 1 1 16),
    (0b0_100010_0100_0100_11111111111111111, .addi 4 4 (-1)),
    (0b1_101010_0011_010010001101000101011, .lui 3 0x91A2B)] : List (Nat × Instr)),
    decodeTableWord 32 p.1 = some p.2 := by decide

theorem test_decode_control : ∀ p ∈ ([
    (0b1_001001_0001_0000_11111111111111100, .bne 1 0 (-4)),
    (0b1_000111_0000_1111_0000_0000000000000, .jr 15),
    (0b1_000111_0000_0101_0000_0000000000001, .callr 5),
    (0b1_001100_0001_0010_00000000000000000, .blo 1 2 0),
    (0b1_001111_0001_0000_00000000000000000, .bknz 1 0),
    (0b0_000110_1111_000000000000000001110, .call 14)] : List (Nat × Instr)),
    decodeTableWord 32 p.1 = some p.2 := by decide

theorem test_decode_system : ∀ p ∈ ([
    (0b1_000000_0000_0000_0000_0000000000000, .nop),
    (0b1_000000_0000_0000_0000_0000000000001, .ecall),
    (0b1_000000_0000_0000_0000_0000000000010, .brk),
    (0b1_000000_0000_0000_0000_0000000000011, .tret),
    (0b1_000000_0000_0000_0000_0000000000100, .ifence),
    (0b1_000001_0110_0000_00000000000000010, .csrr 6 2),
    (0b1_000010_0000_0110_00000000000000010, .csrw 2 6),
    (0b1_000011_0000_0001_00000000000000101, .csrs 5 1),
    (0b1_000100_0000_0010_00000000000000000, .csrc 0 2)] : List (Nat × Instr)),
    decodeTableWord 32 p.1 = some p.2 := by decide

theorem test_decode_memory : ∀ p ∈ ([
    (0b1_010000_0011_0001_11_0_00_000000001000, .ld 3 1 .b64 .ord .sx 8),
    (0b1_010000_0101_0010_10_0_01_111111111100, .ld 5 2 .b32 .ord .zx (-4)),
    (0b1_010001_0111_0011_11_1_00_000000010000, .st 7 3 .b64 .spray 16),
    (0b1_010010_0100_0010_11_0_00_000000000000, .ldf 4 2 .ord 0),
    (0b1_010010_0100_0010_11_0_01_000000000000, .ldff 4 2 .ord 0),
    (0b1_010010_0110_0010_11_0_10_000000000000, .fetst 6 2 .ord 0),
    (0b1_010011_0101_0010_11_0_00_000000000000, .stf 5 2 .ord 0),
    (0b1_010011_0101_0010_11_0_01_000000000000, .stfill 5 2 .ord 0),
    (0b1_010011_0000_0010_11_0_10_000000000000, .stemp 2 .ord 0)] : List (Nat × Instr)),
    decodeTableWord 32 p.1 = some p.2 := by decide

theorem test_decode_aged : ∀ p ∈ ([
    (0b1_010100_0100_0010_11_0_00_000000000000, .lda 4 2 .park (.count 0) 0),
    (0b1_010100_0100_0010_11_0_11_100100000000, .lda 4 2 .trap (.reg 9) 0),
    (0b1_010101_0111_0011_11_0_00_001100000000, .fetcha 7 3 .park (.count 3) 0),
    (0b1_010110_0101_0011_0111_0000000000000, .pub 5 3 7),
    (0b1_010110_0000_0100_0000_0000000000001, .itset 4),
    (0b1_010110_0000_0000_0000_0000000000010, .itinc)] : List (Nat × Instr)),
    decodeTableWord 32 p.1 = some p.2 := by decide

theorem test_decode_atomic : ∀ p ∈ ([
    (0b1_010111_0011_0010_0101_0000010000000, .amo .add 3 2 5 true .ord),
    (0b1_010111_0000_0010_0101_0100100000000, .amo .fadd 0 2 5 false .ord),
    (0b1_010111_0011_0010_0101_1000010000000, .cas 3 2 5 true .ord),
    (0b1_011000_0000_0000_0000_0010000000000, .fence .fabric),
    (0b1_011000_0000_0000_0000_0001000000000, .fence .die),
    (0b1_011000_0000_0100_0000_0100000000000, .mig 4),
    (0b1_011000_0000_0100_0000_1000000000000, .migc 4)] : List (Nat × Instr)),
    decodeTableWord 32 p.1 = some p.2 := by decide

theorem test_decode_tag : ∀ p ∈ ([
    (0b1_011001_0011_0100_0000_0000000000000, .tlook 3 4),
    (0b1_011001_0000_0100_0101_0000000000001, .tset 4 5),
    (0b1_011001_0000_0100_0000_0000000000010, .tinv 4),
    (0b1_011001_0011_0100_0000_0000000000011, .tage 3 4)] : List (Nat × Instr)),
    decodeTableWord 32 p.1 = some p.2 := by decide

theorem test_decode_engine : ∀ p ∈ ([
    (0b1_011010_0001_0011_0100_0000000000000, .pushCopy 3 4 ⟨false, false, false⟩ ⟨false, 0⟩),
    (0b1_011010_0001_0011_0100_0000000101000, .pushCopy 3 4 ⟨false, false, false⟩ ⟨true, 2⟩),
    (0b1_011010_0001_0011_0100_0100000000000, .pushFetcha 3 4 ⟨false, false, false⟩ ⟨false, 0⟩),
    (0b1_011010_0001_0101_0110_0111000001000, .pushAbar 5 6 ⟨false, false, false⟩ 2),
    (0b1_011010_0001_0101_0110_1000000000000, .pushArm 5 6),
    (0b1_011011_0101_0000_0000_0001000000000, .pop 5 .copy),
    (0b1_011011_0000_0110_0000_0001001000000, .ctrwait 6 .copy),
    (0b1_011011_0000_0111_0000_0000010000000, .crcfg 7),
    (0b1_011011_0000_0111_0000_0000011000000, .crcfgSet 7),
    (0b1_011011_0000_0111_0000_0000100000000, .crcfgAdd 7)] : List (Nat × Instr)),
    decodeTableWord 32 p.1 = some p.2 := by decide

theorem test_decode_network : ∀ p ∈ ([
    (0b1_011010_0010_0101_0110_0000000000000, .pushEpopen 5 6 ⟨false, false, false, 0⟩),
    (0b1_011010_0010_0101_0110_0001000000000, .pushWsend 5 6 ⟨false, false, false, 0⟩),
    (0b1_011010_0010_0101_0110_0001100000000, .pushWsend 5 6 ⟨true, false, false, 0⟩),
    (0b1_011010_0010_0101_0110_0011000000000, .pushWread 5 6 ⟨false, false, false, 0⟩),
    (0b1_011010_0010_0101_0000_0101000000000, .pushCtrwait 5 0 ⟨false, false, false, 0⟩),
    (0b1_011011_0101_0000_0000_0010000000000, .pop 5 .net),
    (0b1_011011_0000_0110_0000_0010001000000, .ctrwait 6 .net)] : List (Nat × Instr)),
    decodeTableWord 32 p.1 = some p.2 := by decide

theorem test_decode_dispatch : ∀ p ∈ ([
    (0b1_011100_0000_0101_0110_0000000000000, .spawn 5 6),
    (0b1_011100_0000_0101_0110_0001000000000, .post 5 6),
    (0b1_011100_0000_0000_0000_0010000000000, .done),
    (0b1_011100_0000_0000_0000_0011000000000, .yield),
    (0b1_011100_0000_0101_0001_0100000000000, .send 5 1),
    (0b1_011100_0011_0101_0110_0101000000000, .chset 3 5 6),
    (0b1_011100_0011_0101_0110_0110000000000, .chclr 3 5 6),
    (0b1_011100_0000_0101_0000_0111000000000, .resid 5),
    (0b1_011100_0011_0101_0000_1000000000000, .launch 3 5)] : List (Nat × Instr)),
    decodeTableWord 32 p.1 = some p.2 := by decide

theorem test_decode_matrix : ∀ p ∈ ([
    (0b1_011101_0000_0100_0101_0000000000000, .mcfg 4 5),
    (0b1_011101_0000_0000_0000_0001000000000, .mzero 0 false),
    (0b1_011101_0000_0010_0011_0010000000001, .mma 0 2 3 false 1),
    (0b1_011101_0000_0110_0111_0011000000000, .mst 0 6 7),
    (0b1_011101_0011_0001_0000_0100000000000, .mcnt 3 1 0),
    (0b1_011101_0010_0000_0000_0101000000000, .mclrTile 2),
    (0b1_011101_0000_0010_0011_0110000111111, .mcmp 2 3 63),
    (0b1_011101_0011_0000_0000_0111000000001, .mlink 3 .e),
    (0b1_011101_0000_0010_0011_1000000000001, .mrot 0 2 3 false 1),
    (0b1_011101_0100_0010_0011_1001000000000, .mnorm 4 2 3),
    (0b1_011101_0000_0101_0000_1010000000000, .malias 5),
    (0b1_011101_0000_0010_0011_1011000111111, .msmp 0 2 3 false 63),
    (0b1_011101_0011_0000_0000_1100000000010, .mvar 3 2),
    (0b1_011101_0000_0110_0111_1101000000000, .mstop 6 7)] : List (Nat × Instr)),
    decodeTableWord 32 p.1 = some p.2 := by decide

theorem test_decode_link : ∀ p ∈ ([
    (0b1_011110_0011_0011_0000_0000000000000, .lrd 3 .w),
    (0b1_011110_0011_0011_0001_0100000000000, .lrf 3 .w .e),
    (0b1_011110_0001_0101_0000_1000000000000, .lwr .e 5)] : List (Nat × Instr)),
    decodeTableWord 32 p.1 = some p.2 := by decide

theorem test_decode_float : ∀ p ∈ ([
    (0b1_101011_0011_0100_0101_0000000000000, .fadd 3 4 5 .rne false 0),
    (0b1_101011_0011_0100_0101_0000100000111, .fadd 3 4 5 .rs false 7),
    (0b1_101011_0011_0100_0101_0010000100000, .fmul 3 4 5 .rne true 0),
    (0b1_101011_0011_0100_0100_1001000000010, .fsgn 3 4 4 .jx),
    (0b1_101100_0011_0100_0101_0000000000110, .ffma 3 4 5 6 .rne false 0),
    (0b1_101101_0011_0100_0000_0000100000000, .fcvt 3 4 false .bf16 .f32 .rne),
    (0b1_101101_0011_0100_0001_0010000000001, .fcvt 3 4 true .s32 .f32 .rz),
    (0b1_101101_0011_0100_0101_1000000000000, .cadd 3 4 5),
    (0b1_101110_0011_0100_0000_0010000000000, .fsqrt 3 4),
    (0b1_101110_0011_0100_0101_0011000000000, .fdiv 3 4 5)] : List (Nat × Instr)),
    decodeTableWord 32 p.1 = some p.2 := by decide

theorem test_decode_vector : ∀ p ∈ ([
    (0b1_101111_0000_0000_0000_0000001010011, .vadd 1 2 3 0 0),
    (0b1_101111_0000_0000_0111_0011100101110, .vfma 4 5 6 7 0),
    (0b1_101111_0000_0000_0000_1101000011011, .kand 1 2 3),
    (0b1_101111_0000_0101_0000_1101100100000, .kset 2 5),
    (0b1_011111_0000_0010_0011_0000010000000, .vld 1 2 3 false 0),
    (0b1_011111_0000_0000_0000_0100000000000, .vfence),
    (0b1_110000_0011_0010_0000_0000101000000, .vget 3 2 5),
    (0b1_110000_0001_0100_0000_0011111000000, .vput 1 4 15),
    (0b1_110000_0011_0000_0000_0100000000000, .vbusy 3),
    (0b1_110000_0011_0001_0000_0110000000000, .kpop 3 1)] : List (Nat × Instr)),
    decodeTableWord 32 p.1 = some p.2 := by decide

theorem test_decode_stream : ∀ p ∈ ([
    (0b1_011111_0000_0010_0011_0110100000000, .sbind 1 2 3),
    (0b1_011111_0000_0000_0000_1000100000000, .sfree 1),
    (0b1_011111_0000_0000_0000_1010000000000, .ssync)] : List (Nat × Instr)),
    decodeTableWord 32 p.1 = some p.2 := by decide

/-! ### Small states -/

/-- A register file from its nonzero registers. -/
def regsOf (l : List (Nat × Word)) : Vector Word 16 := Vector.ofFn (fun i : Fin 16 => getD l i.val 0)

/-- The thread of booth 1 in slot 0 of a core, with some registers, in task or supervisor mode. -/
def threadOf (cid : Nat) (l : List (Nat × Word)) (prv : Bool) : Thread :=
  { Thread.init 1 (cid * 16) with ctx := { Ctx.zero with g := regsOf l, prv := prv } }

/-- Thread 5 running in slot 0 of a core of booth 1, in the middle of a bundle at 0x1000. -/
def running (cid : Nat) (t : Thread) : State :=
  { State.reset with
    threads := [(5, t)]
    slots := [(cid * 16, { Slot.init with phase := .live, run := some 5 })]
    cores := [(cid, { Core.init with owners := Vector.replicate 4 (some 1) })]
    cur := cid * 16
    bun := { Bun.init with pc := 0x1000, cw := 0x80000000, g := t.ctx.g }
    nextUid := 6
    nextMid := 9 }

def edge0 : Nat := mkCid true 0 0 0 0

/-- What most words ask: the thread runs, its results are written at once, and no stream is bound. -/
def Ready (s : State) (t : Thread) : Prop := s.Runs 5 t ∧ s.Prompt ∧ (∀ r : GReg, s.Unbound r) ∧ t.Quiet

/-- A page of booth 1 at its home core, in both translation buffers of core 0. -/
def pageAt (home kind : Nat) (aged : Bool) : Page := ⟨0x10000, 0x10000, 0x40000000, home, kind, 0, 0, aged, false, false, true, true⟩
def withPage (s : State) (p : Page) : State :=
  { s with
    maps := [(1, [p])]
    cores := [(0, { s.core 0 with tlb := [(1, p)] })] }

/-- Core 0's own thread with addresses in registers: g1 in the window, g2 in the page, g3 misaligned, g4 unmapped. -/
def t0 : Thread := threadOf 0 [(1, BitVec.ofNat 64 winBase), (2, 0x10000), (3, 0x10001), (4, 0x900000), (5, 0x1FFF8), (6, 0xFFFFFFFFFFF8)] false
def s0 : State := running 0 t0
def sp : State := withPage s0 (pageAt 16 0 true)

theorem ready_s0 : Ready s0 t0 := ⟨⟨rfl, rfl, rfl, rfl⟩, rfl, by unfold State.Unbound; decide, ⟨rfl, rfl, rfl, rfl⟩⟩
theorem ready_sp : Ready sp t0 := ⟨⟨rfl, rfl, rfl, rfl⟩, rfl, by unfold State.Unbound; decide, ⟨rfl, rfl, rfl, rfl⟩⟩

/-! ### The checks of WellFormed -/

theorem test_wellFormed_refuses : ∀ i ∈ [Instr.bfx 1 2 .zx 60 10, .bfi 1 2 63 1, .fadd 1 2 3 .rne false 1, .fsub 1 2 3 .rz true 31,
    .fmul 1 2 3 .ru false 5, .ffma 1 2 3 4 .rd false 1, .fcvt 1 2 false .f32 .f32 .rne, .fcvt 1 2 false .s32 .z64 .rne,
    .fcvt 1 2 false .l6 .f32 .rz, .srnd 1 2 3 .f32 .f32 false 7, .amo .fadd 1 2 3 true .ord, .cas 0 2 3 true .ord, .vld 1 2 3 false 1,
    .vst 1 2 3 false 3, .pushReduce 1 2 ⟨false, false, false⟩ .xor .f32, .pushWsend 1 2 ⟨false, false, false, 1⟩, .mzero 1 true,
    .mcnt 1 1 2, .mcmp 1 2 30, .send 1 0, .send 1 13], i.wf = false := by decide

theorem test_wellFormed_allows : ∀ i ∈ [Instr.bfx 1 2 .zx 63 0, .bfi 1 2 0 63, .fadd 1 2 3 .rs false 31, .fcvt 1 2 true .l6 .f32 .rne,
    .srnd 1 2 3 .f32 .a36 false 0, .amo .fadd 1 2 3 false .ord, .cas 1 2 3 false .spray, .vld 1 2 3 true 3,
    .pushReduce 1 2 ⟨false, false, false⟩ .max .a36, .pushWsend 1 2 ⟨false, false, true, 15⟩, .mzero 0 true, .mcmp 1 2 255,
    .send 1 12], i.wf = true := by decide

/-! ### Words that do not decode (R74, R75) -/

theorem test_decode_refuses : ∀ w ∈ [0xE2000000, 0xFE000000, 0x80000005, 0x80200000, 0x82001000, 0x8A200000, 0x8E000002, 0x9D000000,
    0xA063A008, 0xA204A000, 0xAC080003, 0xAE04AA00, 0xB0000500, 0xB2000004, 0xB4009200, 0xB4668000, 0xB8001200, 0xBA001C00, 0xBC001800,
    0xBE001800, 0xC0000340, 0xD6001400, 0xDA001800, 0xDC001200, 0xDE001B40, 0xE0001000], decodeTableWord 32 w = none := by decide

/-! ### Worked values of the spec -/

/-- 07, the table of worked results: g4 = 0xFFFFFFFF80000000, g5 = -1, g6 = 33. -/
def tw : Thread := threadOf 0 [(4, 0xFFFFFFFF80000000), (5, -1), (6, 33)] false
def sw : State := running 0 tw
/-- The general register that a word leaves. -/
def leaves (s : State) (i : Instr) (r : GReg) : Option Word :=
  match exec i s with
  | .next t => (t.thread 5).map (fun x => x.ctx.g[r])
  | _ => none

theorem test_integer_results : ∀ p ∈ ([(.div .s32 3 4 5, 0xFFFFFFFF80000000), (.rem .s32 3 4 5, 0), (.divz .z32 3 4 5, 0),
    (.div .s64 3 4 0, -1), (.rem .s64 3 4 0, 0xFFFFFFFF80000000), (.add .z32 3 4 4, 0), (.sub .z32 3 0 5, 1), (.mulh .s64 3 5 5, 0),
    (.mulhz .s64 3 5 5, 0xFFFFFFFFFFFFFFFE), (.sar .s32 3 4 6, 0xFFFFFFFFC0000000), (.shr .z32 3 4 6, 0x40000000), (.clz .s32 3 4, 0),
    (.clz .s64 3 0, 64), (.ctz .s64 3 4, 31), (.popc .s64 3 4, 33), (.slt .s64 3 4 5, 1), (.sltz .s64 3 5 4, 0),
    (.bfx 3 4 .sx 28 7, -8), (.bfx 3 4 .zx 28 7, 0xF8), (.sari 3 4 63, -1)] : List (Instr × Word)), leaves sw p.1 3 = some p.2 := by decide

/-- 07: `lui g3, 596523` and `addi g3, g3, 30874` after it. -/
theorem test_lui : leaves s0 (.lui 3 0x91A2B) 3 = some 0x1234560000 := by decide

/-- 09 R178, R180, R181, 05 R96: a saturated conversion of infinity, a stochastic rounding, and the fifth step of the pair sum. -/
def tf : Thread := threadOf 0 [(4, 0x3F80C000), (5, 0x5A), (6, 0x3F803B803F803B80), (7, 0x3A8000003A800000), (8, 0x7F800000)] false
theorem test_fcvt : leaves (running 0 tf) (.fcvt 3 8 true .s32 .f32 .rz) 3 = some 0x7FFFFFFF := by decide
theorem test_srnd : leaves (running 0 tf) (.srnd 3 4 5 .bf16 .f32 false 7) 3 = some 0x3F81 := by decide
theorem test_cadd : leaves (running 0 tf) (.cadd 3 6 7) 3 = some 0x3F81BB403F81BB40 := by decide


/-! ### Witnesses: states and operands that meet the hypotheses of each statement -/

theorem witness_EncodedWordsDecode : (Instr.cas 15 15 15 true .spray).wf = true ∧
    encode (.cas 15 15 15 true .spray) = some (23 * 2 ^ 25 + 0x1FFE000 + 0x10C0) := by decide
theorem witness_DecodedWordsEncode : (0xFFFFFFFF : Nat) < 2 ^ 32 ∧ decodeWord 0x8BFFFFFF = .error .reservedField ∧
    decodeWord 0x8DFFFFFF = .ok (.call (-1)) := ⟨by decide, rfl, rfl⟩
theorem witness_IntegerWords : Ready s0 t0 ∧ (63 : Fin 64).val + (0 : Fin 64).val < 64 ∧ (0 : Fin 64).val + (63 : Fin 64).val < 64 ∧
    (let s := { s0 with bun := { s0.bun with hold := true } }
     s.Runs 5 t0 ∧ s.bun.hold = true ∧ ∀ r : GReg, s.Unbound r) :=
  ⟨ready_s0, by decide, by decide, ⟨rfl, rfl, rfl, rfl⟩, rfl, by unfold State.Unbound; decide⟩
theorem witness_UpperImmediates : Ready s0 t0 := ready_s0
theorem witness_ControlTransfers : Ready s0 t0 ∧ (s0.src 2).toNat % 4 = 0 ∧ (s0.src 3).toNat % 4 ≠ 0 ∧
    s0.bun.k[(0 : Fin 4)] = 0 := ⟨ready_s0, by decide⟩
theorem witness_JumpsAndCalls : Ready s0 t0 := ready_s0
/-- Supervisor mode; the greatest iteration; a deadline at cycle 5. -/
def tl : Thread := { threadOf 0 [] true with
  ctx := { Ctx.zero with it := -1, prv := true }
  job := { Job.none with deadline := some 5 } }
def slate : State := { running 0 tl with cycle := 5 }
theorem witness_NopReturnAndIterations : Ready s0 t0 ∧ t0.ctx.prv = false ∧ t0.ctx.it ≠ -1 ∧
    (∀ c, t0.job.deadline = some c → s0.cycle < c) ∧ slate.Runs 5 tl ∧ tl.ctx.prv = true ∧ tl.ctx.it = -1 ∧
    (∀ c, tl.job.deadline = some c → ({ slate with cycle := 4 } : State).cycle < c) ∧
    (∃ c, tl.job.deadline = some c ∧ c ≤ slate.cycle) :=
  ⟨ready_s0, rfl, by decide, (by intro c h; cases h), ⟨rfl, rfl, rfl, rfl⟩, rfl, rfl,
    (by intro c h; cases h; decide), 5, rfl, by decide⟩
theorem witness_IterationWords : Ready s0 t0 := ready_s0
theorem witness_ControlRegisters : Ready s0 t0 ∧ t0.ctx.prv = false ∧ slate.Runs 5 tl ∧ tl.ctx.prv = true ∧
    (∀ n ∈ [0x000, 0x001, 0x005, 0x020, 0x063], ∃ e ∈ s0.csrTable t0, (BitVec.ofNat 12 n).toNat = e.1) ∧
    (∀ e ∈ s0.csrTable t0, (0xFFF : BitVec 12).toNat ≠ e.1) ∧
    (∀ n ∈ [0x000, 0x001, 0x021, 0x033, 0x040], ∃ e ∈ csrRows, (BitVec.ofNat 12 n).toNat = e.num) ∧
    (∀ e ∈ csrRows, (0x020 : BitVec 12).toNat ≠ e.num) ∧
    (∃ e ∈ csrRows, e.num = 0x040 ∧ e.task = true ∧ s0.src 0 &&& ~~~e.fields = 0 ∧ s0.src 2 &&& ~~~e.fields ≠ 0) ∧
    (∃ e ∈ csrRows, e.num = 0x000 ∧ e.task = false) := by
  refine ⟨ready_s0, rfl, ⟨rfl, rfl, rfl, rfl⟩, rfl, by decide, by decide, ?_, ?_, ?_, ?_⟩
  · simp [csrRows]
  · simp [csrRows]
  · exact ⟨csrRows[12], by simp [csrRows], rfl, rfl, by decide, by decide⟩
  · exact ⟨csrRows[0], by simp [csrRows], rfl, rfl⟩
/-- A launch with thread 5 alive. -/
def launch : Launch := ⟨0, 1, 7, [⟨1, 0, 0, 0, 0⟩], 3, 0, false, 0, 0x2000, [], false, [], 1, 0x10000, 0, 0x10000, false, none, false, 1, 1, [], 1,
  0, 0, 0, none, none, 0, false, false, 77, []⟩
def tj : Thread := { t0 with job := ⟨some 3, 0, 3, none, 0, 0⟩ }
def sj : State := { running 0 tj with
  launches := [(3, launch)]
  regions := [(1, ⟨77, 15, 0, [0, 1]⟩)] }
def st : State := { s0 with booths := [(1, { BoothCore.init with tvec := 0x8000 })] }
theorem witness_TrapEntry : st.Runs 5 t0 ∧ t0.ctx.th = false ∧ (st.bc st.cid t0.booth).tvec ≠ 0 ∧ sj.Runs 5 tj ∧
    (sj.bc sj.cid tj.booth).tvec = 0 ∧ tj.job.launch = some 3 ∧ find sj.launches 3 = some launch :=
  ⟨⟨rfl, rfl, rfl, rfl⟩, by decide, by decide, ⟨rfl, rfl, rfl, rfl⟩, by decide, rfl, rfl⟩

/-- A message from core 16 to core 0 for thread 5, arrived. -/
def msg (b : Body) : Msg := 
  { mid := 9, src := 16, dst := 0, party := .core, pkg := 0, booth := 1, uid := 5, tid := 2 ^ 31 + 256, chan := 0, va := 0x10000
    ga := spad 0 0, d := 3, posted := false, ack := false, mark := false, done := 0, left := 0, que := 0, inp := 0, since := 0
    cut := false, body := b }
def withMsg (s : State) (m : Msg) : State := { s with net := [m] }
/-- A thread waits for the echoes of some cores, one of which has come from core 16. -/
def echoing (left : List Nat) (more : List Msg) : State :=
  { running 0 { t0 with wait := .fence 3 true left .complete } with net := msg .echo :: more }
theorem witness_Fences : Ready s0 t0 ∧ (running 0 { t0 with spray := [(1, 0, 8)] }).Runs 5 { t0 with spray := [(1, 0, 8)] } ∧
    (withMsg s0 (msg .probe)).arrived 0 = some (msg .probe) ∧
    ((echoing [16] [msg (.refusal 0x10000)]).arrived 0 = some (msg .echo) ∧
      ∃ x ∈ dropAt (echoing [16] [msg (.refusal 0x10000)]).net 0, x.uid = (msg .echo).uid ∧ x.party = .core ∧
        ∃ va, x.body = .refusal va) ∧
    (∀ left ∈ [[16], [16, 32]], ((echoing left []).arrived 0 = some (msg .echo) ∧
      (echoing left []).thread 5 = some { t0 with wait := .fence 3 true left .complete } ∧ t0.refusal = none ∧ 16 ∈ left) ∧
      t0.Plain ∧ ∀ x ∈ (echoing left []).net, x.uid = (msg .echo).uid → ∀ va, x.body ≠ .refusal va) := by
  refine ⟨ready_s0, ⟨rfl, rfl, rfl, rfl⟩, rfl, ⟨rfl, msg (.refusal 0x10000), by decide, rfl, rfl, _, rfl⟩, ?_⟩
  simp only [List.forall_mem_cons]
  exact ⟨⟨by decide, ⟨rfl, rfl⟩, by simp [echoing, msg]⟩, ⟨by decide, ⟨rfl, rfl⟩, by simp [echoing, msg]⟩, nofun⟩
theorem witness_Migrations : Ready s0 t0 ∧ winBase ≤ (s0.src 1).toNat % 2 ^ 48 ∧
    (withPage s0 (pageAt 0 0 true)).Far accLoad 0x10000 (pageAt 0 0 true) ∧
    (let s := { running 0 (threadOf 0 [(1, BitVec.ofNat 64 16)] false) with regions := [(1, ⟨77, 15, 0, [0, 1]⟩)] }
     s.src 1 = BitVec.ofNat 64 (1 * 16) ∧ isCore 1 = true ∧ 1 ≠ s.cid ∧ s.inRegion 1 1 = true ∧ s.inRegion 1 2 = false) ∧
    s0.src 0 = BitVec.ofNat 64 (s0.cid * 16) ∧ isCore s0.cid = true ∧ t0.sfuPend = 0 ∧ ∀ i : Fin 4, s0.regs.streams[i] = none :=
  ⟨ready_s0, by decide, ⟨by decide, rfl, by decide, rfl⟩, by decide, by decide⟩
theorem witness_TagTable : Ready s0 t0 ∧ s0.ownsOff s0.cid t0.booth (512 * 255) = true ∧ s0.bankHeld (s0.cid * 16 + 255 / 16) = false ∧
    winBase ≤ (s0.src 1).toNat % 2 ^ 48 := ⟨ready_s0, by decide⟩
/-- The last word of the window. -/
def last : Nat := 2 ^ 17 - 8
theorem witness_LocalLoadsAndStores : Ready s0 t0 ∧ s0.Near (effAddr (s0.src 6) (0 : BitVec 12)) last ∧ last % (Size.bytes .b64) = 0 :=
  ⟨ready_s0, ⟨rfl, by decide, by decide, by decide⟩, by decide⟩
theorem witness_RemoteLoadsAndStores : Ready sp t0 ∧ effAddr (sp.src 2) (0 : BitVec 12) % (Size.bytes .b64) = 0 ∧
    t0.sprayHolds ((pageAt 16 0 true).ga 0x10000) 8 = false ∧ sp.Far accLoad 0x10000 (pageAt 16 0 true) ∧
    sp.Far accStore 0x1FFF8 (pageAt 16 0 true) ∧ (pageAt 16 0 true).kind ≠ 2 ∧ sp.WindowOpen :=
  ⟨ready_sp, by decide, by decide, ⟨by decide, rfl, by decide, rfl⟩, ⟨by decide, rfl, by decide, rfl⟩, by decide, by unfold State.WindowOpen; decide⟩
theorem witness_LoadTraps : Ready s0 t0 ∧ effAddr (s0.src 3) (0 : BitVec 12) % (Size.bytes .b16) ≠ 0 ∧ effAddr (sp.src 4) (0 : BitVec 12) < winBase ∧
    sp.pageFor (pkgOf sp.cid) t0.booth 0x900000 = none ∧
    (let s := { s0 with maps := [(1, [pageAt 16 0 true])] }
     s.pageFor (pkgOf s.cid) t0.booth 0x10000 = some (pageAt 16 0 true) ∧
     (s.core s.cid).tlb.contains (t0.booth, pageAt 16 0 true) = false ∧
     (getD s.l2 (s.cid / 16) []).contains (t0.booth, pageAt 16 0 true) = false) := ⟨ready_s0, by decide⟩
theorem witness_LocalSynchronisingAndAtomicAccesses : Ready s0 t0 ∧ s0.Near (effAddr (s0.src 6) (0 : BitVec 12)) last ∧ last % 8 = 0 ∧
    t0.Plain ∧ t0.wait = .idle ∧ s0.feWait = [] ∧ s0.mem.isFull (spad 0 last) = false ∧
    ({ s0 with mem := s0.mem.setFull (spad 0 last) true } : State).mem.isFull (spad 0 last) = true ∧
    s0.Near ((s0.src 6).toNat % 2 ^ 48) last ∧ last % 4 = 0 :=
  ⟨ready_s0, ⟨rfl, by decide, by decide, by decide⟩, by decide, ⟨rfl, rfl⟩, rfl, rfl, by decide, by decide,
    ⟨rfl, by decide, by decide, by decide⟩, by decide⟩
theorem witness_RemoteSynchronisingAndAtomicAccesses : Ready sp t0 ∧ effAddr (sp.src 5) (0 : BitVec 12) % 8 = 0 ∧
    (∀ a ∈ [accSyncLoad, accSyncStore, accAtomic], sp.Far a 0x1FFF8 (pageAt 16 0 true)) ∧
    t0.sprayHolds ((pageAt 16 0 true).ga 0x1FFF8) 8 = false ∧ sp.WindowOpen := by
  refine ⟨ready_sp, by decide, ?_, by decide, by unfold State.WindowOpen; decide⟩
  simp only [List.forall_mem_cons]
  exact ⟨⟨by decide, rfl, by decide, rfl⟩, ⟨by decide, rfl, by decide, rfl⟩, ⟨by decide, rfl, by decide, rfl⟩, nofun⟩
theorem witness_AgedAccesses : Ready sp t0 ∧ effAddr (sp.src 5) (0 : BitVec 12) % 8 = 0 ∧ sp.Far accAgedLoad 0x1FFF8 (pageAt 16 0 true) ∧
    sp.ownsOff sp.cid t0.booth (512 * 255) = true ∧ sp.bankHeld (sp.cid * 16 + 255 / 16) = false ∧ t0.spray = [] ∧
    (sp.src 2).toNat % 2 ^ 48 % 512 = 0 ∧ sp.Far accPub 0x10000 (pageAt 16 0 true) :=
  ⟨ready_sp, by decide, ⟨by decide, rfl, by decide, rfl⟩, by decide, by decide, rfl, by decide, ⟨by decide, rfl, by decide, rfl⟩⟩

/-- A copy command, and a queue of some length. -/
def cmd0 : Cmd := ⟨0, BitVec.ofNat 64 winBase, BitVec.ofNat 64 (winBase + 64), 5, 0, 1, 0, 4194304, none, false, 0, 0, []⟩
def queued (n : Nat) : State := { s0 with vqs := [(1, { VQueue.init with queue := List.replicate n cmd0 })] }
def te : Thread := threadOf edge0 [(1, BitVec.ofNat 64 winBase), (2, 0x10000), (3, 0x10001), (5, 3)] false
def se : State := running edge0 te
theorem ready_se : Ready se te := ⟨⟨rfl, rfl, rfl, rfl⟩, rfl, by unfold State.Unbound; decide, ⟨rfl, rfl, rfl, rfl⟩⟩
/-- A slot that is not listed has no term, and one whose term is 0 is off. -/
theorem termsOff_of (s : State) (cid : Nat) (h : ∀ e ∈ s.slots, e.2.crTerm = 0) : s.TermsOff cid := by
  intro k _
  unfold State.slot getD
  cases hf : find s.slots k with
  | none => decide
  | some x =>
    have key : ∀ l : List (Nat × Slot), find l k = some x → ∃ e ∈ l, e.2 = x := by
      intro l
      induction l with
      | nil => intro h; simp [find] at h
      | cons e l ih =>
        intro h
        simp only [find] at h
        split at h
        · exact ⟨e, by simp, by simpa using h⟩
        · obtain ⟨e', h1, h2⟩ := ih h
          exact ⟨e', by simp [h1], h2⟩
    obtain ⟨e, he, rfl⟩ := key _ hf
    simp [h e he, wfld, fld]
theorem witness_EnginePushes : (Ready s0 t0 ∧ s0.TermsOff s0.cid ∧ Ready se te ∧ se.TermsOff se.cid) ∧
    copyPush (.pushCopy 1 6 ⟨false, true, false⟩ ⟨true, 7⟩) = some (1, 6, 2 ^ 7 + 2 ^ 5 + 7 * 4) ∧
    s0.cmdRefusal (2 ^ 7 + 2 ^ 5 + 7 * 4) (s0.src 1) (s0.src 2) = 0 ∧ s0.cmdRefusal 0 (s0.src 3) (s0.src 1) ≠ 0 ∧
    ((queued 31).vq (engOf 0) 1).queue.length < 32 ∧ ((queued 31).vq (engOf 0) 1).released = [] ∧
    32 ≤ ((queued 32).vq (engOf 0) 1).queue.length ∧ t0.cpCount < 8 ∧ 8 ≤ ({ t0 with cpCount := 8 }).cpCount ∧
    s0.armRefusal 0 (s0.src 0) = 0 ∧ s0.armRefusal 0 (s0.src 3) ≠ 0 ∧ isEdge se.cid = true ∧
    netPush (.pushCtrset 2 0 ⟨true, true, true, 15⟩) = some (2, 0, 4 * 2 ^ 9 + 0x1CF, some 15) ∧
    netPush (.pushCtrset 2 0 ⟨true, true, false, 0⟩) = some (2, 0, 4 * 2 ^ 9 + 0x180, none) ∧
    se.nwRefusal (4 * 2 ^ 9 + 0x1CF) (se.src 2) (se.src 0) = 0 ∧ se.nwRefusal (2 ^ 9) (se.src 3) 0 ≠ 0 ∧
    (se.nq (nqKey se.cid 1)).queue.length < 32 ∧ (se.nq (nqKey se.cid 1)).released = [] ∧ te.nwCount < 8 ∧
    se.netTenant (pkgOf se.cid) (dieOf se.cid) te.booth = te.tenant ∧
    (let t := { te with tenant := 77 }
     let s := running edge0 t
     s.thread 5 = some t ∧ s.netTenant (pkgOf s.cid) (dieOf s.cid) t.booth ≠ t.tenant) :=
  ⟨⟨ready_s0, termsOff_of _ _ (by decide), ready_se, termsOff_of _ _ (by decide)⟩, by decide⟩
theorem witness_PopAndCounterWait : Ready s0 t0 ∧ Ready se te ∧ ({ t0 with cpOut := [7] }).cpOut = 7 :: [] ∧
    ({ te with nwOut := [8, 9] }).nwOut = 8 :: [9] ∧ t0.cpOut = [] ∧ isEdge se.cid = true ∧
    (s0.src 0).toNat % 2 ^ 16 ≤ (s0.slot s0.cur).crCnt ∧ (s0.slot s0.cur).crCnt < (s0.src 5).toNat % 2 ^ 16 ∧
    (se.src 5).toNat < 2 ^ 54 ∧ (se.src 0).toNat % 2 ^ 48 ≤ getD (se.nq (nqKey se.cid 1)).ctrs 0 0 ∧
    getD (se.nq (nqKey se.cid 1)).ctrs ((se.src 5).toNat / 2 ^ 48) 0 < (se.src 5).toNat % 2 ^ 48 ∧
    se.netTenant (pkgOf se.cid) (dieOf se.cid) te.booth = te.tenant ∧
    (let t := { te with tenant := 77 }
     let s := running edge0 t
     s.thread 5 = some t ∧ s.netTenant (pkgOf s.cid) (dieOf s.cid) t.booth ≠ t.tenant) :=
  ⟨ready_s0, ready_se, by decide⟩
/-- A term on the own slot that fills the last word of the window at the least and the greatest threshold. -/
def term (thresh : Nat) : Word := BitVec.ofNat 64 (2 ^ 48 + thresh * 2 ^ 32 + 2 * 2 ^ 30 + last)
def counting (n : Nat) : State := { s0 with slots := [(0, { s0.slot 0 with crCnt := n })] }
/-- A pulse for slot 0 of core 0 of a booth and a tenant, with some threads; and a thread that waits for a threshold there. -/
def pulsed (b : Nat) (tn : Word) (ts : List (Nat × Thread)) : State := { s0 with pulses := [⟨0, b, tn, false⟩], threads := ts }
def waits (n : Nat) : Thread := { t0 with wait := .crier n }
def ncmd0 : NCmd := ⟨4 * 2 ^ 9, 0, 0, 5, edge0 * 16, 1, none, false, 0, 0, []⟩
/-- A released command of each engine, whose thread has sent access 9 before it, and what is under way. -/
def releasing (ms : List Msg) : State :=
  { s0 with
    vqs := [(1, { VQueue.init with queue := List.replicate 31 cmd0, released := [{ cmd0 with before := [9] }] })]
    nqs := [(1, { NQueue.init with queue := List.replicate 31 ncmd0, released := [{ ncmd0 with before := [9] }] })]
    net := ms }
theorem witness_CrierConfigurationAndPulses : Ready s0 t0 ∧ last % 8 = 0 ∧ last < 2 ^ 17 ∧ s0.ownsOff s0.cid t0.booth last = true ∧
    s0.ownsGroup s0.cid t0.booth (s0.cur % 16 / 4) = true ∧
    term 65535 = BitVec.ofNat 64 (2 ^ (48 + s0.cur % 16) + 65535 * 2 ^ 32 + 2 * 2 ^ 30 + last) ∧
    ((counting 65534).slot 0).crCnt < 65535 ∧ 1 ≤ ((counting 1).slot 0).crCnt ∧ ((counting 1).slot 0).crCnt < 2 * 1 ∧ s0.feWait = [] ∧
    (65535 : Word).toNat < 2 ^ 16 ∧ 2 ^ 16 ≤ (65536 : Word).toNat ∧ s0.TermsOff s0.cid ∧ (∀ e ∈ s0.threads, ∀ n, e.2.wait ≠ .crier n) ∧
    (∀ s ∈ [pulsed 1 0 [], pulsed 1 0 [(5, waits 1)], pulsed 1 0 [(5, waits 2)]], s.pulses[0]? = some ⟨0, 1, 0, false⟩ ∧ s.ownsGroup 0 1 0 = true ∧
      s.slotTenant 1 0 = 0) ∧ (∀ x ∈ [pulsed 2 0 [], pulsed 1 7 []], ∃ p ∈ x.pulses,
      x.ownsGroup (p.key / 16) p.booth (p.key % 16 / 4) = false ∨ x.slotTenant p.booth p.key ≠ p.tenant) ∧
    ((waits 1).key = 0 ∧ (waits 1).wait = .crier 1 ∧ (waits 1).place ≠ .area) ∧ (waits 1).Plain ∧
    (∀ ms ∈ [[], [msg (.req (.store 8 0))]], ((releasing ms).vq 0 1).released = { cmd0 with before := [9] } :: [] ∧
      ((releasing ms).vq 0 1).queue.length < 32 ∧ ((releasing ms).nq 1).released = { ncmd0 with before := [9] } :: [] ∧
      ((releasing ms).nq 1).queue.length < 32) ∧
    (releasing []).NoneOut [9] ∧ ∃ m ∈ (releasing [msg (.req (.store 8 0))]).net, m.mid ∈ [9] ∧ ∃ k d, m.body = .req (.store k d) := by
  refine ⟨ready_s0, ?_, ?_, ?_, ?_, ?_, ?_, ?_, ?_, rfl, ?_, ?_, termsOff_of _ _ (by decide), ?_, ?_⟩
  case refine_11 => intro e h n; simp [s0, running] at h; subst h; simp [t0, threadOf, Thread.init]
  case refine_12 =>
    exact ⟨by decide, by decide, by decide, ⟨rfl, rfl⟩, by decide, nofun, msg (.req (.store 8 0)), by simp [releasing], by decide, 8, 0, rfl⟩
  all_goals decide
def owned (s : State) : State := { s with pkgs := [(0, { Pkg.init with rails := railOrder, owners := [(1, (BitVec.twoPow 64 63, 0))] })] }
/-- A request that has come to the dispatcher of package 0. -/
def requested (s : State) (a : Ask) : State := withMsg s { msg (.ask a) with dst := pkgNode 0, chan := 4 }
theorem comes (s : State) (a : Ask) : (requested s a).Comes 0 0 { msg (.ask a) with dst := pkgNode 0, chan := 4 } := ⟨rfl, rfl⟩
def spawn0 : Packet := ⟨3, 0, 0x2000, [1, 2, 3, 4], 0, true, 0⟩
theorem witness_SpawningResidualsAndPosting : Ready s0 t0 ∧ t0.job.launch = none ∧
    (let s := withPage sj (pageAt 16 0 false)
     s.Runs 5 tj ∧ tj.Quiet ∧ tj.job.launch = some 3 ∧ find s.launches 3 = some launch ∧ launch.expired = false ∧
       (s.src 2).toNat % 2 ^ 48 % 4 = 0 ∧ (s.src 1).toNat % 2 ^ 48 = winBase + 0 ∧ s.ownsOff s.cid tj.booth 0 = true ∧ launch.rop ≠ 0 ∧
       tj.job.index < launch.total ∧ 0x10000 = (launch.rarea + 8 * (16 * tj.job.index + tj.ctx.it.toNat % 16)) % 2 ^ 48 ∧
       s.Far { accStore with near := false } 0x10000 (pageAt 16 0 false) ∧
       tj.sprayHolds ((pageAt 16 0 false).ga 0x10000) 8 = false ∧ s.WindowOpen) ∧ ({ launch with rop := 0 }).rop = 0 ∧
    launch.total ≤ ({ tj.job with index := launch.total }).index ∧
    (∀ l ∈ [launch, { launch with expired := true }], let s := requested { sj with launches := [(3, l)] } (.spawn spawn0)
     s.Comes 0 0 { msg (.ask (.spawn spawn0)) with dst := pkgNode 0, chan := 4 } ∧ find s.launches spawn0.launch = some l) ∧
    (getD (s0.pkg (pkgOf s0.cid)).owners t0.booth (0, 0)).1.getLsbD 63 = false ∧
    (getD ((owned s0).pkg (pkgOf s0.cid)).owners t0.booth (0, 0)).1.getLsbD 63 = true :=
  ⟨ready_s0, rfl, ⟨⟨rfl, rfl, rfl, rfl⟩, ⟨rfl, rfl, rfl, rfl⟩, rfl, rfl, rfl, by decide, by decide, by decide, by decide, by decide, by decide,
    ⟨by decide, rfl, by decide, rfl⟩, by decide, by unfold State.WindowOpen; decide⟩, rfl, by decide,
    by simp only [List.forall_mem_cons]; exact ⟨⟨comes _ _, rfl⟩, ⟨comes _ _, rfl⟩, nofun⟩, by decide, by decide⟩
/-- A record of one level of one thread at 0x10000, with its completion record at 0x10400. -/
def recorded : State := { withPage sj (pageAt 16 0 false) with
  regions := [(1, ⟨77, 15, 0, [0]⟩)]
  mem := (((Memory.empty.write 0x40000000 8 (2 ^ 32 + 2 ^ 25)).write 0x40000010 8 0x2000).write 0x40000068 8 0x10400) }
def spawned : State := { sj with spawnQ := [⟨3, 1, 0x2000, [1, 2, 3, 4], 0, true, 0⟩] }
/-- The next journal place holds entry 0, which no replay fence has passed. -/
def fullJournal : State := { sj with pkgs := [(0, { Pkg.init with
  rails := railOrder, jseq := 65537, journal := [(1, ⟨1, 3, 1, 0, 0, 0, 0, 0, [], [], 0, false⟩)] })] }
set_option maxRecDepth 8000 in
theorem witness_ThreadEndsAndLaunches : (sj.Runs 5 tj ∧ tj.Quiet ∧ recorded.Runs 5 tj) ∧ tj.job.launch = some 3 ∧
    find sj.launches 3 = some launch ∧ s0.sourceFor 1 0 = none ∧ (spawned.sourceFor 1 0).isSome = true ∧ spawned.imagesTaken 0 1 < 64 ∧
    spawned.preempts = [] ∧ recorded.journalFull 0 = false ∧
    (let raw := recorded.recordAt 0 1 0x10000 false
     recorded.launchKind 0 1 0x10000 false raw = 0 ∧ recTotal (raw.getD []) ≠ 0) ∧
    recorded.launchKind 0 1 0x20000 false (recorded.recordAt 0 1 0x20000 false) = 4 ∧
    (fullJournal.Runs 5 tj ∧ fullJournal.journalFull 0 = true) ∧
    ∀ s ∈ [recorded, fullJournal], ∀ va ∈ [0x10000, 0x20000], (requested s (.launch va false 0)).Comes 0 0
      { msg (.ask (.launch va false 0)) with dst := pkgNode 0, chan := 4 } ∧ (requested s (.launch va false 0)).journalFull (nodeAddr (pkgNode 0)) =
        s.journalFull 0 := by
  refine ⟨⟨⟨rfl, rfl, rfl, rfl⟩, ⟨rfl, rfl, rfl, rfl⟩, ⟨rfl, rfl, rfl, rfl⟩⟩, rfl, rfl, ?_, ?_, ?_, ?_, ?_, ?_, ?_, ⟨⟨rfl, rfl, rfl, rfl⟩, by decide⟩,
    fun s _ va _ => ⟨comes _ _, rfl⟩⟩ <;> decide
/-- Channel 31 of core 1, and the bits of `chset`: 1, and a binding. -/
def tc (tn : Word) : Thread :=
  { threadOf 0 [(1, BitVec.ofNat 64 (31 * 2 ^ 32 + 16)), (2, 1), (3, BitVec.ofNat 64 (2 ^ 48 + 0x2000))] false with tenant := tn }
def sc (tn : Word) (cores : List Nat) : State := { running 0 (tc tn) with regions := [(1, ⟨77, 15, 0, cores⟩)] }
theorem witness_Channels : Ready (sc 77 [0, 1]) (tc 77) ∧ Ready (sc 76 [0, 1]) (tc 76) ∧ Ready (sc 77 [0]) (tc 77) ∧
    (1 : Nat) < 2 ^ 26 ∧ (31 : Nat) < 32 ∧
    (∀ s ∈ [sc 77 [0, 1], sc 76 [0, 1], sc 77 [0]], s.src 1 = BitVec.ofNat 64 (31 * 2 ^ 32 + 1 * 16) ∧ s.chanTenant 1 1 = 77 ∧
      (s.src 2).toNat < 2 ^ 49 ∧ (s.src 2).getLsbD 48 = false ∧ (s.src 3).toNat < 2 ^ 49 ∧ (s.src 3).getLsbD 48 = true ∧
      (s.slot s.cur).phase = .live) ∧
    (sc 77 [0, 1]).inRegion 1 1 = true ∧ (sc 77 [0]).inRegion 1 1 = false ∧ (tc 77).ctx.prv = false ∧
    (threadOf 0 [] true).ctx.prv = true ∧
    (∀ s ∈ [sc 77 [0, 1], sc 76 [0, 1], sc 77 [0]], let m := { msg (.ask (.chan 31 true 1)) with dst := 1 }
     (withMsg s m).arrived 0 = some m ∧ waitingAt m.que m.chan (withMsg s m).net 0 = some 0 ∧ (withMsg s m).inRegion m.booth m.dst = s.inRegion 1 1 ∧
       (withMsg s m).chanTenant m.dst m.booth = 77 ∧ ∃ e ∈ s.threads, e.1 = m.uid ∧ (e.2.tenant = 77 ∨ e.2.tenant = 76)) := by
  refine ⟨?_, ?_, ?_, ?_⟩
  case refine_4 => decide
  all_goals exact ⟨⟨rfl, rfl, rfl, rfl⟩, rfl, by unfold State.Unbound; decide, ⟨rfl, rfl, rfl, rfl⟩⟩

/-- The window's first byte as base of every operand, with strides of 0; a partner east of core 0; the sampled registers set. -/
def tm : Thread := threadOf 0 [(1, BitVec.ofNat 64 winBase), (2, 0xC000000000000000), (4, BitVec.ofNat 64 (2 ^ 31))] false
def sampled1 : Sampled := { Sampled.zero with snr := BitVec.ofNat 64 winBase, stb := BitVec.ofNat 64 winBase, sk := 1, valid := true }
def sm : State :=
  let s := running 0 tm
  { s with
    slots := [(0, { s.slot 0 with regs := { SlotRegs.zero with sampled := sampled1 } })]
    stitch := [(1, [none, some 1, none, none]), (64 + 1, [none, none, none, some 0])] }
theorem ready_sm : Ready sm tm := ⟨⟨rfl, rfl, rfl, rfl⟩, rfl, by unfold State.Unbound; decide, ⟨rfl, rfl, rfl, rfl⟩⟩
/-- Spans inside the window lie in banks of the booth where it owns every group. -/
theorem inBanks_of (s : State) (xs : List (Nat × Nat)) (h : ∀ g < 4, s.ownsGroup s.cid s.booth g = true)
    (hx : ∀ x ∈ xs, winBase ≤ x.1 ∧ x.1 + x.2 ≤ 2 ^ 48) : s.InBanks xs := by
  intro x hm i hi
  obtain ⟨h1, h2⟩ := hx x hm
  have e : (x.1 + i) % 2 ^ 48 = x.1 + i := Nat.mod_eq_of_lt (by omega)
  have w : winBase ≤ x.1 + i := by omega
  have o := h ((x.1 + i - winBase) / 32768) (by unfold winBase at *; omega)
  simp only [State.mine, isWin, State.ownsOff, e, o, w, decide_true, Bool.and_self]
theorem banks_sm (xs : List (Nat × Nat)) (hx : ∀ x ∈ xs, winBase ≤ x.1 ∧ x.1 + x.2 ≤ 2 ^ 48) : sm.InBanks xs :=
  inBanks_of sm xs (by decide) hx
theorem witness_MatrixCommands : Ready sm tm ∧ isEdge sm.cid = false ∧ sm.regs.mda.toNat / 2 ^ 62 = sm.regs.mdb.toNat / 2 ^ 62 ∧
    sm.regs.mda.toNat / 2 ^ 62 ≠ 3 ∧ sm.partner sm.cid tm.booth 1 ≠ none ∧ sm.partner sm.cid tm.booth 0 = none ∧
    (sm.src 1).toNat % descAlign sm.regs.mda = 0 ∧ sm.InBanks (descSpans (sm.src 1) 0 32 1 ++ descSpans (sm.src 1) 0 16 1) ∧
    sm.BelowThreshold 3 ∧ sm.Unheld (descSpans (sm.src 1) 0 32 1 ++ descSpans (sm.src 1) 0 16 1) ∧ sm.Unheld [] ∧
    outOk 3 0 = true ∧ outRow (sm.src 1) 0 1 % 8 = 0 ∧ sm.InBanks (outSpans (sm.src 1) 0) ∧ sm.Unheld (outSpans (sm.src 1) 0) ∧
    sm.regs.mda.getLsbD 60 = false ∧ sm.InBanks (cmpSpans (sm.src 1) 32) ∧ sm.Unheld (cmpSpans (sm.src 1) 32) ∧
    sampledFormats 0 0 = true ∧ 8 + max 1 (ceilDiv (112 * 1) 64) ≤ 4096 ∧ (sm.src 1).toNat % 16 = 0 ∧
    sm.InBanks (recordSpans (sm.src 1).toNat 1) ∧ 8 + ceilDiv 1 2 + ceilDiv (20 * 1) 64 ≤ 4096 ∧
    sm.InBanks (tableSpans (sm.src 1).toNat 1) ∧ sm.regs.sampled.valid = true ∧ sm.regs.sampled.scfg.getLsbD 31 = false ∧
    sm.InBanks (tableSpans sampled1.stb.toNat 1 ++ recordSpans sampled1.snr.toNat 1) ∧ s0.regs.sampled.valid = false := by
  unfold State.BelowThreshold State.Unheld
  refine ⟨ready_sm, ?_⟩
  and_intros <;> first | exact banks_sm _ (by decide) | decide
theorem witness_MatrixRegisters : Ready sm tm ∧ isEdge sm.cid = false ∧ descOk false (sm.src 0) = true ∧ descOk true (sm.src 0) = true ∧
    descOk false (sm.src 2) = false ∧ (sm.src 4).toNat / 2 ^ 12 % 2 ^ 8 = 0 ∧ (sm.src 4).getLsbD 63 = false ∧
    (sm.src 4).toNat / 2 ^ 20 % 2 ^ 9 ≤ 256 ∧ Exact.isNan (Exact.ofBits Exact.f32 ((sm.src 4).toNat / 2 ^ 32)) = false ∧
    ((sm.src 4).getLsbD 31 = false → (sm.src 4).toNat / 2 ^ 29 % 4 = 0) ∧ sm.storeHeld = false ∧ rising (sm.core sm.cid).tileCnt = true :=
  ⟨ready_sm, by decide⟩
def laned (n : Nat) : State :=
  { sm with slots := [(0, { sm.slot 0 with lanes := Vector.ofFn (fun i => if i.val = 1 then List.replicate n 7 else []) })] }
theorem witness_LinkWords : Ready sm tm ∧ tm.wait = .idle ∧ sm.partner sm.cid tm.booth Link.e.code = some 1 ∧
    (((laned 1).slot 0).lanes.toList[Link.e.code]?).getD [] = 7 :: [] ∧ sm.laneAcross .e = some (16, .w) ∧ sm.laneLoad 16 Link.w.code < 8 ∧
    8 ≤ ({ sm with linkNet := List.replicate 8 ⟨16, .w, 7, none⟩ } : State).laneLoad 16 Link.w.code ∧
    (((laned 0).slot 0).lanes.toList[Link.e.code]?).getD [] = [] ∧ sm.partner sm.cid tm.booth Link.n.code = none ∧
    ({ sm with linkNet := [⟨16, .w, 7, none⟩] } : State).linkNet = ⟨16, .w, 7, none⟩ :: [] ∧
    ({ sm with linkNet := [⟨16, .w, 0, some []⟩] } : State).linkNet = ⟨16, .w, 0, some []⟩ :: [] ∧ (sm.core (16 / 16)).mrun = none ∧
    sm.storesFly 5 = false ∧ (withMsg sm { msg (.req (.store 8 0)) with src := 0, dst := 16, posted := true }).storesFly 5 = true ∧
    (let t := { tm with key := 16, wait := .retry (.laneEmpty .w) }
     ({ sm with threads := [(6, t)] } : State).thread 6 = some t ∧ t.key = 16 ∧ t.wait = .retry (.laneEmpty .w)) :=
  ⟨ready_sm, by decide⟩
/-- Booth 1 has some cores. -/
def regioned (s : State) (l : List Nat) : State := { s with regions := [(1, ⟨77, 15, 0, l⟩)] }
theorem witness_AbsentExtensions :
    (∀ x ∈ [(Instr.mcnt 3 0 1, 979372033), (.mnorm 1 2 3, 975467008)], encode x.1 = some x.2 ∧ extOf x.2 = some .m) ∧
    encode (.pop 3 .net) = some 912262144 ∧ extOf 912262144 = some .n ∧
    (∀ l ∈ [[edge0], [edge0, 0]], Ready (regioned se l) te) ∧ (∀ l ∈ [[0], [edge0, 0]], Ready (regioned s0 l) t0) ∧
    isEdge se.cid = true ∧ isEdge s0.cid = false ∧
    (∀ c ∈ (regioned se [edge0]).regionCores te.booth, isEdge c = true) ∧ (∃ c ∈ (regioned se [edge0, 0]).regionCores te.booth, isEdge c = false) ∧
    (∀ c ∈ (regioned s0 [0]).regionCores t0.booth, isEdge c = false) ∧ (∃ c ∈ (regioned s0 [edge0, 0]).regionCores t0.booth, isEdge c = true) ∧
    te.sfuPend = 0 ∧ t0.sfuPend = 0 ∧ (∀ k : Fin 4, se.regs.streams[k] = none) ∧ ∀ k : Fin 4, s0.regs.streams[k] = none := by
  refine ⟨by decide, by decide, by decide, ?_, ?_, by decide, by decide, by decide, ⟨0, by decide, by decide⟩, by decide, ⟨edge0, by decide, by decide⟩,
    by decide, by decide, by decide, by decide⟩
  all_goals simp only [List.forall_mem_cons]
  all_goals exact ⟨⟨⟨rfl, rfl, rfl, rfl⟩, rfl, by unfold State.Unbound; decide, ⟨rfl, rfl, rfl, rfl⟩⟩,
    ⟨⟨rfl, rfl, rfl, rfl⟩, rfl, by unfold State.Unbound; decide, ⟨rfl, rfl, rfl, rfl⟩⟩, nofun⟩
theorem witness_FloatArithmetic : Ready s0 t0 := ready_s0
theorem witness_FloatComparisonsAndConversions : Ready s0 t0 := ready_s0
/-- Core 0 with some special-function requests in its queue and some deferred. -/
def req (u : Nat) : SfuReq := ⟨u, 0, 3, 0x3F800000, 0x40000000, 3⟩
def special (q w : Nat) (t : Thread) : State :=
  let s := running 0 t
  { s with cores := [(0, { s.core 0 with sfuQ := List.replicate q (req 5), sfuWait := List.replicate w (req 5) })] }
theorem witness_SpecialFunctions : Ready s0 t0 ∧ ((special 7 0 t0).core 0).sfuShare 1 < ((special 7 0 t0).core 0).sfuRoom 1 ∧
    ((special 8 0 t0).core 0).sfuRoom 1 ≤ ((special 8 0 t0).core 0).sfuShare 1 ∧
    ((special 1 0 t0).core 0).sfuQ = req 5 :: [] ∧ (special 1 0 t0).thread (req 5).uid = some t0 ∧ t0.place = .slot ∧ t0.wait = .idle ∧
    ((special 1 0 t0).slot t0.key).regs.stream (req 5).d = none ∧
    (let t := { t0 with wait := .sfuQueue }
     let s := special 0 1 t
     (s.core 0).sfuWait = req 5 :: [] ∧ (s.core 0).sfuQ = [] ∧ (s.core 0).owners = Vector.replicate 4 (some t.booth) ∧ (req 5).group < 4 ∧
       s.thread (req 5).uid = some t) := ⟨ready_s0, by decide⟩
/-- Mode words: FP32 lanes, integer lanes under a mask, a reserved bit, `vred` with SUB 2, a conversion. -/
def tv : Thread := threadOf 0 [(1, 0), (2, 0x4002), (3, 0x100000), (4, 0x20001), (5, 0x10000), (6, BitVec.ofNat 64 (winBase + 2 ^ 17 - 64)), (7, 4)] false
def sv : State := running 0 tv
theorem ready_sv : Ready sv tv := ⟨⟨rfl, rfl, rfl, rfl⟩, rfl, by unfold State.Unbound; decide, ⟨rfl, rfl, rfl, rfl⟩⟩
/-- The same where the C word of the pair parked. -/
def held0 : State := { sv with bun := { sv.bun with hold := true } }
theorem witness_VectorModeAndArithmetic : Ready sv tv ∧ vmode (sv.src 3) = none ∧
    (∃ m, vmode (sv.src 1) = some m ∧ m.type = 0 ∧ m.sub = 0) ∧ ∃ m, vmode (sv.src 2) = some m ∧ m.type = 2 ∧ m.sub = 0 ∧ m.masked = true :=
  ⟨ready_sv, rfl, ⟨_, rfl, rfl, rfl⟩, ⟨_, rfl, rfl, rfl, rfl⟩⟩
theorem witness_MaskWords : Ready sv tv ∧ (4 < 5 ∨ 0 ≠ 0) := ⟨ready_sv, by decide⟩
theorem witness_VectorMoves : Ready sv tv ∧ (∃ m, vmode (sv.src 2) = some m ∧ m.masked = true ∧ m.sub = 0) ∧
    (∃ m, vmode (sv.src 4) = some m ∧ m.type ≤ 2 ∧ m.sub = 2 ∧ m.rnd ≠ .rs) ∧ ∃ m, vmode (sv.src 5) = some m ∧ m.sub ≤ 4 ∧ m.sub ≠ m.type :=
  ⟨ready_sv, ⟨_, rfl, rfl, rfl⟩, ⟨_, rfl, by decide, rfl, by decide⟩, ⟨_, rfl, by decide, by decide⟩⟩
theorem witness_LanesAndVectorMemory : Ready sv tv ∧ (held0.Runs 5 tv ∧ held0.bun.hold = true) ∧ sv.AtCore 5 tv ∧ (∀ r ∈ (sv.core sv.cid).sfuQ ++ (sv.core sv.cid).sfuWait, r.uid ≠ 5) ∧
    ∀ i < 16, (2 ^ 17 - 64 + 4 * i) % 4 = 0 ∧
      sv.Near (((sv.src 6).toNat + i * (sv.src 7).toNat) % 2 ^ 48) (2 ^ 17 - 64 + 4 * i) := by
  refine ⟨ready_sv, ⟨⟨rfl, rfl, rfl, rfl⟩, rfl⟩, fun _ => rfl, by decide, fun i hi => ⟨by omega, ⟨?_, by omega, ?_, ?_⟩⟩⟩
  · revert i; decide
  · revert i; decide
  · revert i; decide
/-- A stream of 8-byte elements at the window's first byte: count, direction, next element. -/
def streamDesc (count dir : Nat) : Word := BitVec.ofNat 64 (count * 2 ^ 40 + 8 * 2 ^ 24 + dir)
def ts : Thread := threadOf 0 [(1, BitVec.ofNat 64 winBase), (2, streamDesc 1 0), (3, streamDesc (2 ^ 24 - 1) 1)] false
/-- Stream 3 of eight elements at some element, in the slot and at the bundle's issue. -/
def stream3 (dir next : Nat) (ahead : List Word) : Stream := ⟨streamDesc 8 dir, BitVec.ofNat 64 winBase, next, ahead, []⟩
def bound (dir next : Nat) (ahead : List Word) : State :=
  let s := running 0 ts
  let b := Vector.ofFn (fun i => if i.val = 3 then some (stream3 dir next ahead) else none)
  { s with
    slots := [(0, { s.slot 0 with regs := { SlotRegs.zero with streams := b } })]
    bun := { s.bun with src := b } }
theorem runs_bound (dir next : Nat) (ahead : List Word) : (bound dir next ahead).Runs 5 ts := ⟨rfl, rfl, rfl, rfl⟩
theorem witness_Streams : Ready (running 0 ts) ts ∧
    ((∀ d ∈ [(2 : GReg), 3], ((running 0 ts).src d).toNat / 4 % 2 ^ 22 = 0 ∧ ((running 0 ts).src d).toNat / 2 ^ 40 ≠ 0 ∧
      ((running 0 ts).src d).toNat / 2 ^ 24 % 8 = 0 ∧ ((running 0 ts).src d).getLsbD 1 = false) ∧ ((running 0 ts).src 1).toNat % 8 = 0 ∧
    (∀ n : Fin 4, (running 0 ts).regs.streams[n] = none)) ∧
    (∀ p ∈ [(bound 0 7 [5], stream3 0 7 [5], false), (bound 1 7 [], stream3 1 7 [], true), (bound 1 6 [], stream3 1 6 [], true)],
      p.1.regs.streams[(3 : Fin 4)] = some p.2.1 ∧ p.1.bun.src[(3 : Fin 4)] = some p.2.1 ∧ p.1.bun.hold = false ∧
        p.2.1.desc.getLsbD 0 = p.2.2 ∧ p.2.1.next < p.2.1.desc.toNat / 2 ^ 40 ∧ p.1.elemOk p.2.1 p.2.1.next = true) ∧
    ((stream3 0 7 [5]).ahead = 5 :: [] ∧ ((stream3 1 7 []).next + 1) % 8 = 0 ∧ ((stream3 1 6 []).next + 1) % 8 ≠ 0 ∧
      (bound 0 8 []).bun.src[(3 : Fin 4)] = some (stream3 0 8 []) ∧ (stream3 0 8 []).desc.toNat / 2 ^ 40 ≤ (stream3 0 8 []).next) ∧
    (bound 0 7 [5]).Unbound 1 ∧ (bound 1 7 []).Unbound 1 ∧ (bound 0 8 []).bun.given = [] ∧ (bound 1 7 []).AtCore 5 ts := by
  refine ⟨⟨⟨rfl, rfl, rfl, rfl⟩, rfl, ?_, ⟨rfl, rfl, rfl, rfl⟩⟩, by decide, by decide, by decide, ?_, ?_, rfl, fun _ => rfl⟩ <;>
    (unfold State.Unbound; decide)

/-- A `nop`, and the pair `nop || addi g5, g5, 3`, where the next step fetches them. -/
def lone : State := State.reset.withFetchWord 32 0
def pair : State := { lone with mem := (Memory.empty.write (spad 0 0) 4 0).write (spad 0 4) 4 0x44AA0003 }
def tn : Thread := { Thread.init 1 0 with ctx := { Ctx.zero with pc := BitVec.ofNat 48 winBase } }
/-- `vadd v1, v2, v3`, of four beats on a compute core; and the last beats of an issued word whose result waits. -/
def beaten : State := State.reset.withFetchWord 32 0xDE000053
def tbeat (n : Nat) : Thread := { tn with beats := n, total := 4, held := [.g 3 7] }
def onBeat (n : Nat) : State := { lone with threads := [(0, tbeat n)] }
/-- Slot 0 of a core comes to two words at some place of its window. -/
def tf0 (cid off : Nat) (prv : Bool) : Thread := { Thread.init 1 (cid * 16) with
  ctx := { Ctx.zero with g := regsOf [(1, 1), (2, 0x100000)], pc := BitVec.ofNat 48 (winBase + off), prv := prv } }
def fetched (cid off w v : Nat) (prv : Bool) : State := { lone with
  mem := (Memory.empty.write (spad cid off) 4 w).write (spad cid (off + 4)) 4 v
  cores := [(cid, { Core.init with owners := Vector.replicate 4 (some 1) })]
  slots := [(cid * 16, { Slot.init with phase := .live, run := some 0 })]
  threads := [(0, tf0 cid off prv)]
  agenda := [.issue (cid * 16)] }
/-- Lone words: an unassigned major, a supervisor word, an unassigned control register; two words at a multiple of 4, two of which are no
pair; C words and A words that do not decode, and two that write one register. -/
def badWords : List (Nat × Nat × Nat × Bool) :=
  [(0, 0xE2000000, 0, false), (0, 2 ^ 31 + 3, 0, false), (0, 2 ^ 31 + 39849983, 0, true), (4, 0, 0x44AA0003, false), (0, 0, 2 ^ 31, false), (0, 0, 0, false),
    (0, 0x44AA0003, 0, false), (0, 5, 0x44AA0003, false), (0, 0, 0x62000000, false), (0, 232783874, 1174274049, false)]
theorem witness_StepRunsDecodedInstruction : (∀ s ∈ [lone, pair, beaten], s.agenda = .issue 0 :: [] ∧ s.due 0 = true ∧
      (s.slot 0).run = some 0 ∧ s.thread 0 = some tn ∧ s.handovers = [] ∧ s.ownsOff 0 1 0 = true) ∧
    (tn.key = 0 ∧ tn.place = .slot ∧ tn.beats = 0 ∧ tn.aRan = false ∧ tn.given = [] ∧ tn.carry = none ∧ tn.sfuPend = 0 ∧
      tn.ctx.pc.toNat = winBase + 0) ∧
    (let w := lone.mem.read (spad 0 0) 4
     w / 2 ^ 31 = 1 ∧ decodeWord w = .ok .nop ∧ extOf w = none ∧ Instr.nop.supervisor = false ∧ Instr.nop.beats false = 1 ∧
       Instr.nop.reads = [] ∧ (lone.issuing 0 [] tn 4 w 0).csrTrap .nop = none) ∧
    (let w := beaten.mem.read (spad 0 0) 4
     let s := beaten.issuing 0 [] tn 4 w 0
     w / 2 ^ 31 = 1 ∧ decodeWord w = .ok (.vadd 1 2 3 0 0) ∧ s.csrTrap (.vadd 1 2 3 0 0) = none ∧
       1 < (Instr.vadd 1 2 3 0 0).beats false ∧ ∃ c, exec (.vadd 1 2 3 0 0) { s with bun := { s.bun with hold := true } } = .next c ∧
         c.bun.fin = .done) ∧
    (let w := pair.mem.read (spad 0 0) 4
     let v := pair.mem.read (spad 0 4) 4
     let s := pair.issuing 0 [] tn 8 w v
     w / 2 ^ 30 = 0 ∧ v / 2 ^ 30 = 1 ∧ decodeWord w = .ok .nop ∧ decodeWord v = .ok (.addi 5 5 3) ∧ Instr.nop.clash (.addi 5 5 3) = false ∧
       (s.second false).csrTrap (.addi 5 5 3) = none ∧ ∃ c a, exec .nop s = .next c ∧ c.bun.fin = .done ∧
         exec (.addi 5 5 3) (c.second false) = .next a ∧ a.bun.fin = .done) ∧
    (∀ n ∈ [1, 2], (onBeat n).due 0 = true ∧ (onBeat n).thread 0 = some (tbeat n) ∧ (tbeat n).beats = n ∧
      (tbeat n).beats ≠ (tbeat n).total ∧ (tbeat n).held = [.g 3 7] ∧ ((onBeat n).slot 0).regs.stream 3 = none) ∧
    lone.dueOn 0 = some 0 ∧ ({ lone with threads := [(0, { tn with wait := .crier 1 })] } : State).due 0 = false ∧
    ({ State.reset with agenda := [.tick] } : State).pickSlot = none := by
  refine ⟨?_, ?_, ⟨?_, rfl, rfl, ?_, ?_, rfl, rfl⟩, ⟨?_, rfl, rfl, ?_, _, rfl, rfl⟩,
    ⟨?_, ?_, rfl, rfl, rfl, rfl, _, _, rfl, rfl, rfl, rfl⟩, ?_, ?_, ?_, ?_⟩ <;> decide
/-- The same statement's clauses on words that trap and on pairs one of whose words waits or traps. -/
theorem witness_StepRunsDecodedInstruction_traps :
    (∀ x ∈ badWords, let s := fetched 0 x.1 x.2.1 x.2.2.1 x.2.2.2
      s.agenda = .issue 0 :: [] ∧ s.due 0 = true ∧ (s.slot 0).run = some 0 ∧ s.thread 0 = some (tf0 0 x.1 x.2.2.2) ∧ s.handovers = [] ∧
        s.ownsOff 0 1 x.1 = true ∧ s.mem.read (spad 0 x.1) 4 = x.2.1 ∧ s.mem.read (spad 0 (x.1 + 4)) 4 = x.2.2.1 ∧ extOf x.2.1 = none ∧
        extOf x.2.2.1 = none ∧ (tf0 0 x.1 x.2.2.2).ctx.pc.toNat = winBase + x.1) ∧
    (decodeWord 0xE2000000 = .error .unassignedMajor ∧ decodeWord (2 ^ 31 + 3) = .ok .tret ∧ Instr.tret.supervisor = true ∧
      decodeWord (2 ^ 31 + 39849983) = .ok (.csrr 3 0xFFF) ∧
      (let s := fetched 0 0 (2 ^ 31 + 39849983) 0 true
       (s.issuing 0 [] (tf0 0 0 true) 4 (2 ^ 31 + 39849983) 0).csrTrap (.csrr 3 0xFFF) = some .illegal)) ∧
    ((∃ e, decodeWord 5 = .error e) ∧ (∃ e, decodeWord 0x62000000 = .error e) ∧ decodeWord 0 = .ok .nop ∧
      decodeWord 232783874 = .ok (.call 2) ∧ decodeWord 1174274049 = .ok (.addi 15 15 1) ∧ (Instr.call 2).clash (.addi 15 15 1) = true) ∧
    (decodeWord 2 = .ok .brk ∧ decodeWord 906101312 = .ok (.ctrwait 1 .copy) ∧ ∀ i ∈ [Instr.brk, .ctrwait 1 .copy], i.beats false = 1 ∧
      i.clash (.addi 5 5 3) = false) ∧ decodeWord 0x44AA0003 = .ok (.addi 5 5 3) ∧
    (let s := (fetched 0 0 2 0x44AA0003 false).issuing 0 [] (tf0 0 0 false) 8 2 0x44AA0003
     ∃ c x y, exec .brk s = .next c ∧ c.bun.fin = .trapped x y) ∧
    (let s := (fetched 0 0 906101312 0x44AA0003 false).issuing 0 [] (tf0 0 0 false) 8 906101312 0x44AA0003
     ∃ c a, exec (.ctrwait 1 .copy) s = .next c ∧ c.bun.fin = .parked ∧ exec (.addi 5 5 3) (c.second true) = .next a ∧ a.bun.fin = .done) ∧
    let s := fetched edge0 0 0 1577074771 false
    let b := s.issuing (edge0 * 16) [] (tf0 edge0 0 false) 8 0 1577074771
    s.due (edge0 * 16) = true ∧ s.ownsOff edge0 1 0 = true ∧ decodeWord 1577074771 = .ok (.vadd 1 2 3 2 0) ∧ (Instr.vadd 1 2 3 2 0).beats true = 1 ∧
      ∃ c a x y, exec .nop b = .next c ∧ c.bun.fin = .done ∧ exec (.vadd 1 2 3 2 0) (c.second false) = .next a ∧ a.bun.fin = .trapped x y := by
  refine ⟨?_, ⟨rfl, rfl, rfl, rfl, ?_⟩, ⟨⟨_, rfl⟩, ⟨_, rfl⟩, rfl, rfl, rfl, ?_⟩, ⟨rfl, rfl, ?_⟩, rfl, ⟨_, _, _, rfl, rfl⟩, ⟨_, _, rfl, rfl, rfl, rfl⟩, ?_, ?_, rfl, rfl,
    _, _, _, _, rfl, rfl, rfl, rfl⟩ <;> decide
theorem witness_MemoryStaysCanonical : lone.mem.wf = true ∧ ∃ t, step lone = .next t := ⟨by decide, _, rfl⟩
theorem witness_Frames : Ready s0 t0 ∧ (∃ t, exec (.lui 1 5) s0 = .next t ∧ t.bun.fin = .done) ∧
    (∃ t, exec (.st 2 1 .b8 .ord 0) s0 = .next t ∧ t.bun.fin = .done ∧ s0.look accStore (effAddr (s0.src 1) (0 : BitVec 12)) = .ok (.here 0)) ∧
    (∃ t, exec (.st 1 2 .b64 .ord 0) sp = .next t ∧ t.bun.fin = .done ∧
      sp.look accStore (effAddr (sp.src 2) (0 : BitVec 12)) = .ok (.home (pageAt 16 0 true) 0x40000000)) ∧
    (t0.Plain ∧ s0.feWait = [] ∧ (∃ t, exec (.stf 2 1 .ord 0) s0 = .next t ∧ t.bun.fin = .done) ∧
      ∃ t, exec (.stfill 2 6 .ord 0) s0 = .next t ∧ t.bun.fin = .done) ∧
    (∃ t, exec (.amo .fadd 2 1 3 false .ord) s0 = .next t ∧ t.bun.fin = .done) ∧ (∃ t, exec (.amo .max 2 1 3 true .ord) s0 = .next t ∧ t.bun.fin = .done) ∧
    (∃ t, exec (.cas 2 1 3 true .ord) s0 = .next t ∧ t.bun.fin = .done) ∧ (∃ t, exec (.cas 2 1 3 false .ord) s0 = .next t ∧ t.bun.fin = .done) ∧
    ((∃ t, exec (.vst 1 1 0 true 2) s0 = .next t ∧ t.bun.fin = .done) ∧ s0.AtCore 5 t0) ∧
    Ready sp t0 ∧ (∃ t, exec (.ld 2 2 .b64 .ord .sx 0) sp = .next t ∧ t.bun.fin = .parked) ∧
    (∃ t, exec (.lda 2 2 .park (.count 1) 0) sp = .next t ∧ t.bun.fin = .parked) ∧
    (∃ t, exec (.fetcha 2 2 .park (.count 1) 0) sp = .next t ∧ t.bun.fin = .parked) ∧
    ∃ t, exec (.pub 1 2 0) sp = .next t ∧ t.bun.fin = .parked :=
  ⟨ready_s0, ⟨_, rfl, rfl⟩, ⟨_, rfl, rfl, rfl⟩, ⟨_, rfl, rfl, rfl⟩, ⟨⟨rfl, rfl⟩, rfl, ⟨_, rfl, rfl⟩, ⟨_, rfl, rfl⟩⟩, ⟨_, rfl, rfl⟩, ⟨_, rfl, rfl⟩,
    ⟨_, rfl, rfl⟩, ⟨_, rfl, rfl⟩, ⟨⟨_, rfl, rfl⟩, fun _ => rfl⟩, ready_sp, ⟨_, rfl, rfl⟩, ⟨_, rfl, rfl⟩, ⟨_, rfl, rfl⟩, ⟨_, rfl, rfl⟩⟩

/-- A request at its home, core 0, for the first word of its page; and the same with no page mapped. -/
def asks (r : Req) : Msg := { msg (.req r) with ga := 0x40000000 }
def home (r : Req) : State := withMsg (withPage s0 (pageAt 0 0 true)) (asks r)
theorem mapped (s : State) (r : Req) (h1 : (s.core 0).lost = false) (h2 : s.stillMapped (asks r) = true) (k : Nat) :
    s.refuses (asks r) k = false := by
  have f : s.foreignBank (asks r) = false := by simp [State.foreignBank, asks]
  have d : (asks r).dst = 0 := rfl
  have i : s.installed (asks r).ga k = true := by simp [State.installed, asks, fld]
  simp [State.refuses, d, h1, h2, i, f]
theorem mapped_home (r : Req) : (home r).stillMapped (asks r) = true := by
  simp [State.stillMapped, State.pageFor, State.pagesOf, home, withMsg, withPage, asks, msg, pageAt, Page.holds, getD, find]
theorem serves (r : Req) : (home r).Serves 0 (asks r) := ⟨rfl, mapped _ r rfl (mapped_home r), rfl⟩
def unmapped (m : Msg) : State := withMsg s0 m
/-- A home that lacks `swap` and `cas` of eight bytes; and one whose page has key slot 1, with its block under some key. -/
def lacks (r : Req) : State := { home r with lacking := [lackNo 10 8, lackNo (AmoOp.code .swap) 8] }
def keyed (r : Req) (keys : List (Nat × Nat)) : State :=
  withMsg (withPage { s0 with mem := { s0.mem with keys := keys } } { pageAt 0 0 true with key := 1 }) (asks r)
def member (posted : Bool) : Member := ⟨9, 5, 0, 16, 3, posted, false, 1, 0⟩
theorem witness_HomeAccesses : (∀ r, (home r).Serves 0 (asks r)) ∧ { asks (.store 8 1) with ack := true }.ack = true ∧
    (member false).operand < 2 ^ (8 * 4) ∧ (member false).posted = false ∧ (member true).posted = true ∧
    (∀ r ∈ [Req.cas 8 1 2, .amo .swap 8 [member false]], (asks r).posted = false ∧
      ∀ op ∈ [10, AmoOp.code .swap], (home r).lacks (asks r) op 8 = false ∧ (lacks r).lacks (asks r) op 8 = true) ∧
    ((unmapped (asks (.load 8 true))).arrived 0 = some (asks (.load 8 true)) ∧
      (unmapped (asks (.load 8 true))).refuses (asks (.load 8 true)) 8 = true ∧
      (unmapped (asks (.load 8 true))).installed 0x40000000 8 = true) ∧
    (let m := { asks (.store 8 1) with posted := true }
     (unmapped m).arrived 0 = some m ∧ (unmapped m).refuses m 8 = true ∧ m.posted = true) ∧
    (let m := asks (.load 8 true)
     (∀ x ∈ [[], [(0x40000000, 1)], [(0x40000000, 0)]], (keyed (.load 8 true) x).pageFor m.pkg m.booth m.va =
       some { pageAt 0 0 true with key := 1 } ∧ (keyed (.load 8 true) x).keyId m.pkg 1 = 1) ∧ 2 ^ 64 ≤ (msg .ack).ga) :=
  ⟨serves, rfl, by decide⟩
/-- The home with a block of age 5 that thread 7 wrote, and with the word full. -/
def aged (r : Req) (stops : List Nat) : State :=
  { home r with mem := Memory.empty.setBlock 0x40000000 ⟨5, 7⟩, stops := [(1, stops)] }
theorem witness_HomeSynchronisation : (∀ r, (home r).Serves 0 (asks r)) ∧ (asks (.sync .ldf 0 64 0)).ga % 8 = 0 ∧
    (asks (.sync .ldf 0 64 0)).src ≠ (asks (.sync .ldf 0 64 0)).dst ∧ (∀ r, (home r).feWait = [] ∧ (home r).agedWait = []) ∧
    (home (.sync .ldf 0 64 0)).mem.isFull 0x40000000 = false ∧
    (∃ e ∈ syncRows, e.needs = none) ∧ (∃ e ∈ syncRows, e.needs = some false) ∧ (∃ e ∈ syncRows, e.needs = some true) ∧
    (∀ r l, (aged r l).Serves 0 (asks r)) ∧ (let b := (aged (.lda 0 true 2 7 0) [7]).mem.block 0x40000000
      7 ≤ b.age + 2 ∧ b.age + 1 < 7 ∧ s0.stops = [] ∧ [7].contains b.writer = true ∧ [8].contains b.writer = false ∧ 4 < b.age ∧ b.age ≤ 5) := by
  refine ⟨serves, by decide, by decide, fun _ => ⟨rfl, rfl⟩, by decide, ?_, ?_, ?_, fun r _ => ⟨rfl, mapped _ r rfl (mapped_home r), rfl⟩, by decide⟩
  · simp [syncRows]
  · simp [syncRows]
  · simp [syncRows]
def answered (b : Body) : State := withMsg (running 0 { t0 with wait := .reply 9 }) (msg b)
theorem witness_RepliesReachTheirThreads : ∀ b ∈ [Body.reply ⟨some 7, some 3, none, 0, 0⟩, .reply ⟨some 7, none, none, 0, 0⟩, .trapReply 0x13 5],
    let t := { t0 with wait := .reply 9 }
    let s := { answered b with booths := [(1, { BoothCore.init with tvec := 0x8000 })] }
    (s.arrived 0 = some (msg b) ∧ (msg b).party = .core ∧ s.thread 5 = some t ∧ t.place = .slot ∧
      (s.slot t.key).regs.stream (msg b).d = none ∧ t.ctx.th = false ∧ (s.bc (t.key / 16) t.booth).tvec ≠ 0 ∧
      (msg b).dst = t.key / 16 ∧ (msg b).booth = t.booth) ∧ t.Plain := by
  simp only [List.forall_mem_cons]
  exact ⟨⟨by decide, rfl, rfl⟩, ⟨by decide, rfl, rfl⟩, ⟨by decide, rfl, rfl⟩, nofun⟩
def windowed (window clean sincecut : Nat) : BoothCore := { BoothCore.init with win := ⟨window, clean, sincecut, 1⟩ }
theorem witness_CreditsAndAcknowledgements :
    (∀ w ∈ [windowed 64 63 0, windowed 2 0 0, windowed 64 0 64, windowed 64 0 63], ∀ mark : Bool,
      ({ withMsg s0 { msg (.credit 1) with mark := mark } with booths := [(1, w)] } : State).arrived 0 =
        some { msg (.credit 1) with mark := mark }) ∧
    (windowed 64 63 0).win.window ≤ (windowed 64 63 0).win.clean + 1 ∧ (windowed 2 0 0).win.clean + 1 < (windowed 2 0 0).win.window ∧
    (windowed 64 0 64).win.window ≤ (windowed 64 0 64).win.sincecut ∧ (windowed 64 0 63).win.sincecut < (windowed 64 0 63).win.window ∧
    (∀ b ∈ [Body.ack, .refusal 0x10000], (withMsg s0 (msg b)).arrived 0 = some (msg b) ∧ (msg b).party = .core ∧
      (withMsg s0 (msg b)).thread 5 = some t0) ∧
    t0.wait = .idle ∧ t0.refusal = none ∧ ({ msg (.refusal 1) with src := 0 }).src = t0.key / 16 ∧
    pkgOf (mkCid false 1 0 0 0) ≠ pkgOf (t0.key / 16) ∧
    (let e := (0 * 2 ^ 32 + (2 ^ 26 - 1) * 64 + 63, 4, true, 0)
     let s := { s0 with uncredited := [e], cycle := 32 }
     s.uncredited[0]? = some e ∧ 0 + 32 ≤ s.cycle) := by decide
/-- A parked request, and a thread that a full channel keeps. -/
def parked (r : Req) : Parked := ⟨asks r, 0, 65⟩
def tb : Thread := { t0 with wait := .send 9 0 10 0 31 }
/-- A thread that waits for a walk of its cluster, behind three others. -/
def walked (maps : List (Nat × List Page)) : State :=
  { running 0 { t0 with wait := .retry (.walk 0 1 0x10000 0x09 0x10000) } with
    walks := List.replicate 3 ⟨0, 1, 0x900000⟩ ++ [⟨0, 1, 0x10000⟩]
    maps := maps
    booths := [(1, { BoothCore.init with tvec := 0x8000 })] }
theorem witness_LimitsNoticesAndWalks :
    ((64 : Nat) < (parked (.sync .ldf 0 64 10)).tries ∧ (parked (.sync .ldf 0 64 10)).since + 10 ≤ 10 ∧
      (parked (.sync .ldf 0 64 10)).msg.src ≠ (parked (.sync .ldf 0 64 10)).msg.dst) ∧
    ({ s0 with feWait := [parked (.sync .ldf 0 64 10)] } : State).feWait[0]? = some (parked (.sync .ldf 0 64 10)) ∧
    ({ s0 with agedWait := [parked (.lda 0 true 0 9 10)] } : State).agedWait[0]? = some (parked (.lda 0 true 0 9 10)) ∧
    (parked (.lda 0 true 0 9 10)).msg.party = .core ∧ (withMsg s0 (msg (.stop 7))).arrived 0 = some (msg (.stop 7)) ∧ (7 : Nat) ≠ 0 ∧ s0.agedWait = [] ∧
    (let p := parked (.lda 0 true 0 9 10)
     p.msg.dst = (msg (.stop 7)).dst ∧ p.msg.booth = (msg (.stop 7)).booth ∧ ((aged (.lda 0 true 0 9 10) []).mem.block p.msg.ga).writer = 7) ∧
    (let s := { running 0 tb with
      cycle := 10
      booths := [(1, { BoothCore.init with tvec := 0x8000 })]
      chans := [(32 + 31, { Chan.init with senders := [msg (.chan 31 [1, 2, 3, 4])] })] }
     s.thread 5 = some tb ∧ tb.place = .slot ∧ tb.ctx.th = false ∧ (s.bc (tb.key / 16) tb.booth).tvec ≠ 0 ∧
       (s.chan 0 tb.booth 31).senders = [msg (.chan 31 [1, 2, 3, 4])] ∧ (msg (.chan 31 [1, 2, 3, 4])).mid = 9) ∧
    (let t := { t0 with wait := .retry (.walk 0 1 0x10000 0x09 0x10000) }
     (∀ s ∈ [walked [], walked [(1, [pageAt 16 0 true])]], s.walks[3]? = some ⟨0, 1, 0x10000⟩ ∧ s.threads = [(5, t)] ∧
       ((s.walks.take 3).filter (fun x => x.cluster == 0)).length < 4 ∧ t.place = .slot ∧ t.ctx.th = false ∧
       (s.bc (t.key / 16) t.booth).tvec ≠ 0) ∧ (walked []).pageFor 0 1 0x10000 = none ∧
     (walked [(1, [pageAt 16 0 true])]).pageFor 0 1 0x10000 = some (pageAt 16 0 true)) := by decide

/-- An engine in the run of a thread, and two requests of other groups. -/
def mrun (op key : Nat) : MRun := ⟨5, key, 1, op, 0, BitVec.ofNat 64 winBase, BitVec.ofNat 64 winBase, 0, false, 1, 0, 0, Sampled.zero, 0, false, []⟩
def tr : Thread := { t0 with wait := .run }
def inRun (r : MRun) : State :=
  let s := running 0 tr
  { s with cores := [(0, { s.core 0 with mrun := some r })] }
def asked : State :=
  let s := running 0 tr
  { s with cores := [(0, { s.core 0 with mlast := 3, mreqs := [mrun 1 4, mrun 1 0] })] }
theorem running_of (r : MRun) (hu : r.uid = 5) (hk : r.key = 0) : (inRun r).Running 0 r tr :=
  ⟨rfl, by rw [hu]; rfl, rfl, hk.symm, by rw [hk], rfl, rfl, rfl⟩
def ringRun : MRun := { mrun 2 0 with mdb := BitVec.ofNat 64 (2 ^ 61), k := 256, units := [] }
theorem witness_MatrixRuns : ((asked.core 0).mrun = none ∧ (asked.core 0).lost = false ∧ (asked.core 0).mlast < 4 ∧
    (asked.core 0).mreqs = [mrun 1 4, mrun 1 0] ∧ groupOf (mrun 1 0).key = ((asked.core 0).mlast + 1) % 4 ∧
    groupOf (mrun 1 4).key ≠ groupOf (mrun 1 0).key ∧ (mrun 1 0).op ∉ [2, 8] ∧ asked.thread 5 = some tr ∧ tr.place = .slot) ∧
    (∀ op ∈ [1, 2, 3, 6, 9, 10], (inRun (mrun op 0)).Running 0 (mrun op 0) tr) ∧ (rising ((inRun (mrun 2 0)).core 0).acc = true ∧
    (mrun 2 0).mda.toNat / 2 ^ 62 = 0 ∧ (mrun 2 0).mda.getLsbD 60 = false ∧ (mrun 2 0).mdb.getLsbD 61 = false ∧ (mrun 2 0).mode = false) ∧
    (inRun ringRun).Running 0 ringRun tr ∧ ringRun.mdb.getLsbD 61 = true ∧ ((inRun ringRun).slot 0).opb = [] ∧
    ringRun.units.length < ringRun.k ∧ ringRun.since + 4096 ≤ ({ inRun ringRun with cycle := 4096 } : State).cycle :=
  ⟨by decide, fun op _ => running_of _ rfl rfl, by decide, running_of _ rfl rfl, by decide⟩

/-- A fill, a copy and a fetch of one unit in the window or the page; runs of them in the queue of booth 1. -/
def fill0 : Cmd := { cmd0 with fn := 3 * 2 ^ 9, wb := 0x12345678 }
def fetch0 : Cmd := { cmd0 with fn := 4 * 2 ^ 9, wa := 0x10000, wb := 0x100, it := 9 }
def run0 (c : Cmd) (todo chunks : List Nat) (obj : Option Nat) : Run := ⟨c, [], todo, chunks, [], [], [], obj, 0, 8, 8, [], 0, 0⟩
def engine (q : VQueue) : State := { withPage s0 (pageAt 0 0 true) with vqs := [(1, q)], cycle := 4194304, turns := [(0, 1)] }
def withRun (r : Run) : State := engine { VQueue.init with running := [r] }
def headed (f : Nat) (hs : Vector (Option Nat) 8) (rs : List Run) (ps : List Pulse) : State :=
  { engine { VQueue.init with queue := [{ cmd0 with fn := f }], running := rs, deficit := 2 ^ 30, handles := hs } with pulses := ps }
/-- Nothing of the engine's barriers is bound; or handle 0 to an object. -/
def noHandles : Vector (Option Nat) 8 := VQueue.init.handles
def handled : Vector (Option Nat) 8 := noHandles.set 0 (some (spad 0 128))
/-- Booth 1 has lost its banks on core 0. -/
def bankless (s : State) : State := { s with cores := [(0, { s.core 0 with owners := Vector.replicate 4 none })] }
/-- A FETCHA of one block whose request waits at its home. -/
def lagging : Run := { run0 fetch0 [] [0] none with wait := [((parked (.fetcha 0 true 0 9 0)).msg.mid, 0, 0, false)], limit := 512 }
theorem witness_CopyEngineCommands :
    (∀ x ∈ [headed (2 ^ 6) noHandles [run0 cmd0 [] [] none] [], headed (2 ^ 6) noHandles [] [⟨0, 1, 0, false⟩],
        headed (2 ^ 6) noHandles [] [⟨0, 1, 0, true⟩], headed 0 noHandles [run0 cmd0 [] [] none] [⟨0, 1, 0, false⟩], headed (2 ^ 5) noHandles [] [],
        headed (2 ^ 5) handled [] [], headed (6 * 2 ^ 9 + 2 ^ 5) noHandles [] [], headed (2 ^ 9) noHandles [] [], headed (7 * 2 ^ 9) noHandles [] [],
        bankless (headed (2 ^ 9) noHandles [] []), bankless (headed (7 * 2 ^ 9) noHandles [] [])],
      let q := getD x.vqs 1 VQueue.init
      q.queue = { cmd0 with fn := (q.queue.headD cmd0).fn } :: [] ∧ getD x.turns 0 0 = 1 ∧ (q.queue.headD cmd0).cost ≤ q.deficit ∧ x.feWait = [] ∧
      ∀ e ∈ x.vqs, ∀ r ∈ e.2.running, r.todo = [] ∧ r.vals = []) ∧
    ((2 ^ 6).testBit 6 = true ∧ (0).testBit 6 = false ∧ (0).testBit 5 = false ∧ (2 ^ 5).testBit 6 = false ∧ (2 ^ 5).testBit 5 = true ∧
      2 ^ 5 / 2 ^ 9 % 16 ≠ 6 ∧ (6 * 2 ^ 9 + 2 ^ 5).testBit 5 = true ∧ (6 * 2 ^ 9 + 2 ^ 5) / 2 ^ 9 % 16 = 6 ∧ (6 * 2 ^ 9 + 2 ^ 5).testBit 6 = false ∧
      2 ^ 9 / 2 ^ 9 % 16 = 1 ∧ 7 * 2 ^ 9 / 2 ^ 9 % 16 = 7) ∧
    (noHandles.toList[2 ^ 5 / 4 % 8]? = some none ∧ handled.toList[2 ^ 5 / 4 % 8]? = some (some (spad 0 128)) ∧ [run0 cmd0 [] [] none] ≠ [] ∧
      (∃ p ∈ [(⟨0, 1, 0, false⟩ : Pulse)], p.booth = 1 ∧ p.key / 256 = 0 ∧ p.net ≠ true) ∧
      ∀ p ∈ [(⟨0, 1, 0, true⟩ : Pulse)], p.booth = 1 → p.key / 256 = 0 → p.net = true) ∧
    (∀ n ∈ [8, 16], (headed (2 ^ 9) noHandles [] []).keeps cmd0 0 n = true ∧ (bankless (headed (2 ^ 9) noHandles [] [])).keeps cmd0 0 n = false) ∧
    (cmd0.wa.toNat % 2 ^ 48 - winBase = 0 ∧ 8 * (cmd0.wa.toNat / 2 ^ 48 + 1) = 8 ∧ cmd0.wa.toNat % 2 ^ 17 = 0) ∧
    (∀ x ∈ [([0], [0]), ([], [0]), ([], [])], ∀ c ∈ [fill0, cmd0],
      (getD (withRun (run0 c x.1 x.2 none)).vqs 1 VQueue.init).running[0]? = some (run0 c x.1 x.2 none) ∧
      cmdBytes c.fn c.wa = 8 ∧ (withRun (run0 c x.1 x.2 none)).ownsOff (c.key / 16) c.booth 64 = true) ∧
    (let r := { run0 cmd0 [] [0] none with wait := [(9, 0, 0, false)] }
     (r.inChunk 0 0 = true ∧ 0 < r.limit) ∧ ∀ w ∈ ({ r with limit := 0 } : Run).wait, w.2.2.2 = false ∧ ({ r with limit := 0 } : Run).limit ≤ w.2.1) ∧
    (fill0.wa.toNat % 2 ^ 48 = winBase + 0 ∧ fill0.fn / 2 ^ 9 % 16 = 3 ∧ cmd0.fn / 2 ^ 9 % 16 = 0 ∧
      cmd0.wb.toNat % 2 ^ 48 = winBase + 64 ∧ cmd0.wa.toNat % 2 ^ 48 = winBase + 0) ∧
    (∀ ex ∈ [8, 16], let r := { run0 fill0 [] [0] (some (spad 0 128)) with done := [0] }
     let s := { withRun r with mem := Memory.empty.write (spad 0 128) 8 (ex * 2 ^ 32) }
     r.done = [0] ∧ r.limit = 8 ∧ 128 % 8 = 0 ∧ s.mem.read (spad 0 128) 8 = ex * 2 ^ 32 + 0 ∧ s.feWait = [] ∧ rising s.mem.bytes = true ∧
       s.ownsOff (r.cmd.key / 16) r.cmd.booth 128 = true) ∧
    (0 + 8 < 16 ∧ 0 + 8 = 8 ∧
      let s := { withRun (run0 { fill0 with wa := BitVec.ofNat 64 (winBase + 2 ^ 16) } [] [0] (some (spad 0 128))) with
        cores := [(0, { s0.core 0 with owners := #v[none, some 1, some 1, some 1] })] }
      s.ownsOff 0 1 (2 ^ 16) = true ∧ s.ownsOff 0 1 128 = false) ∧
    ((withRun (run0 cmd0 [] [] none)).thread cmd0.uid = some t0 ∧ t0.wait = .idle ∧ t0.moves = cmd0.moves ∧
      (run0 cmd0 [] [] none).stale = 0) ∧
    (let s := { withRun lagging with agedWait := [parked (.fetcha 0 true 0 9 0)] }
     (getD s.vqs 1 VQueue.init).running[0]? = some lagging ∧ s.agedWait = [parked (.fetcha 0 true 0 9 0)] ∧
       lagging.wait = [((parked (.fetcha 0 true 0 9 0)).msg.mid, 0, 0, false)] ∧ fetch0.agewait ≠ 0 ∧ 0 + fetch0.agewait ≤ s.cycle ∧
       0 < lagging.limit) := by
  and_intros <;> first | rfl | decide

/-- An endpoint of booth 1 on die 0 with one peer on die 1, in contexts of the two that have a number, and packets between them. -/
def peer0 : Peer := ⟨200, 1, 2, 0, 1, 0⟩
def ep0 : Endpoint := ⟨0, 3, 4, 0, true, true, 0x10000, 8, false, 0, 1, 10, [peer0],
  [(0, { Pdc.init with unacked := 1, cum := 5, id := 7, peerId := 7, refused := [(3, 2)] })], false⟩
def ncmd (op : Nat) (wa : Word) : NCmd := ⟨op * 2 ^ 9, wa, 0, 5, edge0 * 16, 1, none, false, 0, 0, []⟩
def nrun (op missing : Nat) (out : List NPkt) : NRun := ⟨ncmd op 0, op, 0, 0, winBase, 8, 0, false, 0, false, 0, 0, 1, 6, out, missing, 0, 0, 0⟩
def npkt (tries : Nat) : NPkt := ⟨0, 4, 0, tries, 0⟩
def pkt (psn ctx : Nat) (b : EBody) : EPkt := ⟨4, 200, 1, 2, 0, 3, 4, psn, ctx, .rud, 6, b⟩
def wire (q : NQueue) (xs : List EPkt) : State :=
  { se with
    nqs := [(1, { q with eps := [(0, ep0)] })]
    ether := xs
    etherAddrs := [(0, 100), (4, 200)]
    maps := [(1, [pageAt 0 0 true])]
    mem := ((Memory.empty.write (spad edge0 0) 8 (3 * 2 ^ 60 + winBase + 64)).write (spad edge0 8) 8 8).write (spad edge0 136) 8 (2 ^ 27)
    nturns := [(0, 1)]
    cycle := 600 }
def starting (op : Nat) (wa : Word) : State := wire { NQueue.init with queue := [ncmd op wa], ctrs := [(1, 7)], deficit := 8 } []
/-- Endpoint 0 before any packet of its peer, in a context with any of two packets; a write of eight bytes to its region. -/
def ep1 (peerId : Nat) : Endpoint := { ep0 with pdcs := [(0, { Pdc.init with peerId := peerId })] }
def write8 (psn ctx : Nat) : EPkt := pkt psn ctx (.data 2 0 0 0 0 1 8 false 0 8 7)
def target (e : Endpoint) (x : EPkt) : State := { wire NQueue.init [x] with nqs := [(1, { NQueue.init with eps := [(0, e)] })] }
theorem witness_NetworkEngine :
    (∀ op ∈ [0, 3, 4, 5], ((starting op 0).nq 1).queue = ncmd op 0 :: [] ∧ ((starting op 0).nq 1).jobs = [] ∧
      getD (starting op 0).nturns 0 0 = 1 ∧ (starting op 0).thread 5 = some te ∧ (ncmd op 0).fn / 2 ^ 9 % 16 = op ∧
      ((starting op 0).nq 1).running = [] ∧ (starting op 0).threads = [(5, te)]) ∧
    (te.wait = .idle ∧ rising ((starting 4 0).nq 1).ctrs = true ∧ 7 ≤ getD ((starting 5 0).nq 1).ctrs 1 0 ∧
      getD ((starting 5 0).nq 1).ctrs 1 0 < 8 ∧ (starting 0 0).keepsBlock (ncmd 0 (BitVec.ofNat 64 (winBase + 128))) = true ∧
      ((starting 0 0).blockWord (ncmd 0 (BitVec.ofNat 64 (winBase + 128))) 1).getLsbD 27 = true ∧
      ({ starting 0 0 with cores := [] } : State).keepsBlock (ncmd 0 0) = false) ∧
    (let c := ncmd 3 (BitVec.ofNat 64 winBase)
     let s := starting 3 (BitVec.ofNat 64 winBase)
     s.keepsBlock c = true ∧ find (s.nq 1).eps (s.request c).ep = some ep0 ∧ s.badRequest c (s.request c) (some ep0) = false ∧
       ep0.peers[(s.request c).peer]? = some peer0 ∧ s.portAt peer0.addr = some 4 ∧ s.etherLost = [] ∧ (s.request c).len = 8 ∧
       8 ≤ (s.nq 1).deficit) ∧
    (∀ x ∈ [pkt 0 7 (.ack [5] []), pkt 0 7 (.ack [5] [4]), pkt 0 6 (.ack [5] [])],
      let s := wire { NQueue.init with running := [nrun 2 0 [npkt 0]] } [x]
      (s.nq 1).running = [nrun 2 0 [npkt 0]] ∧ (s.nq 1).jobs = [] ∧ s.ether[0]? = some x ∧ s.endpointAt 0 3 4 = some (1, 0, ep0) ∧
        ep0.peerFrom x = some (0, peer0) ∧ (npkt 0).sentAt + ep0.rto ≤ s.cycle ∧ s.nqs = [(1, s.nq 1)]) ∧
    ((∀ y ∈ [npkt 0], y.psn < 5 ∧ y.psn ∉ ([] : List Nat)) ∧ (npkt 0).psn ∈ [4] ∧ (ep0.pdc 0).id = 7 ∧ ep0.retry ≤ (npkt 1).tries ∧
      (npkt 0).tries < ep0.retry ∧ (nrun 2 0 []).lc = false ∧ (nrun 2 0 []).unsent = 0) ∧
    (let s := wire { NQueue.init with running := [nrun 3 1 [npkt 0]] } [pkt 0 7 (.response 0 8 1)]
     s.runOf 0 6 = some (1, nrun 3 1 [npkt 0]) ∧ winBase % 8 = 0 ∧ winBase < 2 ^ 48 ∧ (npkt 0).index = 0 ∧
       s.place (edge0 * 16 / 16) 1 false winBase true false = .ok (.window (spad edge0 0))) ∧
    (wire { NQueue.init with running := [nrun 2 0 []] } [pkt 0 7 (.refused 5 0)]).runOf 0 6 = some (1, nrun 2 0 []) ∧
    (3 < 4 ∧ 0 * 4 + 3 ∉ (wire NQueue.init []).etherLost ∧ ∀ e ∈ (wire NQueue.init []).nqs, e.2.running = []) ∧
    (∀ n ∈ [0, 7], let s := target (ep1 n) (write8 0 7)
      s.ether[0]? = some (write8 0 7) ∧ s.endpointAt 0 3 4 = some (1, 0, ep1 n) ∧ (ep1 n).peerFrom (write8 0 7) = some (0, peer0) ∧
      ((ep1 n).pdc 0).peerId = n ∧ ((ep1 n).pdc 0).cum ≤ 0 ∧ 0 ∉ ((ep1 n).pdc 0).above ∧ find ((ep1 n).pdc 0).refused 0 = none ∧
      (s.nq 1).jobs = [] ∧ (ep1 n).mw = true ∧ 0 + 8 ≤ (ep1 n).mlen ∧ (ep1 n).mbase + 0 < winBase ∧ ((ep1 n).mbase + 0) % 8 = 0 ∧
      (s.nq 1).win.outstanding < (s.nq 1).win.window) ∧
    (target (ep1 0) (write8 0 7)).place (engCore 0) (1 % 64) (ep1 0).prv ((ep1 0).mbase + 0) true false =
      .ok (.home (pageAt 0 0 true) 0x40000000) ∧
    (target (ep1 7) (write8 0 7)).place (engCore 0) (1 % 64) (ep1 7).prv ((ep1 7).mbase + 0) true false =
      .ok (.home (pageAt 0 0 true) 0x40000000) ∧
    (∀ x ∈ [write8 4 7, write8 3 7, write8 4 6, { write8 4 7 with service := .uud }], (target ep0 x).ether[0]? = some x ∧
      (target ep0 x).endpointAt (x.dst / 4) x.dstJob x.dstPid = some (1, 0, ep0) ∧ ep0.peerFrom x = some (0, peer0)) ∧
    ((ep0.pdc 0).peerId = 7 ∧ 4 < (ep0.pdc 0).cum ∧ find (ep0.pdc 0).refused 4 = none ∧ find (ep0.pdc 0).refused 3 = some 2 ∧
      (ep0.pdc 0).unacked ≠ 0 ∧ (ep0.pdc 0).since + 512 ≤ (wire NQueue.init []).cycle ∧ (wire NQueue.init []).portAt peer0.addr = some 4 ∧
      (wire NQueue.init []).endpointAt 0 9 9 = none ∧ ep0.peerFrom { write8 4 7 with srcAddr := 1 } = none) ∧
    (let q := { NQueue.init with due := [1], ctrs := [(1, 7)] }
     16384 ≤ 16384 ∧ q.due = 1 :: [] ∧ rising q.ctrs = true ∧ getD q.ctrs 1 0 < 2 ^ 48 - 1) := by
  and_intros <;> first | rfl | decide

/-- A context in flight to slot 0, whose core holds some waiting contexts; and threads of booth 1 that wait elsewhere. -/
def tx : Thread := { t0 with place := .flight, wait := .migrating 9 }
def saved (u : Nat) : Saved := ⟨u, SlotRegs.zero, false⟩
def arriving (ph : Phase) (sh : Shadow) (waiting : List Nat) : State :=
  let s := withMsg (running 0 tx) (msg .context)
  { s with
    slots := [(0, { Slot.init with phase := ph, shadow := sh })]
    threads := (5, tx) :: waiting.map (fun u => (u, { t0 with key := 1, place := .arrival }))
    cores := [(0, { s.core 0 with arrivals := waiting.map saved })] }
/-- Channel 31 of core 0 with some messages, and a message for it from a thread of some tenant. -/
def chan31 (n : Nat) : Chan := { Chan.init with bound := true, ready := true, entry := 0x2000, queue := List.replicate n [1, 2, 3, 4] }
def channel (tn : Word) (c : Chan) : State :=
  { withMsg (running 0 { t0 with tenant := tn }) (msg (.chan 31 [1, 2, 3, 4])) with
    chans := [(32 + 31, c)]
    regions := [(1, ⟨77, 15, 0, [0]⟩)] }
def freed (s : State) : State := { s with threads := [], slots := [] }
/-- A slot is free and takes what its booth has for it. -/
def free0 (s : State) : State := { s with slots := [(0, { Slot.init with shadow := (s.slot 0).shadow })] }
def resting : State :=
  { free0 s0 with
    threads := [(5, { t0 with place := .image, preempted := true })]
    images := [(1, [⟨0, 0, 0, saved 5, none⟩])] }
def landed : State :=
  { s0 with
    threads := [(5, { t0 with place := .shadow })]
    slots := [(0, { Slot.init with shadow := .arrival (saved 5) })] }
theorem witness_ArrivalsAndSlotFills :
    (∀ n ∈ [0, 7, 8], (channel 77 (chan31 n)).arrived 0 = some (msg (.chan 31 [1, 2, 3, 4])) ∧ (chan31 n).bound = true ∧
      (channel 77 (chan31 n)).inRegion 1 0 = true ∧ (channel 77 (chan31 n)).thread 5 = some { t0 with tenant := 77 } ∧
      (channel 77 (chan31 n)).chanTenant 0 1 = 77) ∧
    ((chan31 7).queue.length < 8 ∧ (chan31 7).senders = [] ∧ 8 ≤ (chan31 8).queue.length ∧
      ((channel 77 Chan.init).chan 0 1 31).bound = false ∧ t0.tenant ≠ (channel 0 (chan31 7)).chanTenant 0 1) ∧
    (∀ s ∈ [arriving .free .empty [], arriving .live .empty [], arriving .live (.spill (saved 4)) [6],
        arriving .live (.spill (saved 4)) [6, 7]], s.arrived 0 = some (msg .context) ∧
      s.thread 5 = some tx ∧ s.handovers = [] ∧ s.queuedFor 0 = false ∧ s.slotTenant 1 0 = tx.tenant ∧ s.slotBooth 0 = some 1) ∧
    (tx.pendTrap = none ∧ (arriving .live (.spill (saved 4)) [6]).arrivalsOf 0 1 < 2 ∧
      2 ≤ (arriving .live (.spill (saved 4)) [6, 7]).arrivalsOf 0 1) ∧
    (∀ x ∈ [freed (channel 77 (chan31 1)), { freed sj with launches := [(3, { launch with next := 0 })] }, resting, landed],
      (x.slot 0).phase = .free ∧ (x.core 0).lost = false ∧ x.preempts = [] ∧ x.slotBooth 0 = some 1 ∧ (x.boothPkg 0 1).frozen = false) ∧
    (let s := freed (channel 77 (chan31 1))
     s.sourceFor 1 0 = some (.message 31) ∧ (s.chan 0 1 31).senders = []) ∧
    (let s := { freed sj with launches := [(3, { launch with next := 0 })] }
     s.sourceFor 1 0 = some (.packet ⟨3, 0, 0x2000, [], 0, false, 0⟩) ∧ find s.launches 3 = some { launch with next := 0 }) ∧
    (resting.sourceFor 1 0 = some (.saved 1 5) ∧ ((getD resting.images 1 []).find? (fun i => i.saved.uid == 5)).map (·.bank) = some none ∧
      (resting.thread 5).map (fun t => (t.pendTrap, t.wait)) = some (none, .idle)) ∧
    (landed.sourceFor 1 0 = some (.migrated 5) ∧ (landed.thread 5).map (·.pendTrap) = some none) := by
  and_intros <;> first | rfl | decide
/-- A launch that has ended, one that has not begun, and a thread of priority 3 in every slot while one of priority 0 waits. -/
def ended : Launch := { launch with compl := 0x10000, live := 0, next := 1, rop := 0 }
def urgent : Launch := { launch with prio := 0, next := 0 }
def full : State := { sj with
  launches := [(3, launch), (4, urgent)]
  threads := (List.range 16).map (fun i => (5 + i, { tj with key := i }))
  slots := (List.range 16).map (fun i => (i, { Slot.init with phase := .live, run := some (5 + i) })) }
def urgentPacket : Packet := ⟨4, 0, 0x2000, [], 0, false, 0⟩
/-- A slot that is to be swapped: for a packet of the urgent launch, or by its thread that yields while that launch waits or not. -/
def swapping (t : Thread) (ps : List Preempt) (ls : List (Nat × Launch)) : State :=
  { running 0 t with preempts := ps, launches := ls, regions := sj.regions, nextUid := 6 }
def spilling (areas : List (Nat × Nat)) : State :=
  { s0 with slots := [(0, { Slot.init with shadow := .spill (saved 5) })], spillAreas := areas }
theorem witness_LaunchEndsAndPreemption :
    (let s := { withPage sj (pageAt 0 0 true) with launches := [(3, ended)] }
     find s.launches 3 = some ended ∧ s.unstarted 3 ended = 0 ∧ ended.live = 0 ∧ s.commandsOf 3 ended.torn = false ∧
       s.straysFly ended = false ∧ s.dispPage 0 1 ended.compl 64 ended.sup true true = some (pageAt 0 0 true) ∧
       (0x40000000 + (ended.compl - 0x10000)) % 8 = 0 ∧ ended.rop = 0 ∧ ended.first = none ∧ ended.nfault < 2 ^ 48 ∧
       ended.lowit = none ∧ ended.ndone < 2 ^ 48 ∧ ended.nskip < 2 ^ 48 ∧ ended.seq < 2 ^ 64 ∧ s.feWait = []) ∧
    (let l := { launch with deadline := some 5 }
     l.deadline = some 5 ∧ 5 ≤ 5 ∧ l.expired = false) ∧
    (full.waitingPrio 1 = some 0 ∧ full.packetOn 0 1 0 = some urgentPacket ∧ find full.launches 4 = some urgent ∧
      (∀ i < 16, (full.slot (0 * 16 + i)).phase ≠ .free) ∧
      full.imagesTaken 0 1 < 64 ∧ (full.boothPkg 0 1).frozen = false ∧ (full.victim 0 1 0 urgentPacket).isSome = true) ∧
    (∀ s ∈ [swapping tj [⟨0, urgentPacket⟩] [(4, urgent)], swapping { t0 with wait := .yielding } [] [],
        swapping { t0 with wait := .yielding } [] [(4, urgent)]],
      s.slotBooth 0 = some 1 ∧ (s.boothPkg 0 1).frozen = false ∧ (s.slot 0).phase = .live ∧ (s.slot 0).run = some 5 ∧
        (s.slot 0).shadow = .empty ∧ (∀ i : Fin 4, (s.slot 0).regs.streams[i] = none) ∧ 5 ≠ s.nextUid) ∧
    (urgent.prio < tj.job.prio ∧ (swapping { t0 with wait := .yielding } [] []).sourceFor 1 0 = none ∧
      (swapping { t0 with wait := .yielding } [] [(4, urgent)]).sourceFor 1 0 = some (.packet urgentPacket)) ∧
    ({ t0 with wait := .yielding } : Thread).Plain ∧
    ∀ a ∈ [[], [(1, 0x40000000)]], ((spilling a).slot 0).shadow = .spill (saved 5) ∧ (spilling a).thread 5 = some t0 ∧ t0.sfuPend = 0 ∧
      0x40000000 % 512 = 0 ∧ freePlace (getD (spilling a).images 1 []) < 64 := by
  and_intros <;> first | rfl | decide

/-- A handover of booth 1 on package 0. -/
def hand (slots stores : List (Nat × HPhase)) (pages : List (Nat × Nat)) (cleared gang : Bool) (tick : Option Nat) (misses : Nat) : Handover :=
  ⟨0, 1, 4, 77, 88, 5, 0, 0, 15, [0], 0, 0, slots, stores, pages, cleared, 0, 0, [], gang, 0, tick, misses, false, [], false⟩
def handing (h : Handover) : State := { s0 with handovers := [(2, h)], regions := [(1, ⟨77, 15, 0, [0]⟩)], cycle := 2 ^ 17 }
def receipt0 : Receipt := ⟨0, 0, 1, 0, 0, 77, 88, 5, 0, 15, [0], 1, 1, 2048, 0, 0, 0, false, []⟩
/-- Handovers at each point: SAVE, SCRUB and LOAD of slot 1, the store of group 0, and the pages; the last LOAD of all. -/
def toSave : Handover := hand [(1, .todo)] [] [(0x40000000, 4096)] false false none 0
def toScrub : Handover := hand [(1, .saved)] [] [(0x40000000, 4096)] false false none 0
def toLoad : Handover := hand [(1, .scrubbed)] [] [] true false none 0
def toStore : Handover := hand [(1, .loaded)] [(0, .todo)] [] true false none 0
def ganged (ph : HPhase) (tick : Option Nat) (misses : Nat) : Handover := hand [(0, ph)] [] [] false true tick misses
theorem witness_HandoverSteps :
    (∀ h ∈ [toSave, toScrub, toLoad, { toLoad with receipt := true }, toStore, ganged .todo none 0, ganged .todo (some (2 ^ 17)) 1,
        ganged .todo (some (2 ^ 17)) 2, ganged .saved (some (2 ^ 17)) 0], find (handing h).handovers 2 = some h ∧
      (handing h).handovers = [(2, h)] ∧ (handing h).areas = [] ∧ (handing h).feWait = [] ∧ h.saveIn = 0 ∧ h.agreed = false ∧
      ((handing h).boothPkg h.pkg h.booth).frozen = false ∧ (handing h).region h.pkg h.booth = some ⟨77, 15, 0, [0]⟩) ∧
    (toSave.phaseOf 1 = some .todo ∧ toSave.gang = false ∧ toSave.turnOf 1 = true ∧ (handing toSave).saveWaits 1 = false) ∧
    (let h := { ganged .todo (some (2 ^ 18)) 0 with slots := [(0, .todo)] }
     h.phaseOf 0 = some .todo ∧ h.gang = true ∧ h.tick ≠ none ∧ (handing h).saveWaits 0 = false ∧ ((handing h).slot 0).run = some 5 ∧
       (handing h).thread 5 = some t0) ∧
    (toScrub.phaseOf 1 = some .saved ∧ toScrub.turnOf 1 = true ∧ toLoad.phaseOf 1 = some .scrubbed ∧
      (∀ e ∈ toLoad.slots, e.1 = 1 ∨ e.2 = .loaded) ∧ (∀ e ∈ toLoad.stores, e.2 = .loaded) ∧
      ∀ m ∈ (handing toLoad).net, m.body ≠ .context) ∧
    ((toStore.stores.find? (fun e => e.1 == 0)).map Prod.snd = some .todo ∧ (∀ e ∈ toStore.slots, e.2 = .loaded) ∧
      (handing toStore).storeBusy 0 0 = false ∧ (∀ e ∈ toStore.stores, e.1 = 0 ∨ e.2 = .loaded) ∧ toStore.cleared = true ∧
      toStore.receipt = false) ∧
    (toSave.pages = [(0x40000000, 4096)] ∧ toSave.cleared = false ∧ (∃ e ∈ toSave.slots, e.2 = .todo ∨ e.2 = .saved) ∧
      0x40000000 % 512 = 0 ∧ 4096 % 512 = 0) ∧
    ((handing toScrub).cmdsFrom 1 false = false ∧
      ({ handing toScrub with vqs := [(1, { VQueue.init with queue := [{ cmd0 with key := 1 }] })] } : State).cmdsFrom 1 false = true ∧
      ∀ e ∈ (handing toLoad).threads, e.2.key ≠ 1) ∧
    (∀ x ∈ [(0, Gang.init), (2 ^ 20, Gang.init), (0, { Gang.init with next := some (2 ^ 20, 2 ^ 10, 9) }),
        (2 ^ 18, { Gang.init with next := some (2 ^ 20, 2 ^ 10, 9) })],
      let h := { ganged .todo none 0 with last := x.1 }
      let s (c : Nat) : State := { handing h with gangs := [(1, x.2)], cycle := c }
      let due := match x.2.next with
        | none => (h.last / x.2.gtick + 1) * x.2.gtick
        | some (t, _, c) => if h.last < (c / x.2.gtick + 1) * x.2.gtick then (h.last / x.2.gtick + 1) * x.2.gtick else (h.last / t + 1) * t
      h.tick = none ∧ h.gang = true ∧ h.agreed = false ∧ find (s due).handovers 2 = some h ∧ getD (s due).gangs (0 * 64 + 1) Gang.init = x.2 ∧
        (s 5).cycle < due ∧ due ≤ (s due).cycle) ∧
    ((∀ n ∈ [1, 2], (ganged .todo (some (2 ^ 17)) n).tick = some (2 ^ 17) ∧ (∃ e ∈ (ganged .todo (some (2 ^ 17)) n).slots, e.2 ≠ .saved) ∧
      2 ^ 17 ≤ (handing (ganged .todo (some (2 ^ 17)) n)).cycle) ∧ ∀ e ∈ (ganged .saved (some (2 ^ 17)) 0).slots, e.2 = .saved) ∧
    (∀ s ∈ [s0, owned s0], ({ s with receipts := [receipt0] } : State).receipts[0]? = some receipt0 ∧ receipt0.written = false) ∧
    ((getD (s0.pkg receipt0.pkg).owners receipt0.booth (0, 0)).1.getLsbD 63 = false ∧
      (getD ((owned s0).pkg receipt0.pkg).owners receipt0.booth (0, 0)).1.getLsbD 63 = true) := by
  and_intros <;> first | rfl | decide

/-- Booth 1 on die 0 of package 0 with its region, frozen or not, and what it waits for. -/
def reg0 : Region := ⟨77, 15, 0, [0]⟩
def failing (b : BoothPkg) : State := { s0 with regions := [(1, reg0)], boothPkgs := [(1, b)] }
def jentry (state : Nat) (fence : Bool) : JEntry := ⟨2, state, 1, 0, 0, 0, 0, 0, [], [BitVec.ofNat 64 (2 * 2 ^ 56)], 0, fence⟩
def journalled (b : BoothPkg) (e : JEntry) : State :=
  { failing b with pkgs := [(0, { Pkg.init with rails := railOrder, jseq := 3, journal := [(2, e)] })] }
/-- A posted store with three switches to go from core 0 to core 16, in its injection buffer, or past the first of them. -/
def crossing : Msg := { msg (.req (.store 8 1)) with src := 0, dst := 16, left := 3, que := injectQueue 0 0 }
def under : Msg := { crossing with done := 1, left := 2, que := queueNo (switchNo 1 0) 64, inp := queueNo 0 1 }
theorem witness_FailuresAndResets :
    ((failing BoothPkg.init).regions = [(0 * 64 + 1, reg0)] ∧ 1 < 64) ∧
    (let s := { failing BoothPkg.init with maps := [(1, [pageAt 0 0 true])] }
     s.maps = [(0 * 64 + 1, [pageAt 0 0 true])] ∧ (pageAt 0 0 true).base ≤ 0x40000200 ∧
       0x40000200 < (pageAt 0 0 true).base + (pageAt 0 0 true).size ∧ 0x40000200 / 2 ^ 52 = 0 ∧ 0x40000200 % 512 = 0) ∧
    (∀ u ∈ [(0, LostUnit.core), (0, .copy), (edge0 / 16, .net), (0, .link 1)], (failing BoothPkg.init).losable u.1 u.2 = true) ∧
    ((∀ u ∈ [LostUnit.core, .copy], 1 ∈ (failing BoothPkg.init).served 0 u) ∧
      crossing.que ∈ (withMsg s0 crossing).lostFeeds 0 .core ∧ crossing.done = 0 ∧ (withMsg s0 under).midPath under (queueNo 0 1) = true ∧
      queueNo 0 1 ∈ (withMsg s0 under).lostFeeds 0 (.link 1)) ∧
    (let s := { running 0 { t0 with wait := .reply 9 } with regions := [(1, reg0)], cycle := 2 ^ 26 }
     s.slots = [(0, s.slot 0)] ∧ s.slotBooth 0 = some 1 ∧ (s.slot 0).run = some 5 ∧ s.thread 5 = some { t0 with wait := .reply 9 } ∧
       ∀ c ∈ reg0.cores, (s.bc c 1).last + 2 ^ 26 ≤ s.cycle) ∧
    (let b := { BoothPkg.init with frozen := true, reset := true }
     let s := failing b
     s.boothPkg 0 1 = b ∧ b.exhausted = false ∧ b.lost = [] ∧ s.handovers = [] ∧ ∀ c ∈ reg0.cores, (s.core c).lost = false) ∧
    (let b := { BoothPkg.init with toReplay := [2] }
     let s := journalled b (jentry 0 true)
     s.boothPkg 0 1 = b ∧ b.frozen = false ∧ find (s.pkg 0).journal 2 = some (jentry 0 true) ∧
       (dw (jentry 0 true).cmd 0).toNat / 2 ^ 56 = 2) ∧
    (let b := { BoothPkg.init with resize := some (2, { reg0 with groups := 7 }) }
     let s := journalled b (jentry 3 true)
     s.boothPkg 0 1 = b ∧ s.fenceReady 0 1 2 = true ∧ s.preempts = [] ∧
       s.departWaits (s.departing 0 1 { reg0 with groups := 7 }) = false ∧ s.departing 0 1 { reg0 with groups := 7 } ≠ []) ∧
    (let s := journalled BoothPkg.init (jentry 3 true)
     find (s.pkg 0).journal 2 = some (jentry 3 true) ∧ s.fenceReady 0 (jentry 3 true).booth 2 = true) := by
  and_intros <;> first | rfl | decide

/-- Two `amo.add` runs from cores 0 and 16 to core 256 that meet in the switch of their quadrant: one waits in its output queue, one
comes from the other cluster's switch. -/
def adder (src mid done que : Nat) (posted : Bool) : Msg :=
  { msg (.req (.amo .add 8 [⟨mid, 5, 2 ^ 31, src, 3, posted, false, 1, 0⟩])) with
    mid := mid, src := src, dst := 256, done, left := 3 - done, que }
def meetPort : Nat := queueNo (switchNo 1 0) (downPort 16)
def meeting : State := { s0 with net := [adder 0 7 2 meetPort false, adder 16 8 1 (queueNo 1 0) false] }
def joined (a b : Bool) : Msg :=
  { msg (.combReply 8 [⟨7, 5, 2 ^ 31, 0, 3, a, false, 1, 0⟩, ⟨8, 6, 2 ^ 31, 16, 4, b, false, 2, 1⟩] 40) with done := 1, left := 2 }
theorem witness_SwitchesAndCombining :
    (∀ x ∈ [(withMsg s0 crossing, crossing, 0, 0, 0), (meeting, adder 16 8 1 (queueNo 1 0) false, 1, switchNo 1 0, meetPort)],
      let s := x.1
      let m := x.2.1
      waitingAt m.que m.chan s.net 0 = some x.2.2.1 ∧ s.net[x.2.2.1]? = some m ∧ (s.route m.src m.dst)[m.done]? = some x.2.2.2.1 ∧ m.left ≠ 0 ∧ m.cut = false ∧ s.behind x.2.2.1 m = false ∧
        s.mayLeave m x.2.2.2.1 = true ∧ s.shared m = true ∧ s.inputRoom m.que m.chan m.flits = true ∧
        (s.tableUsed m x.2.2.2.1 (s.route m.src m.dst)[m.done + 1]?).outQueue m x.2.2.2.1 (s.route m.src m.dst)[m.done + 1]? =
          some x.2.2.2.2) ∧
    (let j := adder 0 7 2 meetPort false
     let m := adder 16 8 1 (queueNo 1 0) false
     meeting.net = [j, m] ∧ j.que = meetPort ∧ j.booth = m.booth ∧ j.va = m.va ∧ j.chan = m.chan ∧ j.dst = m.dst ∧ j.cut = false) ∧
    ((withMsg s0 (joined false false)).net = [joined false false] ∧ (joined false false).done ≠ 0 ∧ (joined false false).cut = false) ∧
    (let s := { withMsg s0 { crossing with cut := true } with cycle := 1024 }
     s.net[0]? = some { crossing with cut := true } ∧ crossing.since + 1024 ≤ s.cycle ∧
       ({ s with cycle := 1023 } : State).cycle < crossing.since + 1024 ∧ (withMsg s0 crossing).net[0]? = some crossing) := by
  and_intros <;> first | rfl | decide

/-- A port of the package switch in each of its states, and a switch with an entry that waits for its drain report. -/
def port (x : PortStatus) : State := { s0 with pkgs := [(0, { Pkg.init with rails := railOrder, ports := [(35, x)] })] }
/-- The port before its training, with lanes that have failed and repairs. -/
def lanes (l : List Nat) (rs : List (RepairUnit × Nat)) : State :=
  { port PortStatus.init with defects := l.map (RepairUnit.lane 0 35), repairs := rs }
def drains (l : List Nat) : State := { s0 with switches := [(0, ⟨[0], [(16, 1)], l⟩)] }
theorem witness_LinksOfThePackageSwitch :
    (35 < 36 ∧ (port PortStatus.init).powered 0 = true ∧ (∀ e ∈ [(8191, 4)], 4 ≤ e.2 ∧ e.1 < 8192) ∧
      ∀ g ∈ [(4095, 47)], g.1 < 4096 ∧ g.2 < 48) ∧
    (∀ x ∈ [PortStatus.init, ⟨0, 0, 31, false, 2, false⟩, ⟨0, 0, 30, false, 1, true⟩, ⟨0, 0, 15, false, 2, false⟩,
      ⟨0, 0, 3, false, 3, false⟩, ⟨65535, 65535, 30, false, 1, true⟩], (port x).port 0 35 = x ∧ x.state ≤ 3) ∧
    (⟨0, 0, 31, false, 2, false⟩ : PortStatus).live = true ∧
    (∀ sw ∈ [switchNo 0 0, switchNo 1 0, switchNo 2 0], levelNo sw < 3 ∧ 1 ∈ s0.upPorts sw ∧
      (nextLive ((s0.upPorts sw).filter (· != 1)) 1).isSome = true ∧ s0.tableEntry sw 17 = some 1 ∧ s0.tableEntry sw 16 = some 0) ∧
    (∀ l ∈ [[], [0], [1, 2], [1, 2, 3], [0, 1, 2, 4]], let x := lanes l []
     (x.port 0 35).state < 2 ∧ (x.port 0 35).paused = false ∧ (2 ≤ 4 - (l.filter (· < 4)).length ↔ l.length < 3)) ∧
    ((lanes [0] [(.lane 0 35 0, 4)]).laneSpared 0 35 = true ∧ (lanes [0] []).laneSpared 0 35 = false ∧
      (lanes [0] []).bad (.lane 0 35 0) = true ∧ (lanes [0] []).bad (.lane 0 35 4) = false ∧ (lanes [0] []).journalFull 0 = false) ∧
    (16 ∈ ((drains [16]).switch 0).draining ∧ (∃ p ∈ (drains [16]).upPorts 0, (drains [16]).carries 0 p = true) ∧
      16 ∉ ((drains []).switch 0).draining) ∧
    (let m := msg (.drain 0 16)
     (∀ b ∈ [[], [m]], (({ drains [16] with net := [] ++ m :: b } : State).net = [] ++ m :: b ∧ m.body = .drain 0 16)) ∧
       (∃ x ∈ [m], x.body = .drain 0 16) ∧ ∀ x ∈ [msg .ack], x.body ≠ .drain 0 16) := by
  and_intros <;> first | rfl | decide
/-- Window 0 with one command of booth 1, its operands, and a record in the management space at 0x10000. -/
def command (op : Nat) (ops : List Word) : List Word := (BitVec.ofNat 64 (op * 2 ^ 56 + 2 ^ 48 + 9) :: ops) ++ List.replicate (7 - ops.length) 0
def words (ws : List Nat) : Memory := ((List.range ws.length).zip ws).foldl (fun m e => m.write (0x40000000 + 8 * e.1) 8 e.2) Memory.empty
def host (op : Nat) (ops : List Word) (ws : List Nat) (r : List (Nat × Region)) : State := { s0 with
  pkgs := [(0, { Pkg.init with rails := railOrder, windows := [(0, ⟨0, 1, false, [(0, command op ops)]⟩)] })]
  maps := [(0, [pageAt 0 0 true]), (1, [pageAt 0 0 true])], mem := words ws, regions := r }
def readingState (s : State) : State :=
  (s.setWindow 0 0 { s.window 0 0 with head := 1 }).journal 0 (entryOf 0 (getD (s.window 0 0).entries 0 []) s.cycle 0)
def oneCore : List (Nat × Region) := [(1, reg0)]
def regionWords : List Nat := [2 ^ 56 + 1, 77, 15 * 2 ^ 8]
def handoverWords : List Nat := [2 ^ 56 + 2 ^ 48 + 1, 77, 88, 5, 0, 0, 0, 0, 15 * 2 ^ 16]
/-- A booth whose teardown waits for nothing more. -/
def tearing : State := { host 4 [] [] oneCore with boothPkgs := [(1, { BoothPkg.init with frozen := true, tearing := some 1 })] }
set_option maxRecDepth 8000 in
theorem witness_CommandWindows :
    (0 < 48 ∧ (host 2 [] [] []).hostFlies = false ∧ (withMsg (host 2 [] [] []) { msg (.req (.load 8 false)) with party := .host 3 }).hostFlies = true ∧
      (∀ b ∈ [Body.cmdEntry 63 (command 2 []), .cmdTail 64, .cmdTail 65, .cmdTail (2 ^ 32 + 1)],
        let m := { msg b with dst := pkgNode 0, booth := 0, party := .host 3 }
        let s := withMsg (host 2 [] [] []) m
        s.arrived 0 = some m ∧ waitingAt m.que m.chan s.net 0 = some 0 ∧ m.dst = pkgNode 0 ∧ (s.window 0 0).head = 0) ∧
      ∀ s ∈ [host 2 [] [] []], s.powered 0 = true ∧ s.journalFull 0 = false ∧ (s.window 0 0).head < (s.window 0 0).tail) ∧
    (∀ op ∈ [1, 2, 3, 4, 5, 6, 7, 8, 9, 10, 11, 12], let s := host op [] [] oneCore
     command op [] = getD (s.window 0 0).entries ((s.window 0 0).head % 64) (List.replicate 8 0) ∧ s.commandWaits 0 (command op []) = false ∧
       (command op []).length = 8 ∧ (dw (command op []) 0).toNat / 2 ^ 56 = op ∧ (dw (command op []) 0).toNat / 2 ^ 32 % 2 ^ 16 = 0 ∧
       (dw (command op []) 0).toNat / 2 ^ 48 % 2 ^ 8 = 1) ∧
    (let s := { host 1 [0x10000] [] oneCore with mem := recorded.mem }
     let s1 := s.setWindow 0 0 { s.window 0 0 with head := 1 }
     let raw := s1.recordAt 0 1 (cmdRecord (command 1 [0x10000])) true
     raw.isSome = true ∧ s1.launchKind 0 1 (cmdRecord (command 1 [0x10000])) true raw = 0 ∧ recTotal (raw.getD []) ≠ 0 ∧
       recRop ((raw.getD []).headD []) = 0 ∧ s1.recordAt 0 1 (cmdRecord (command 1 [0x10001])) true = none) ∧
    (((readingState (host 3 [0x10000] handoverWords oneCore)).startHandover 0 1 1 0x10000).isSome = true ∧
      (dw (command 3 [0x10001]) 1).toNat % 128 ≠ 0) ∧
    ((host 4 [] [] oneCore).regions = [(0 * 64 + 1, reg0)] ∧ (host 4 [] [] []).packagesWith 1 = [] ∧
      ∀ q ∈ (host 4 [] [] oneCore).packagesWith 0, ((host 4 [] [] oneCore).boothPkg q 0).tearing = none) ∧
    ((dw (command 5 [0, 15, 0, 0]) 2).toNat < 16 ∧ dw (command 5 [0, 15, 0, 0]) 3 = 0 ∧ dw (command 5 [0, 15, 0, 0]) 4 = 0 ∧
      (dw (command 6 [0, 47, 0xFFFFFFFF, 1]) 2).toNat < 48 ∧ (dw (command 6 [0, 47, 0xFFFFFFFF, 1]) 3).toNat < 2 ^ 32) ∧
    ((∀ c ∈ (host 7 [] [] oneCore).coresOn 0 1, c < 2 ^ 26 ∧ dw (command 7 [0, 0]) 2 = BitVec.ofNat 64 (c * 16)) ∧
      (host 7 [] [] oneCore).coresOn 0 1 ≠ [] ∧ (∀ i ∈ [3, 4, 5, 6], (dw (command 7 [0, 0, 0xFFFFFFFF, 1, 0, 0]) i).toNat < 2 ^ 32) ∧
      (dw (command 8 [0, 0, 0xFFFFFFFFFFF8]) 3).toNat < 2 ^ 48 ∧ (dw (command 8 [0, 0, 0xFFFFFFFFFFF8]) 3).toNat % 8 = 0 ∧
      dw (command 11 [0, 0, 0]) 3 = 0) ∧
    (let s := host 9 [0x10000] regionWords []
     (readingState s).readRegion 0 1 0x10000 = some reg0 ∧ s.region 0 1 = none ∧ ((readingState s).reserve 1 reg0.cores).isSome = true) ∧
    (let s := host 10 [0x10000, 1] [0x40000, 0x50000, 2, 0] oneCore
     (0x10000 : Word).toNat % 32 = 0 ∧ 1 ≤ (dw (command 10 [0x10000, 1]) 2).toNat ∧ (dw (command 10 [0x10000, 1]) 2).toNat ≤ 4096 ∧ s.feWait = [] ∧
       (readingState s).mgmtWords 0 0x10000 (4 * 1) = some [0x40000, 0x50000, 2, 0] ∧
       ((readingState s).mapEntries 0 1 1 [0x40000, 0x50000, 2, 0] (s.pagesOf 0 1)).isSome = true ∧ (dw (command 10 []) 2).toNat = 0) ∧
    (let w := command 12 [0, 0x1000, 0xFFF]
     2 ^ 12 ≤ (dw w 2).toNat ∧ (dw w 2).toNat ≤ 2 ^ 32 ∧ 2 ^ 10 ≤ (dw w 3).toNat ∧ (dw w 3).toNat < (dw w 2).toNat) ∧
    (tearing.regions = [(0 * 64 + 1, reg0)] ∧ (tearing.boothPkg 0 1).tearing = some 1 ∧ tearing.tearWaits 1 = false) := by
  and_intros <;> first | rfl | decide

/-- A granted adapter, and an interrupt message at its end. -/
def granted : State := { withPage s0 (pageAt 0 0 true) with grants := [2 * 64 + 1] }
def irq0 : Msg := msg (.irq [1, 2, 3, 4])
theorem witness_HostAccessesAndInterrupts :
    (2 * 64 + 1 ∉ s0.grants ∧ 2 * 64 + 1 ∈ granted.grants ∧ granted.pageFor 0 1 0x1FFF8 = some (pageAt 0 0 true)) ∧
    (0x1FFF8 % Size.bytes .b64 = 0 ∧ (pageAt 0 0 true).wr = true ∧ (pageAt 0 0 true).rd = true ∧ (pageAt 0 0 true).kind ≠ 2 ∧
      0x1FFF9 % Size.bytes .b16 ≠ 0) ∧
    (let s := { granted with maps := [(1, [pageAt 0 2 false])] }
     s.pageFor 0 1 0x1FFF8 = some (pageAt 0 2 false) ∧
       s.ownsOff 0 1 ((pageAt 0 2 false).half * 65536 + (0x1FFF8 - (pageAt 0 2 false).va)) = true) ∧
    (let s := freed (withMsg s0 irq0)
     s.arrived 0 = some irq0 ∧ (∀ x ∈ s.net, x.booth = irq0.booth → ¬ x.mid < irq0.mid) ∧ s.thread irq0.uid = none) ∧
    (let t := { t0 with wait := .dispatcher 9 }
     let s := withMsg (running 0 t) irq0
     s.arrived 0 = some irq0 ∧ s.thread irq0.uid = some t ∧ irq0.mid = 9 ∧ t.held = [] ∧ t.beats = 0) := by
  and_intros <;> first | rfl | decide

/-- A package with some rails up and at some stage of its boot, and the Colxo controller in an exchange. -/
def package (rails : List Rail) (stage : Nat) (x : Spdm) : State := { State.reset with pkgs := [(0, { Pkg.init with rails, stage, spdm := x })] }
theorem witness_PowerAndBoot :
    (0 < 4096 ∧ (∀ i < 7, ((package (railOrder.take i) 0 Spdm.init).pkg 0).rails = railOrder.take i) ∧ railOrder.take 6 ≠ railOrder ∧
      (State.reset.pkg 0).rails = railOrder.take 0) ∧
    (let s := package (railOrder.take 6) 0 Spdm.init
     s.mfg = [] ∧ s.defects = [] ∧ ({ s with defects := [.core 3] } : State).defects = [.core 3] ∧ pkgOf 3 = 0 ∧ getD s.sparesUsed (engOf 3) 0 < 2) ∧
    (∀ n ∈ [0, 1, 2, 3], ((package railOrder n Spdm.init).pkg 0).rails = railOrder ∧ ((package railOrder n Spdm.init).pkg 0).stage = n ∧
      ((package railOrder n Spdm.init).pkg 0).image = [] ++ []) ∧
    (let s := { package railOrder 0 Spdm.init with bootAreas := [(0, 0x80000000)] }
     find State.reset.bootAreas 0 = none ∧ find s.bootAreas 0 = some 0x80000000 ∧ (s.pkg 0).image ≠ [1] ++ []) ∧
    (∀ c ∈ [5, 2 ^ 30], let s := { package railOrder 0 Spdm.init with cycle := c }
     (s.pkg 0).stage = 0 ∧ ((s.pkg 0).bootAt + 2 ^ 30 ≤ s.cycle ↔ c = 2 ^ 30)) ∧
    (([] : List Byte).length ≠ 4096 ∧ imageError 0 [] [] ≠ 0) := by
  and_intros <;> first | rfl | decide
theorem witness_AttestationAndKeys :
    (∀ x ∈ [Spdm.init, ⟨true, false, false, false, false⟩, ⟨true, true, false, false, false⟩, ⟨true, true, true, false, false⟩,
      ⟨true, true, true, true, false⟩, ⟨true, true, true, true, true⟩],
      (package railOrder 3 x).powered 0 = true ∧ ((package railOrder 3 x).pkg 0).spdm = x) ∧
    (let full : List SpdmAlg := [.ecdsaP384, .sha384, .secp384r1, .aes256Gcm]
     (.ecdsaP384 ∈ full ∧ .sha384 ∈ full ∧ .secp384r1 ∈ full ∧ .aes256Gcm ∈ full) ∧ .sha384 ∉ full.erase .sha384) ∧
    (let s := { package railOrder 3 Spdm.init with regions := [(1, { reg0 with key := 5 })] }
     s.keyNamed 0 5 = true) ∧
    (∀ slot ∈ [1, 63], 1 ≤ slot ∧ slot < 64 ∧ (package railOrder 3 Spdm.init).keyNamed 0 slot = false ∧
      find ((package railOrder 3 Spdm.init).pkg 0).keys slot = none) ∧
    (let s := { package railOrder 3 Spdm.init with rings := [(16 * 64 + 1, ⟨0x40000000, 20, 1, 0⟩)] }
     pkgOf 16 = 0 ∧ find s.rings (16 * 64 + 1) = some ⟨0x40000000, 20, 1, 0⟩) := by
  and_intros <;> first | rfl | decide

/-! ### The assembly language (03 sections 2, 3 and 7; 07, 09: the worked forms) -/

def word (s : String) : Option Nat := (Asm.assemble [s]).map (fun im => ofBytes (im.parts.flatMap Prod.snd))
def forms (s : String) : Option (String × String) :=
  match Asm.listing false [s], Asm.listing true [s] with
  | some [(_, f)], some [(_, t)] => some (f, t)
  | _, _ => none
theorem test_suffixes_both_s : forms "ld.s.s g3, [g1+8]" = some ("ld.b64.s.s g3, [g1+0x0008] || -", "ld.s.s g3, [g1+8]") := by decide
theorem test_suffix_of_a_store : forms "st.s g7, [g3+16]" = some ("st.b64.s g7, [g3+0x0010] || -", "st.s g7, [g3+16]") := by decide
theorem test_aliases : forms "addi stack, stack, -64" = some ("addi.s64 g14, g14, -0x0040 || -", "addi g14, g14, -64") := by decide
theorem test_full_of_optionals : forms "vadd v1, v2, v3" = some ("vadd v1, v2, v3, g0, g0 || -", "vadd v1, v2, v3") := by decide
theorem test_word_of_source : word "lda.trap g4, [g2], g9" = some 0xA885B900 := by decide
theorem test_word_of_push : word "push.abar cpin, g5, g6, 8" = some 0xB42ACE08 := by decide
theorem test_value_beyond_its_field : word "addi g1, g1, 65536" = none := by decide
theorem test_pair_writes_one_register_twice : word "call .+8 || addi link, link, 4" = none := by decide
theorem test_precedence : (Asm.tokens 20 "1|2+3*4<<1&6".toList).bind (fun ts => (Asm.exprOf ts).bind (fun e => e.eval [] 0)) =
    some (1 ||| ((2 + 3 * 4) <<< 1 &&& 6)) := by decide
def padded : List String := [".org 0x0001_0000", ".equ step, 16", "addi g1, g1, step", "next: ld g3, [g1+8] || add g4, g4, g5", "jr link"]
theorem test_padding : Asm.listing false padded = some [(0x10000, "addi.s64 g1, g1, 0x0010 || -"), (0x10004, "nop || -"),
    (0x10008, "next: ld.b64.s.o g3, [g1+0x0008] || add.s64 g4, g4, g5"), (0x10010, "jr g15 || -")] := by decide

end Sys2Proof.Tests
end

section
/-! SUPPORT. What later proofs need of a running thread, of the ends of a word, and of a fence with nothing to wait for. -/

namespace Sys2Proof.Machine
open Bits Tables

/-! ### Threads, fences and reissued words -/

@[simp] theorem State.setThread_thread_same (s : State) (u : Nat) (t : Thread) : (s.setThread u t).thread u = some t := by
  simp [State.thread]

@[simp] theorem State.slot_setSlot_same (s : State) (k : Nat) (x : Slot) : (s.setSlot k x).slot k = x := by
  simp [State.slot]

/-- A thread goes on running in its slot when its record is replaced by one that stands there too. -/
theorem State.Runs.setThread {s : State} {u : Nat} {t : Thread} (h : s.Runs u t) {x : Thread} (hk : x.key = t.key)
    (hp : x.place = t.place) : (s.setThread u x).Runs u x where
  run := h.run
  thread := by simp
  key := hk.trans h.key
  place := hp.trans h.place

/-- A thread runs in its slot wherever slots, threads and the current slot are the same. -/
theorem State.Runs.of_fields {s s' : State} {u : Nat} {t : Thread} (h : s.Runs u t) (hs : s'.slots = s.slots)
    (ht : s'.threads = s.threads) (hc : s'.cur = s.cur) : s'.Runs u t where
  run := by simpa only [State.slot, hs, hc] using h.run
  thread := by simpa only [State.thread, ht] using h.thread
  key := h.key.trans hc.symm
  place := h.place

@[simp] theorem State.completed_fin (s : State) : s.completed.bun.fin = .done := rfl
@[simp] theorem State.completed_mem (s : State) : s.completed.mem = s.mem := rfl
@[simp] theorem State.completed_net (s : State) : s.completed.net = s.net := rfl
@[simp] theorem State.completed_slots (s : State) : s.completed.slots = s.slots := rfl
@[simp] theorem State.completed_thread (s : State) (u : Nat) : s.completed.thread u = s.thread u := rfl
@[simp] theorem State.completed_vq (s : State) (e b : Nat) : s.completed.vq e b = s.vq e b := rfl
@[simp] theorem State.completed_nq (s : State) (k : Nat) : s.completed.nq k = s.nq k := rfl

@[simp] theorem State.setThread_vq (s : State) (u e b : Nat) (t : Thread) : (s.setThread u t).vq e b = s.vq e b := rfl
@[simp] theorem State.setThread_nq (s : State) (u k : Nat) (t : Thread) : (s.setThread u t).nq k = s.nq k := rfl
@[simp] theorem State.setVq_vq_same (s : State) (e b : Nat) (q : VQueue) : (s.setVq e b q).vq e b = q := by
  simp [State.vq]
@[simp] theorem State.setNq_nq_same (s : State) (k : Nat) (q : NQueue) : (s.setNq k q).nq k = q := by
  simp [State.nq]

theorem runWord_retry {s : State} {u : Nat} {x : Thread} (h : s.Runs u x) (w : Why) :
    runWord s (.retry w) = .next (s.reissued w) := by
  simp [runWord, h.me, State.reissued]

theorem runWord_gone {s t : State} {u : Nat} {x : Thread} (h : s.Runs u x) : runWord s (.gone t) = .next (t.setFin .gone) := by
  simp [runWord, h.me]

theorem runWord_trap_cause {s : State} {u : Nat} {x : Thread} (h : s.Runs u x) (c : Cause) (v : Nat) :
    runWord s (trap c v) = .next (s.trapped c v) := runWord_trap h c.code v

theorem runWord_trapW {s : State} {u : Nat} {x : Thread} (h : s.Runs u x) (c : Cause) :
    runWord s (s.trapW c) = .next (s.trapped c s.wordOf) := runWord_trap h c.code s.wordOf

theorem runWord_engineRefused {s : State} {u : Nat} {x : Thread} (h : s.Runs u x) (port code : Nat) :
    runWord s (engineRefused port code) = .next (s.trapped .engineRefused (code * 2 ^ 16 + port)) :=
  runWord_trap_cause h _ _

theorem getLsbD_zero_word (n : Nat) : (0 : Word).getLsbD n = false := BitVec.getLsbD_zero

theorem probedClusters_zero (pkg die : Nat) : probedClusters 0 pkg die = [] := by
  have hnone : (List.range 128).filter (fun c => (0 : Word).getLsbD (c % 64)) = [] :=
    List.filter_eq_nil_iff.mpr (fun c _ => by rw [getLsbD_zero_word]; exact Bool.false_ne_true)
  rw [probedClusters, hnone, List.map_nil]

theorem probedEdges_zero (pkg die : Nat) : probedEdges 0 pkg die = [] := by
  have hnone : (List.range 4).filter (fun g => (0 : Word).getLsbD g) = [] :=
    List.filter_eq_nil_iff.mpr (fun g _ => by rw [getLsbD_zero_word]; exact Bool.false_ne_true)
  rw [probedEdges, hnone, List.map_nil]

/-- With no bit of TBM set, a fence probes no core (R166 step 3). -/
theorem probes_zero (cid scope : Nat) : probes cid 0 scope = [] := by
  have hdie (p d : Nat) : (probedClusters 0 p d).flatMap coresOf ++ probedEdges 0 p d = [] := by
    rw [probedClusters_zero, probedEdges_zero, List.flatMap_nil, List.append_nil]
  have hdies : (List.range 4).flatMap (fun _ => ([] : List Nat)) = [] := List.flatMap_eq_nil_iff.mpr (fun _ _ => rfl)
  simp only [probes, getLsbD_zero_word, Bool.false_eq_true, if_false, hdie, hdies, ite_self]

theorem Thread.Quiet.settled {t : Thread} (h : t.Quiet) (scope : Nat) : t.settled scope = true := by
  simp [Thread.settled, h.spray, h.offPkg]

theorem Thread.Quiet.covered {t : Thread} (h : t.Quiet) (scope : Nat) : t.covered scope = none := by
  simp [Thread.covered, h.refusal]

theorem Thread.Quiet.clearTbm {t : Thread} (h : t.Quiet) : { t with ctx := { t.ctx with tbm := 0 } } = t := by
  rw [← h.tbm]

/-- A fence of the whole fabric passes at once for a thread with nothing outstanding, and leaves the thread as it was (R166). -/
theorem State.Runs.fenceStep_quiet {s : State} {u : Nat} {t : Thread} (h : s.Runs u t) (hq : t.Quiet) (cont : FenceCont)
    (k : State → Step) : s.fenceStep 4 cont k = k (s.setThread u t) := by
  have hprobes : probes s.cid t.ctx.tbm 4 = [] := by rw [hq.tbm, probes_zero]
  have hclear : s.modCtx (fun c => { c with tbm := 0 }) = s.setThread u t := by
    rw [State.modCtx, h.modMe, hq.clearTbm]
  simp only [State.fenceStep, h.th, hq.settled, hq.covered, hprobes, List.isEmpty_nil, Bool.and_self, if_true, hclear,
    Nat.reduceLeDiff]

end Sys2Proof.Machine
end

section
/-! PROOFS. Pushes to the copy and network engines (R15, R218 to R225, R234, R235, R365, R366). -/

namespace Sys2Proof.Machine
open Bits Tables

/-! ### Terms that are off -/

theorem State.TermsOff.of_slots {s s' : State} {cid : Nat} (h : s.TermsOff cid) (hs : s'.slots = s.slots) : s'.TermsOff cid := by
  intro k hk
  simpa only [State.slot, hs] using h k hk

/-- A term that is off does not fire (R233). -/
theorem State.fire_off {s : State} {key : Nat} (h : s.TermsOff (cidOf key)) (booth n : Nat) : s.fire key booth n = s := by
  cases n with
  | zero => rfl
  | succ n =>
    have hoff : termAct (s.slot key).crTerm = 0 := h key rfl
    simp [State.fire, State.termTrue, hoff]

theorem State.evalTerm_off {s : State} {key : Nat} (h : s.TermsOff (cidOf key)) : s.evalTerm key = s := by
  unfold State.evalTerm
  split
  · exact State.fire_off h _ _
  · rfl

theorem cidOf_slot (cid : Nat) {k : Nat} (hk : k < 16) : cidOf (cid * 16 + k) = cid := by
  unfold cidOf; omega

/-! ### Pushes to the copy engine -/

/-- The command function of a copy-engine word, with its low six bits (R225). -/
theorem cpFn_eq {op low : Nat} (o : CpOpt) (hop : op < 16) (hlow : low < 64) : cpFn op o low = op * 2 ^ 9 + optBits o + low := by
  have := Laws.b2n_le o.nr
  have := Laws.b2n_le o.q
  have := Laws.b2n_le o.ob
  simp only [cpFn, encCp, encR, optBits, Fin.val_zero]
  omega

theorem encBar_eq (r : Bar) (es : Nat) : encBar r es = barBits r + es := by
  simp only [encBar, barBits]; omega

theorem barBits_lt (r : Bar) : barBits r < 61 := by
  have := Laws.b2n_le r.be
  simp only [barBits]
  omega

/-- The option and barrier bits of a copy-engine word, with its element size (R225). -/
theorem cpFn_bar {op es : Nat} (o : CpOpt) (r : Bar) (hop : op < 16) (hes : es < 4) :
    cpFn op o (encBar r es) = op * 2 ^ 9 + optBits o + barBits r + es := by
  have := barBits_lt r
  rw [cpFn_eq o hop (by rw [encBar_eq]; omega), encBar_eq]
  omega

/-- A push to the copy engine runs as the push of its command function. -/
theorem exec_of_copyPush {i : Instr} {a b : GReg} {fn : Nat} (h : copyPush i = some (a, b, fn)) (s : State) :
    exec i s = runWord s (s.pushTo fn a b) := by
  unfold copyPush at h
  split at h
  case h_1 o r | h_4 o r | h_5 o r | h_6 o r =>
    cases h
    rw [← Nat.add_zero (_ + barBits r), ← cpFn_bar o r (by decide) (by decide)]
    rfl
  case h_2 o r z | h_3 o r z =>
    cases h
    cases z <;> rw [← cpFn_bar o r (by decide) (by decide)] <;> rfl
  case h_7 o x ty =>
    cases h
    have hx := Laws.redOp_code_le x
    have hty := Laws.redTy_code_le ty
    have hfn := cpFn_eq (op := 6) (low := x.code * 8 + ty.code) o (by decide) (by omega)
    change runWord s (s.pushTo (cpFn 6 o (x.code * 8 + ty.code)) a b) = _
    rw [hfn, Nat.add_assoc (6 * 2 ^ 9 + optBits o)]
    cases x <;> cases ty <;> rfl
  case h_8 o k =>
    cases h
    rw [Nat.mul_comm (2 ^ 2), ← cpFn_eq o (by decide) (by omega)]
    rfl
  case h_9 => cases h

theorem State.Runs.newCmd {s : State} {u : Nat} {t : Thread} (h : s.Runs u t) (fn : Nat) (wa wb : Word) :
    s.newCmd fn wa wb = ⟨fn, wa, wb, u, s.cur, t.booth, t.ctx.it.toNat, (s.bc s.cid t.booth).agewait.toNat, t.job.launch, t.ctx.prv,
      t.moves, t.tenant, []⟩ := by
  simp [State.newCmd, h.uid, h.th, h.booth]

theorem State.Runs.copyRoom_iff {s : State} {u : Nat} {t : Thread} (h : s.Runs u t) : s.copyRoom = true ↔
    (s.vq (engOf s.cid) t.booth).queue.length < 32 ∧ (s.vq (engOf s.cid) t.booth).released = [] ∧ t.cpCount < 8 := by
  simp [State.copyRoom, h.booth, h.th, and_assoc]

theorem State.Runs.copyRoom_false {s : State} {u : Nat} {t : Thread} (h : s.Runs u t)
    (hfull : 32 ≤ (s.vq (engOf s.cid) t.booth).queue.length ∨ (s.vq (engOf s.cid) t.booth).released ≠ [] ∨ 8 ≤ t.cpCount) :
    s.copyRoom = false := by
  rw [← Bool.not_eq_true, h.copyRoom_iff]
  rintro ⟨hlen, hrel, hcount⟩
  rcases hfull with hfull | hwait | hmany
  · omega
  · exact hwait hrel
  · omega

/-- A push that a check refuses. -/
theorem State.pushTo_refused {s : State} {fn : Nat} {a b : GReg} (ha : s.Unbound a) (hb : s.Unbound b)
    (h : s.cmdRefusal fn (s.src a) (s.src b) ≠ 0) :
    s.pushTo fn a b = engineRefused 1 (s.cmdRefusal fn (s.src a) (s.src b)) := by
  simp only [State.pushTo, State.getG_unbound ha, State.getG_unbound hb, if_pos h]

section
variable {s : State} {u : Nat} {t : Thread} (hr : s.Runs u t) {fn : Nat} {a b : GReg} (ha : s.Unbound a) (hb : s.Unbound b)
  (h : s.cmdRefusal fn (s.src a) (s.src b) = 0) (hq : t.Quiet)
include hr ha hb h hq

/-- A push that no check refuses, of a thread with nothing outstanding, enters the queue when there is room. -/
theorem State.pushTo_enters (hroom : s.copyRoom = true) :
    s.pushTo fn a b = .next (((s.setThread u t).setVq (engOf s.cid) t.booth { s.vq (engOf s.cid) t.booth with
      queue := (s.vq (engOf s.cid) t.booth).queue ++ [s.newCmd fn (s.src a) (s.src b)] }).setThread u
        { t with cpCount := t.cpCount + 1 }) := by
  have hf : (s.setThread u t).Runs u t := hr.setThread rfl rfl
  have hroom' : (s.setThread u t).copyRoom = true := hf.copyRoom_iff.mpr (hr.copyRoom_iff.mp hroom)
  have hv (q : VQueue) : ((s.setThread u t).setVq (engOf s.cid) t.booth q).Runs u t := hf.of_fields rfl rfl rfl
  simp only [State.pushTo, State.getG_unbound ha, State.getG_unbound hb, h, hr.fenceStep_quiet hq, hroom', hf.booth]
  simp only [ne_eq, not_true_eq_false, if_false, Bool.not_true, Bool.false_eq_true]
  change Step.next (State.modMe (State.setVq _ (engOf s.cid) t.booth _) _) = _
  rw [(hv _).modMe, hf.newCmd, hr.newCmd]
  rfl

/-- Else it is issued again. -/
theorem State.pushTo_waits (hroom : s.copyRoom = false) : s.pushTo fn a b = .retry (.port .copy) := by
  have hf : (s.setThread u t).Runs u t := hr.setThread rfl rfl
  have hroom' : (s.setThread u t).copyRoom = false := by
    rw [← Bool.not_eq_true, hf.copyRoom_iff]
    rwa [← Bool.not_eq_true, hr.copyRoom_iff] at hroom
  simp only [State.pushTo, State.getG_unbound ha, State.getG_unbound hb, h, hr.fenceStep_quiet hq, hroom']
  simp

end

/-! ### `push.arm` -/

theorem State.pushArm_refused {s : State} {a b : GReg} (ha : s.Unbound a) (hb : s.Unbound b)
    (h : s.armRefusal (s.src a) (s.src b) ≠ 0) :
    s.pushArm a b = engineRefused 1 (s.armRefusal (s.src a) (s.src b)) := by
  simp only [State.pushArm, State.getG_unbound ha, State.getG_unbound hb, if_pos h]

/-- An ARM that no check refuses holds the command of its image for the slot that it names, whose term is off (R235). -/
theorem State.pushArm_holds {s : State} {u : Nat} {t : Thread} (hr : s.Runs u t) {a b : GReg} (ha : s.Unbound a)
    (hb : s.Unbound b) (h : s.armRefusal (s.src a) (s.src b) = 0) (hq : t.Quiet) (hcount : t.cpCount < 8) (hoff : s.TermsOff s.cid) :
    s.pushArm a b = .next (((s.setThread u t).setVq (engOf s.cid) t.booth { s.vq (engOf s.cid) t.booth with
      held := (s.vq (engOf s.cid) t.booth).held ++ [⟨s.cid * 16 + wfld (s.src a) 19 16, s.cycle,
        s.newCmd (wfld (s.src a) 12 0) (s.image (s.src b)).1 (s.image (s.src b)).2⟩] }).setThread u
        { t with cpCount := t.cpCount + 1 }) := by
  have hf : (s.setThread u t).Runs u t := hr.setThread rfl rfl
  have hv (q : VQueue) : ((s.setThread u t).setVq (engOf s.cid) t.booth q).Runs u t := hf.of_fields rfl rfl rfl
  have hkey : cidOf (s.cid * 16 + wfld (s.src a) 19 16) = s.cid := cidOf_slot _ (Nat.mod_lt _ (by decide))
  simp only [State.pushArm, State.getG_unbound ha, State.getG_unbound hb, h, hr.fenceStep_quiet hq, hf.booth, hf.th]
  simp only [ne_eq, not_true_eq_false, if_false, Nat.not_le.mpr hcount]
  change Step.next (State.evalTerm (State.modMe (State.setVq _ (engOf s.cid) t.booth _) _) (s.cid * 16 + _)) = _
  rw [(hv _).modMe, State.evalTerm_off, hf.newCmd, hr.newCmd]
  · rfl
  · rw [hkey]
    exact hoff.of_slots rfl

/-! ### Pushes to the network engine -/

/-- The command function of a network word (R365). -/
theorem nwFn_eq {op : Nat} (o : NwOpt) (hop : op < 16) :
    nwFn op o = op * 2 ^ 9 + 2 ^ 8 * b2n o.nr + 2 ^ 7 * b2n o.q + 2 ^ 6 * b2n o.h + o.t.val := by
  have := Laws.b2n_le o.nr
  have := Laws.b2n_le o.q
  have := Laws.b2n_le o.h
  simp only [nwFn, encNw, encR, Fin.val_zero]
  omega

theorem nwHeld_nwFn {op : Nat} (o : NwOpt) (hop : op < 16) : nwHeld (nwFn op o) = o.h := by
  have := Laws.b2n_le o.nr
  have := Laws.b2n_le o.q
  have hbit : fld (nwFn op o) 6 6 = b2n o.h := by
    have := Laws.b2n_le o.h
    rw [nwFn_eq o hop, fld]
    omega
  rw [nwHeld, bitAt, hbit]
  cases o.h <;> rfl

theorem nwFn_slot {op : Nat} (o : NwOpt) (hop : op < 16) : fld (nwFn op o) 3 0 = o.t.val := by
  rw [nwFn_eq o hop, fld]
  omega

/-- The rows of R365: a push to the network engine runs as the push of a command function. -/
theorem netPush_row {i : Instr} {a b : GReg} {fn : Nat} {h : Option Nat} (hi : netPush i = some (a, b, fn, h)) :
    ∃ (op : Nat) (o : NwOpt), op < 16 ∧ nwFn op o = fn ∧ (if o.h then some o.t.val else none) = h ∧
      ∀ s, exec i s = runWord s (s.nwPush (nwFn op o) a b) := by
  unfold netPush at hi
  split at hi
  case h_7 => cases hi
  all_goals
    simp only [Option.some.injEq, Prod.mk.injEq] at hi
    obtain ⟨rfl, rfl, rfl, rfl⟩ := hi
    exact ⟨_, _, by decide, nwFn_eq _ (by decide), rfl, fun s => rfl⟩

theorem State.Runs.netForeign_iff {s : State} {u : Nat} {t : Thread} (h : s.Runs u t) :
    s.netForeign = true ↔ s.netTenant (pkgOf s.cid) (dieOf s.cid) t.booth ≠ t.tenant := by
  simp [State.netForeign, h.booth, h.th]

section
variable {s : State} {fn : Nat} {a b : GReg} (hedge : isEdge s.cid = true) (ha : s.Unbound a) (hb : s.Unbound b)
include hedge ha hb

/-- While a handover has the engine serve the booth's other tenant, a push waits, whatever its checks say (log entry 65). -/
theorem State.nwPush_foreign (hfor : s.netForeign = true) : s.nwPush fn a b = .retry .handover := by
  simp only [State.nwPush, State.needs, lists, hedge, if_true, State.getG_unbound ha, State.getG_unbound hb, hfor]

theorem State.nwPush_refused (hfor : s.netForeign = false) (h : s.nwRefusal fn (s.src a) (s.src b) ≠ 0) :
    s.nwPush fn a b = engineRefused 2 (s.nwRefusal fn (s.src a) (s.src b)) := by
  simp only [State.nwPush, State.needs, lists, hedge, if_true, State.getG_unbound ha, State.getG_unbound hb, hfor,
    Bool.false_eq_true, if_false, if_pos h]

section
variable {u : Nat} {t : Thread} (hr : s.Runs u t) (hfor : s.netForeign = false) (h : s.nwRefusal fn (s.src a) (s.src b) = 0)
  (hq : t.Quiet) (hcount : t.nwCount < 8)
include hr hfor h hq hcount

/-- A push that no check refuses, of a thread with nothing outstanding and without H, enters the queue of its booth (R365). -/
theorem State.nwPush_enters (hheld : nwHeld fn = false) (hlen : (s.nq (nqKey s.cid t.booth)).queue.length < 32)
    (hrel : (s.nq (nqKey s.cid t.booth)).released = []) :
    s.nwPush fn a b = .next (((s.setThread u t).setNq (nqKey s.cid t.booth) { s.nq (nqKey s.cid t.booth) with
      queue := (s.nq (nqKey s.cid t.booth)).queue ++ [⟨fn, s.src a, s.src b, u, s.cur, t.booth, t.job.launch, t.ctx.prv, t.moves,
        t.tenant, []⟩] }).setThread u { t with nwCount := t.nwCount + 1 }) := by
  have hf : (s.setThread u t).Runs u t := hr.setThread rfl rfl
  have hn (q : NQueue) : ((s.setThread u t).setNq (nqKey s.cid t.booth) q).Runs u t := hf.of_fields rfl rfl rfl
  have hroom : (32 ≤ (s.nq (nqKey s.cid t.booth)).queue.length || !(s.nq (nqKey s.cid t.booth)).released.isEmpty) = false := by
    simp [hlen, hrel]
  simp only [State.nwPush, State.needs, lists, hedge, if_true, State.getG_unbound ha, State.getG_unbound hb, hfor, h,
    hr.fenceStep_quiet hq, hf.booth, hf.th, hf.uid, hheld]
  simp only [ne_eq, not_true_eq_false, Bool.false_eq_true, if_false, Nat.not_le.mpr hcount]
  change (if (decide (32 ≤ (s.nq (nqKey s.cid t.booth)).queue.length) || !(s.nq (nqKey s.cid t.booth)).released.isEmpty) = true
    then _ else Step.next (State.modMe (State.setNq _ (nqKey s.cid t.booth) _) _)) = _
  rw [hroom, (hn _).modMe]
  rfl

/-- With H it is held for the slot that T names, whose term is off (R365). -/
theorem State.nwPush_holds (hheld : nwHeld fn = true) (hoff : s.TermsOff s.cid) :
    s.nwPush fn a b = .next (((s.setThread u t).setNq (nqKey s.cid t.booth) { s.nq (nqKey s.cid t.booth) with
      held := (s.nq (nqKey s.cid t.booth)).held ++ [⟨s.cid * 16 + fld fn 3 0, s.cycle, ⟨fn, s.src a, s.src b, u, s.cur, t.booth,
        t.job.launch, t.ctx.prv, t.moves, t.tenant, []⟩⟩] }).setThread u { t with nwCount := t.nwCount + 1 }) := by
  have hf : (s.setThread u t).Runs u t := hr.setThread rfl rfl
  have hn (q : NQueue) : ((s.setThread u t).setNq (nqKey s.cid t.booth) q).Runs u t := hf.of_fields rfl rfl rfl
  have hkey : cidOf (s.cid * 16 + fld fn 3 0) = s.cid := cidOf_slot _ (Nat.mod_lt _ (by decide))
  simp only [State.nwPush, State.needs, lists, hedge, if_true, State.getG_unbound ha, State.getG_unbound hb, hfor, h,
    hr.fenceStep_quiet hq, hf.booth, hf.th, hf.uid, hheld]
  simp only [ne_eq, not_true_eq_false, Bool.false_eq_true, if_false, Nat.not_le.mpr hcount]
  change Step.next (State.evalTerm (State.modMe (State.setNq _ (nqKey s.cid t.booth) _) _) (s.cid * 16 + fld fn 3 0)) = _
  rw [(hn _).modMe, State.evalTerm_off]
  · rfl
  · rw [hkey]
    exact hoff.of_slots rfl

end
end

/-! ### The statement O21 -/

/-- Settles O21: each push is what `pushTo`, `pushArm` or `nwPush` gives for its command function, case by case of the checks. -/
theorem enginePushes : Obligations.EnginePushes := by
  unfold Obligations.EnginePushes
  refine ⟨fun i a b fn s u t hi hr ha hb => ?_, fun a b s u t hr ha hb => ?_, fun i a b fn h s u t hi hr ha hb hedge => ?_⟩
  · rw [exec_of_copyPush hi]
    refine ⟨fun h => ?_, fun h hq hlen hrel hcount => ?_, fun h hq hroom => ?_⟩
    · rw [State.pushTo_refused ha hb h, runWord_engineRefused hr]
    · rw [State.pushTo_enters hr ha hb h hq (hr.copyRoom_iff.mpr ⟨hlen, hrel, hcount⟩), runWord_next hr, hr.newCmd]
      exact ⟨_, rfl, by simp⟩
    · rw [State.pushTo_waits hr ha hb h hq (hr.copyRoom_false hroom), runWord_retry hr]
  · refine ⟨fun h => ?_, fun h hq hcount hoff => ?_⟩
    · change runWord s (s.pushArm a b) = _
      rw [State.pushArm_refused ha hb h, runWord_engineRefused hr]
    · change ∃ s', runWord s (s.pushArm a b) = _ ∧ _
      rw [State.pushArm_holds hr ha hb h hq hcount hoff, runWord_next hr, hr.newCmd]
      refine ⟨_, rfl, rfl, ?_, by simp, by simp⟩
      simp [wfld, fld, State.image]
  · obtain ⟨op, o, hop, rfl, rfl, hexec⟩ := netPush_row hi
    rw [hexec]
    refine ⟨fun hfor => ?_, fun hten => ?_⟩
    · rw [State.nwPush_foreign hedge ha hb (hr.netForeign_iff.mpr hfor), runWord_retry hr]
    have hfor : s.netForeign = false := by
      rw [← Bool.not_eq_true, hr.netForeign_iff]
      exact not_not_intro hten
    refine ⟨fun h => ?_, fun h hq hcount => ⟨fun hnone hlen hrel => ?_, fun k hk hoff => ?_⟩⟩
    · rw [State.nwPush_refused hedge ha hb hfor h, runWord_engineRefused hr]
    · have hheld : nwHeld (nwFn op o) = false := by
        rw [nwHeld_nwFn o hop]
        simpa using hnone
      rw [State.nwPush_enters hedge ha hb hr hfor h hq hcount hheld hlen hrel, runWord_next hr]
      exact ⟨_, rfl, by simp⟩
    · have hh : o.h = true ∧ o.t.val = k := by simpa using hk
      rw [State.nwPush_holds hedge ha hb hr hfor h hq hcount ((nwHeld_nwFn o hop).trans hh.1) hoff, runWord_next hr,
        nwFn_slot o hop, hh.2]
      exact ⟨_, rfl, by simp⟩

end Sys2Proof.Machine
end

section
/-! PROOFS. The extension that an instruction belongs to, as R72 and R74 read it off the fields of its word. -/

namespace Sys2Proof.Machine
open Bits Tables

/-! ### The extension of a word -/

/-- The extension that an instruction belongs to: every matrix and link word, and every word of the network port (R72). -/
def extensionOf : Instr → Option Extension
  | .mcfg _ _ | .mzero _ _ | .mma _ _ _ _ _ | .mst _ _ _ | .mcnt _ _ _ | .mclrTile _ | .mclrLatch _ | .mcmp _ _ _ | .mlink _ _
  | .mrot _ _ _ _ _ | .mnorm _ _ _ | .malias _ | .msmp _ _ _ _ _ | .mvar _ _ | .mstop _ _ | .lrd _ _ | .lrf _ _ _ | .lwr _ _ =>
    some .m
  | .pushEpopen _ _ _ | .pushWsend _ _ _ | .pushWwrite _ _ _ | .pushWread _ _ _ | .pushCtrset _ _ _ | .pushCtrwait _ _ _
  | .pop _ .net | .ctrwait _ .net => some .n
  | _ => none

/-- A word of an extension runs behind the check of its core (R74 step 2). -/
theorem exec_of_extensionOf {i : Instr} {e : Extension} (h : extensionOf i = some e) (s : State) :
    ∃ k, exec i s = runWord s (s.needs e k) := by
  unfold extensionOf at h
  split at h
  case h_27 => cases h
  all_goals
    cases h
    exact ⟨_, rfl⟩

/-- What the fields of a word say of its extension: the major, and the port in field d of a push or in bits [12:9] of major 27. -/
def extAt (major d fn : Nat) : Option Extension :=
  if major = 29 ∨ major = 30 then some .m
  else if major = 26 ∧ d = 2 then some .n
  else if major = 27 ∧ fn / 2 ^ 9 = 2 then some .n
  else none

theorem extOf_encR {m d a b fn : Nat} (hm : m < 64) (hd : d < 16) (ha : a < 16) (hb : b < 16) (hf : fn < 2 ^ 13) :
    extOf (encR m d a b fn) = extAt m d fn := by
  have hmajor : majorOf (encR m d a b fn) = m := by simp only [majorOf, fld, encR]; omega
  have hport : fld (encR m d a b fn) 24 21 = d := by simp only [fld, encR]; omega
  have hfn : fld (encR m d a b fn) 12 9 = fn / 2 ^ 9 := by simp only [fld, encR]; omega
  simp [extOf, extAt, hmajor, hport, hfn]

/-- Majors of no extension (R72). -/
def plainMajor (m : Nat) : Bool := m < 26 || m == 28 || (30 < m && m < 64)

/-- A word of a major of no extension belongs to none, whatever its other 25 bits are. -/
theorem extOf_plain {m x : Nat} (hm : plainMajor m = true) (hx : x < 2 ^ 25) : extOf (m * 2 ^ 25 + x) = none := by
  have hp : m < 26 ∨ m = 28 ∨ 30 < m ∧ m < 64 := by simpa [plainMajor, or_assoc] using hm
  have hmajor : majorOf (m * 2 ^ 25 + x) = m := by simp only [majorOf, fld]; omega
  have h29 : m ≠ 29 := by omega
  have h30 : m ≠ 30 := by omega
  have h26 : m ≠ 26 := by omega
  have h27 : m ≠ 27 := by omega
  rw [extOf, hmajor]
  simp [h29, h30, h26, h27]

theorem extOf_encR_plain {m d a b fn : Nat} (hm : plainMajor m = true) (h : d < 16 ∧ a < 16 ∧ b < 16 ∧ fn < 2 ^ 13) :
    extOf (encR m d a b fn) = none := by
  simp only [encR, Nat.add_assoc]
  exact extOf_plain hm (by omega)

theorem extOf_encI_plain {m d a i : Nat} (hm : plainMajor m = true) (h : d < 16 ∧ a < 16 ∧ i < 2 ^ 17) :
    extOf (encI m d a i) = none := by
  simp only [encI, Nat.add_assoc]
  exact extOf_plain hm (by omega)

theorem extOf_encU_plain {m d i : Nat} (hm : plainMajor m = true) (h : d < 16 ∧ i < 2 ^ 21) : extOf (encU m d i) = none := by
  simp only [encU, Nat.add_assoc]
  exact extOf_plain hm (by omega)

theorem extOf_encM_plain {m d a size cls mode off : Nat} (hm : plainMajor m = true)
    (h : d < 16 ∧ a < 16 ∧ size < 4 ∧ cls < 2 ∧ mode < 4 ∧ off < 2 ^ 12) : extOf (encM m d a size cls mode off) = none := by
  simp only [encM, Nat.add_assoc]
  exact extOf_plain hm (by omega)

theorem extOf_encAged {m : Nat} (hm : plainMajor m = true) (d a : GReg) (x : AMode) (g : Lag) (o : BitVec 8) :
    extOf (encAged m d a x g o) = none := by
  have := Laws.aMode_code_le x
  obtain ⟨hsource, hvalue⟩ := Laws.lag_bits_le g
  exact extOf_encM_plain hm (by omega)

theorem extOf_encInt {op c : Nat} (t : ITy) (d a b : GReg) (hop : op < 26) (hc : c < 32) : extOf (encInt t op d a b c) = none := by
  have := Laws.iTy_code_le t
  exact extOf_encR_plain (by decide) (by omega)

theorem extOf_encFloat {op : Nat} (d a b : GReg) (r : Rnd) (x : Bool) (n : Fin 32) (hop : op < 10) :
    extOf (encFloat op d a b r x n) = none := by
  have := Laws.rnd_code_le r
  have := Laws.b2n_le x
  exact extOf_encR_plain (by decide) (by omega)

theorem extOf_encVec {op a b d x y : Nat} (h : op < 13 ∧ a < 16 ∧ b < 16 ∧ d < 8 ∧ x < 8 ∧ y < 8) :
    extOf (encVec op a b d x y) = none :=
  extOf_encR_plain (by decide) (by omega)

theorem extOf_encMask {op a d x y : Nat} (h : op < 5 ∧ a < 16 ∧ d < 4 ∧ x < 4 ∧ y < 4) : extOf (encMask op a d x y) = none :=
  extOf_encR_plain (by decide) (by omega)

theorem extOf_encCp {op low : Nat} (a b : GReg) (o : CpOpt) (hop : op < 16) (hlow : low < 64) : extOf (encCp op a b o low) = none := by
  have := Laws.b2n_le o.nr
  have := Laws.b2n_le o.q
  have := Laws.b2n_le o.ob
  exact extOf_encR (by decide) (by decide) a.isLt b.isLt (by omega)

theorem encBar_lt (r : Bar) {es : Nat} (hes : es < 4) : encBar r es < 64 := by
  have := barBits_lt r
  rw [encBar_eq]
  omega

theorem extOf_encNw {op : Nat} (a b : GReg) (o : NwOpt) (hop : op < 16) : extOf (encNw op a b o) = some .n := by
  have := Laws.b2n_le o.nr
  have := Laws.b2n_le o.q
  have := Laws.b2n_le o.h
  exact extOf_encR (by decide) (by decide) a.isLt b.isLt (by omega)

/-- Every word of majors 29 and 30 belongs to the matrix extension. -/
theorem extOf_encR_matrix {m d a b fn : Nat} (hm : m = 29 ∨ m = 30) (h : d < 16 ∧ a < 16 ∧ b < 16 ∧ fn < 2 ^ 13) :
    extOf (encR m d a b fn) = some .m := by
  obtain ⟨hd, ha, hb, hf⟩ := h
  rw [extOf_encR (by omega) hd ha hb hf, extAt, if_pos hm]

theorem extOf_encRun {op d : Nat} (a b : GReg) (x : Bool) (k : BitVec 8) (hop : op < 16) (hd : d < 16) :
    extOf (encRun op d a.val b.val x k) = some .m := by
  have := Laws.b2n_le x
  exact extOf_encR_matrix (.inl rfl) (by omega)

/-- The extension that R74 reads off a word's fields is that of the instruction. -/
theorem extOf_encode {i : Instr} {w : Nat} (h : encode i = some w) : extOf w = extensionOf i := by
  cases i with
  | nop | ecall | brk | tret | ifence | jr | callr | pub | itset | itinc | mig | migc | tlook | tset | tinv | tage | spawn | post
  | done | yield | send | chset | chclr | resid | launch | vfence | sbind | sfree | ssync | bfi | fmin | fmax | feq | flt | fle
  | fcls | cadd | frcp | frsq | fsqrt | fdiv | fex2 | flg2 | fsin | fcos | ftanh | vget | vput | vbusy | kpop =>
    exact Option.some.inj h ▸ extOf_encR_plain (by decide) (by omega)
  | csrr | csrw | csrs | csrc | beq | bne | blt | bge | blo | bhs | bkz | bknz | addi | andi | ori | xori | shli | shri | sari | slti =>
    exact Option.some.inj h ▸ extOf_encI_plain (by decide) (by omega)
  | jmp | call | lui => exact Option.some.inj h ▸ extOf_encU_plain (by decide) (by omega)
  | ld _ _ z c e =>
    have := Laws.size_code_le z
    have := Laws.cls_code_le c
    exact Option.some.inj h ▸ extOf_encM_plain (by decide) (by split <;> omega)
  | st _ _ z c =>
    have := Laws.size_code_le z
    have := Laws.cls_code_le c
    exact Option.some.inj h ▸ extOf_encM_plain (by decide) (by omega)
  | ldf _ _ c | ldff _ _ c | fetst _ _ c | stf _ _ c | stfill _ _ c | stemp _ c =>
    have := Laws.cls_code_le c
    exact Option.some.inj h ▸ extOf_encM_plain (by decide) (by omega)
  | lda | fetcha => exact Option.some.inj h ▸ extOf_encAged (by decide) _ _ _ _ _
  | amo o _ _ _ wide c =>
    have := Laws.amoOp_code_le o
    have := Laws.b2n_le wide
    have := Laws.cls_code_le c
    exact Option.some.inj h ▸ extOf_encR_plain (by decide) (by omega)
  | cas _ _ _ wide c =>
    have := Laws.b2n_le wide
    have := Laws.cls_code_le c
    exact Option.some.inj h ▸ extOf_encR_plain (by decide) (by omega)
  | fence x =>
    have := Laws.scope_code_le x
    exact Option.some.inj h ▸ extOf_encR_plain (by decide) (by omega)
  | pushCopy | pushFill | pushFetcha | pushPublish =>
    exact Option.some.inj h ▸ extOf_encCp _ _ _ (by decide) (encBar_lt _ (by decide))
  | pushGather _ _ _ _ z | pushScatter _ _ _ _ z =>
    have := Laws.eSize_code_le z
    exact Option.some.inj h ▸ extOf_encCp _ _ _ (by decide) (encBar_lt _ (by omega))
  | pushReduce _ _ _ x t =>
    have := Laws.redOp_code_le x
    have := Laws.redTy_code_le t
    exact Option.some.inj h ▸ extOf_encCp _ _ _ (by decide) (by omega)
  | pushAbar => exact Option.some.inj h ▸ extOf_encCp _ _ _ (by decide) (by omega)
  | pushArm a b => exact Option.some.inj h ▸ extOf_encR (by decide) (by decide) a.isLt b.isLt (by decide)
  | pushEpopen | pushWsend | pushWwrite | pushWread | pushCtrset | pushCtrwait =>
    exact Option.some.inj h ▸ extOf_encNw _ _ _ (by decide)
  | pop r p | ctrwait r p =>
    cases p <;> exact Option.some.inj h ▸ extOf_encR (by decide) (by omega) (by omega) (by decide) (by decide)
  | crcfg a | crcfgSet a | crcfgAdd a =>
    exact Option.some.inj h ▸ extOf_encR (by decide) (by decide) a.isLt (by decide) (by decide)
  | mcfg | mst | mcnt | mclrTile | mcmp | mnorm | malias | mvar | mstop =>
    exact Option.some.inj h ▸ extOf_encR_matrix (.inl rfl) (by omega)
  | mzero _ all =>
    have := Laws.b2n_le all
    exact Option.some.inj h ▸ extOf_encR_matrix (.inl rfl) (by omega)
  | mma | mrot | msmp => exact Option.some.inj h ▸ extOf_encRun _ _ _ _ (by decide) (by omega)
  | mclrLatch l =>
    have := Laws.latch_code_le l
    exact Option.some.inj h ▸ extOf_encR_matrix (.inl rfl) (by omega)
  | mlink _ l =>
    have := Laws.link_code_le l
    exact Option.some.inj h ▸ extOf_encR_matrix (.inl rfl) (by omega)
  | lrd _ l | lwr l =>
    have := Laws.link_code_le l
    exact Option.some.inj h ▸ extOf_encR_matrix (.inr rfl) (by omega)
  | lrf _ l o =>
    have := Laws.link_code_le l
    have := Laws.link_code_le o
    exact Option.some.inj h ▸ extOf_encR_matrix (.inr rfl) (by omega)
  | vld _ _ _ m | vst _ _ _ m =>
    have := Laws.b2n_le m
    exact Option.some.inj h ▸ extOf_encR_plain (by decide) (by omega)
  | add | sub | mul | mulh | mulhz | div | divz | rem | remz | and | or | xor | andn | shl | shr | sar | slt | sltz | min | max
  | minz | maxz | clz | ctz | popc | sel =>
    exact Option.some.inj h ▸ extOf_encInt _ _ _ _ (by decide) (by omega)
  | bfx => exact Option.some.inj h ▸ extOf_encR_plain (by decide) (by split <;> omega)
  | fadd | fsub | fmul => exact Option.some.inj h ▸ extOf_encFloat _ _ _ _ _ _ (by decide)
  | fsgn _ _ _ m =>
    have := Laws.sgnMode_code_le m
    exact Option.some.inj h ▸ extOf_encR_plain (by decide) (by omega)
  | ffma _ _ _ _ r x =>
    have := Laws.rnd_code_le r
    have := Laws.b2n_le x
    exact Option.some.inj h ▸ extOf_encR_plain (by decide) (by omega)
  | fcvt _ _ x t v r =>
    have := Laws.b2n_le x
    have := Laws.cTy_code_le t
    have := Laws.cTy_code_le v
    have := Laws.rnd_code_le r
    exact Option.some.inj h ▸ extOf_encR_plain (by decide) (by omega)
  | srnd _ _ _ t v x =>
    have := Laws.srndD_code_le t
    have := Laws.srndS_code_le v
    have := Laws.b2n_le x
    exact Option.some.inj h ▸ extOf_encR_plain (by decide) (by omega)
  | vadd | vsub | vmul | vfma | vmin | vmax | vcmp | vsel | vred | vscan | vcvt | vperm | vbcast =>
    exact Option.some.inj h ▸ extOf_encVec (by omega)
  | kand | kor | kxor | knot | kset => exact Option.some.inj h ▸ extOf_encMask (by omega)
  | _ => cases h

end Sys2Proof.Machine
end

section
/-! PROOFS. Words of an extension that the core lacks: the nearest core that lists it, and the departure for it (R35, R76). -/

namespace Sys2Proof.Machine
open Bits Tables

/-! ### The nearest core (R35) -/

/-- Core d is no farther from a core than c, ties to the lower number (R35). -/
def State.NoFarther (s : State) (src d c : Nat) : Prop := s.hops src d < s.hops src c ∨ s.hops src d = s.hops src c ∧ d ≤ c

theorem State.NoFarther.refl (s : State) (src c : Nat) : s.NoFarther src c c := .inr ⟨rfl, Nat.le_refl _⟩

theorem State.NoFarther.trans {s : State} {src a b c : Nat} (hab : s.NoFarther src a b) (hbc : s.NoFarther src b c) :
    s.NoFarther src a c := by
  unfold State.NoFarther at *
  omega

/-- The nearer of two cores is one of them, and no farther than either. -/
theorem State.nearer_some (s : State) (src b c : Nat) : ∃ d, s.nearer src (some b) c = some d ∧ (d = b ∨ d = c) ∧
    s.NoFarther src d b ∧ s.NoFarther src d c := by
  by_cases h : s.hops src c < s.hops src b ∨ s.hops src c = s.hops src b ∧ c < b
  · refine ⟨c, by simp [State.nearer, h], .inr rfl, ?_, .refl ..⟩
    unfold State.NoFarther
    omega
  · refine ⟨b, by simp [State.nearer, h], .inl rfl, .refl .., ?_⟩
    unfold State.NoFarther
    omega

/-- The search keeps a core that is no farther than the first one and all those seen. -/
theorem State.foldl_nearer (s : State) (src : Nat) (l : List Nat) (b : Nat) : ∃ d, l.foldl (s.nearer src) (some b) = some d ∧
    d ∈ b :: l ∧ ∀ c ∈ b :: l, s.NoFarther src d c := by
  induction l generalizing b with
  | nil => exact ⟨b, rfl, by simp, by simp [State.NoFarther.refl]⟩
  | cons x l ih =>
    obtain ⟨y, hy, hmem, hyb, hyx⟩ := s.nearer_some src b x
    obtain ⟨d, hd, hdmem, hdle⟩ := ih y
    have hdy : s.NoFarther src d y := hdle y (by simp)
    refine ⟨d, by rw [List.foldl_cons, hy, hd], ?_, ?_⟩
    · rcases List.mem_cons.mp hdmem with rfl | hl
      · rcases hmem with rfl | rfl <;> simp
      · simp [hl]
    · simp only [List.mem_cons, forall_eq_or_imp]
      exact ⟨hdy.trans hyb, hdy.trans hyx, fun c hc => hdle c (by simp [hc])⟩

theorem State.nearest_none {s : State} {e : Extension} (h : ∀ c ∈ s.regionCores s.booth, lists e c = false) : s.nearest e = none := by
  have hnil : (s.regionCores s.booth).filter (lists e) = [] := by simpa using h
  rw [State.nearest, hnil, List.foldl_nil]

theorem State.nearest_some {s : State} {e : Extension} (h : ∃ c ∈ s.regionCores s.booth, lists e c = true) :
    ∃ d, s.nearest e = some d ∧ d ∈ s.regionCores s.booth ∧ lists e d = true ∧
      ∀ c ∈ s.regionCores s.booth, lists e c = true → s.NoFarther s.cid d c := by
  obtain ⟨c, hc, hlists⟩ := h
  have hfound : c ∈ (s.regionCores s.booth).filter (lists e) := List.mem_filter.mpr ⟨hc, hlists⟩
  cases hl : (s.regionCores s.booth).filter (lists e) with
  | nil => simp [hl] at hfound
  | cons x l =>
    obtain ⟨d, hd, hmem, hle⟩ := s.foldl_nearer s.cid l x
    rw [← hl] at hmem hle
    obtain ⟨hregion, hext⟩ := List.mem_filter.mp hmem
    exact ⟨d, by rw [State.nearest, hl]; exact hd, hregion, hext, fun c hc hx => hle c (List.mem_filter.mpr ⟨hc, hx⟩)⟩

/-! ### Departure (R35) -/

theorem State.depart_net (s : State) (dst pc : Nat) (carry : Option Nat) : (s.depart dst pc carry).net =
    s.net ++ [s.newMsg s.cid dst s.booth s.uid (tidOf (dst * 16 + slotOf s.cur)) 3 .context] := rfl

@[simp] theorem State.depart_slot (s : State) (dst pc : Nat) (carry : Option Nat) :
    (s.depart dst pc carry).slot s.cur = { s.slot s.cur with phase := .free, run := none } := by
  simp only [State.depart, State.slot_setSlot_same]

/-- The record of a thread that has left: on its way, with the number of the slot that it is for, its registers, and a PC. -/
theorem State.depart_thread (s : State) (dst pc : Nat) (carry : Option Nat) : ∃ t, (s.depart dst pc carry).thread s.uid = some t ∧
    t.place = .flight ∧ t.key = dst * 16 + s.cur % 16 ∧ t.ctx.g = s.th.ctx.g ∧ t.ctx.pc = BitVec.ofNat 48 pc :=
  ⟨_, State.setThread_thread_same .., rfl, rfl, rfl, rfl⟩

theorem SlotRegs.lowBound_none {x : SlotRegs} (h : ∀ k : Fin 4, x.streams[k] = none) : x.lowBound = none := by
  have h0 : x.streams[0] = none := h 0
  have h1 : x.streams[1] = none := h 1
  have h2 : x.streams[2] = none := h 2
  have h3 : x.streams[3] = none := h 3
  simp [SlotRegs.lowBound, h0, h1, h2, h3]

/-- A thread with nothing outstanding and no stream bound leaves for a core of its region. -/
theorem State.Runs.moveTo_departs {s : State} {u : Nat} {t : Thread} (hr : s.Runs u t) (hq : t.Quiet) (hsfu : t.sfuPend = 0)
    (hstreams : ∀ k : Fin 4, s.regs.streams[k] = none) {dst : Nat} (hdst : dst ∈ s.regionCores s.booth) (tval pc : Nat)
    (carry : Option Nat) : s.moveTo dst tval pc carry = .gone ((s.setThread u t).depart dst pc carry) := by
  have hf : (s.setThread u t).Runs u t := hr.setThread rfl rfl
  have hin : s.inRegion s.booth dst = true := by simpa [State.inRegion] using hdst
  simp [State.moveTo, hin, SlotRegs.lowBound_none hstreams, hr.fenceStep_quiet hq, hf.th, hsfu]

/-! ### The statement O30 -/

theorem State.needs_absent {s : State} {e : Extension} (h : lists e s.cid = false) (k : Step) : s.needs e k = s.implicit e := by
  simp [State.needs, h]

/-- Settles O30: a word of an extension runs behind the check of its core, and where the core lacks it, the nearest core of the region that
lists it, if there is one, is where the thread goes. -/
theorem absentExtensions : Obligations.AbsentExtensions := by
  unfold Obligations.AbsentExtensions
  intro i w e s u t henc hext hr habsent has
  have hhas : has = lists e := by funext c; cases e <;> rfl
  have hlacks : lists e s.cid = false := by cases e <;> simpa [lists] using habsent
  obtain ⟨k, hexec⟩ := exec_of_extensionOf ((extOf_encode henc).symm.trans hext) s
  rw [hexec, State.needs_absent hlacks, State.implicit, hhas, ← hr.booth]
  refine ⟨fun hnone => ?_, fun hsome hq hsfu hstreams => ?_⟩
  · rw [State.nearest_none hnone]
    exact runWord_trapW hr _
  · obtain ⟨dst, hnear, hregion, hlists, hle⟩ := State.nearest_some hsome
    have hf : (s.setThread u t).Runs u t := hr.setThread rfl rfl
    obtain ⟨t', ht', hplace, hkey, hg, hpc⟩ := (s.setThread u t).depart_thread dst s.bun.pc none
    rw [hf.uid] at ht'
    rw [hf.th] at hg
    simp only [hnear, hr.moveTo_departs hq hsfu hstreams hregion, runWord_gone hr]
    have hslot := (s.setThread u t).depart_slot dst s.bun.pc none
    exact ⟨_, _, t', rfl, rfl, State.depart_net _ dst s.bun.pc none, rfl, rfl, rfl, hf.booth.trans hr.booth.symm, hf.uid, hregion,
      hlists, hle, congrArg Slot.run hslot, congrArg Slot.phase hslot, rfl, ht', hplace, hkey, hg, by rw [hpc, BitVec.toNat_ofNat]⟩

end Sys2Proof.Machine
end

section
/-! PROOFS. `mig` and `migc`: the core that a word names, and the departure for it (R35, R36, R170 to R172). -/

namespace Sys2Proof.Machine
open Bits Tables

/-! ### The core that `migc` names (R170) -/

theorem isCore_lt {c : Nat} (h : isCore c = true) : c < 2 ^ 26 := by
  simp only [isCore, Bool.and_eq_true, decide_eq_true_eq] at h
  exact h.1

/-- A field of the word that names a core, its number from bit 4 on. -/
theorem wfld_coreWord {c : Nat} (h : c < 2 ^ 26) (hi lo : Nat) : wfld (BitVec.ofNat 64 (c * 16)) hi lo = fld (c * 16) hi lo := by
  rw [wfld, BitVec.toNat_ofNat, Nat.mod_eq_of_lt (by omega)]

theorem State.Unbound.execMigc {s : State} {a : GReg} (ha : s.Unbound a) {c : Nat} (hc : isCore c = true)
    (hsrc : s.src a = BitVec.ofNat 64 (c * 16)) : exec (.migc a) s = runWord s (s.migrate c) := by
  have hlt := isCore_lt hc
  have htop : fld (c * 16) 31 30 = 0 := by simp only [fld]; omega
  have hlow : fld (c * 16) 3 0 = 0 := by simp only [fld]; omega
  have hnum : fld (c * 16) 29 4 = c := by simp only [fld]; omega
  change runWord s (s.getG a _) = _
  rw [State.getG_unbound ha, hsrc]
  simp only [wfld_coreWord hlt, htop, hlow, hnum, hc]
  rfl

/-! ### Migration (R35, R171, R172) -/

/-- A migration to the own core has no effect (R170). -/
theorem State.migrate_own {s : State} {dst : Nat} (h : dst = s.cid) : s.migrate dst = .next s := if_pos h

/-- An access served by a page of a home core translates to that page (R118, R119). -/
theorem State.Far.translate {s : State} {a : Acc} {va : Nat} {p : Page} (h : s.Far a va p) (k : Target → Step) :
    s.translate a va k = k (.home p (p.ga va)) := by
  have haway : isWin va = false := by simpa [isWin] using h.away
  simp only [State.translate, State.look, haway, h.page, h.walked, h.serves, if_true, Bool.false_eq_true, if_false]
  rfl

/-- A destination outside the booth's region is refused (R35). -/
theorem State.moveTo_refused {s : State} {dst : Nat} (h : s.inRegion s.booth dst = false) (tval pc : Nat) (carry : Option Nat) :
    s.moveTo dst tval pc carry = trap .migrateRefused tval := by
  simp only [State.moveTo, h, Bool.not_false, if_true]

/-- The record of a thread that has left: nothing of it that the fields named here do not hold has changed. -/
theorem State.depart_record (s : State) (dst pc : Nat) (carry : Option Nat) : (s.depart dst pc carry).thread s.uid =
    some { s.th with
      key := dst * 16 + slotOf s.cur, place := .flight, wait := .migrating s.nextMid, carry := carry, held := [], aRan := false
      beats := 0, cpOut := [], nwOut := [], cpCount := s.th.cpCount - s.th.cpOut.length
      nwCount := s.th.nwCount - s.th.nwOut.length, moves := s.th.moves + 1, ctx := { s.th.ctx with pc := BitVec.ofNat 48 pc } } :=
  State.setThread_thread_same ..

/-! ### The statement O13 -/

/-- Settles O13: a page at home here names the own core, as an own `migc` does; another core of the region takes the context, and
one outside it is refused. -/
theorem migrations : Obligations.Migrations := by
  unfold Obligations.Migrations
  refine ⟨fun a s u t hr ha => ⟨fun hwin => ?_, fun p hfar hhome => ?_, fun hsrc hcore => ?_⟩,
    fun a dst s u t hr ha hcore hne hsrc => ⟨fun hin hq hsfu hstreams => ?_, fun hout => ?_⟩⟩
  · have hw : isWin ((s.src a).toNat % 2 ^ 48) = true := by simpa [isWin] using hwin
    change runWord s (s.getG a _) = _
    rw [State.getG_unbound ha, ← runWord_next hr]
    simp only [hw, if_true]
  · have haway : isWin ((s.src a).toNat % 2 ^ 48) = false := by simpa [isWin] using hfar.away
    change runWord s (s.getG a _) = _
    rw [State.getG_unbound ha, ← runWord_next hr, ← State.migrate_own hhome]
    simp only [haway, Bool.false_eq_true, if_false, hfar.translate]
  · rw [ha.execMigc hcore hsrc, State.migrate_own rfl, runWord_next hr]
  · have hf : (s.setThread u t).Runs u t := hr.setThread rfl rfl
    have hdst : dst ∈ s.regionCores s.booth := by simpa [State.inRegion, hr.booth] using hin
    rw [ha.execMigc hcore hsrc, State.migrate, if_neg hne, hr.moveTo_departs hq hsfu hstreams hdst, runWord_gone hr]
    generalize (if s.bun.size = 8 then s.bun.pc else s.bun.pc + 4) = pc
    generalize (if s.bun.size = 8 then some s.bun.aw else none) = carry
    have hslot := (s.setThread u t).depart_slot dst pc carry
    have hrec := (s.setThread u t).depart_record dst pc carry
    rw [hf.uid, hf.th] at hrec
    exact ⟨_, _, rfl, rfl, State.depart_net _ dst pc carry, rfl, rfl, rfl, hf.booth, hf.uid, rfl, congrArg Slot.run hslot,
      congrArg Slot.phase hslot, rfl, _, hrec, rfl, rfl, rfl, rfl, rfl, BitVec.toNat_ofNat ..⟩
  · have hrefused : s.inRegion s.booth dst = false := by rwa [hr.booth]
    rw [ha.execMigc hcore hsrc, State.migrate, if_neg hne, State.moveTo_refused hrefused, runWord_trap_cause hr]

end Sys2Proof.Machine
end

section
/-! PROOFS. Channel messages and contexts that arrive, and the filling of slots (R29, R36, R103, R298, R306, R308, R317). -/

namespace Sys2Proof.Machine
open Bits Tables

/-! ### Channel messages (R308) -/

@[simp] theorem State.setChan_chan_same (s : State) (cid b n : Nat) (c : Chan) : (s.setChan cid b n c).chan cid b n = c := by
  simp [State.chan]

theorem State.foreignChan_iff (s : State) (m : Msg) :
    s.foreignChan m = false ↔ ∃ t, s.thread m.uid = some t ∧ t.tenant = s.chanTenant m.dst m.booth := by
  unfold State.foreignChan
  cases s.thread m.uid <;> simp

/-- The channel that a message names takes it: it is bound, its core is the booth's, and the sender runs for the tenant of the core's
channel table (R308). -/
def State.Admits (s : State) (m : Msg) (k : Nat) : Prop :=
  (s.chan m.dst m.booth k).bound = true ∧ s.inRegion m.booth m.dst = true ∧
    ∃ t, s.thread m.uid = some t ∧ t.tenant = s.chanTenant m.dst m.booth

/-- `Admits` is the negation of the test that refuses a message. -/
theorem State.admits_iff (s : State) (m : Msg) (k : Nat) : s.Admits m k ↔
    (!(s.chan m.dst m.booth k).bound || s.foreignChan m || !s.inRegion m.booth m.dst) = false := by
  simp only [State.Admits, ← State.foreignChan_iff, Bool.or_eq_false_iff, Bool.not_eq_false']
  exact ⟨fun ⟨hbound, hregion, hown⟩ => ⟨⟨hbound, hown⟩, hregion⟩, fun ⟨⟨hbound, hown⟩, hregion⟩ => ⟨hbound, hregion, hown⟩⟩

section
variable {s : State} {n k : Nat} {m : Msg} {ws : List Word} (harr : s.arrived n = some m) (hbody : m.body = .chan k ws)
include harr hbody

theorem State.chanArrive_enters (h : s.Admits m k) (hlen : (s.chan m.dst m.booth k).queue.length < 8)
    (hsend : (s.chan m.dst m.booth k).senders = []) :
    s.chanArrive n = some (((s.dropMsg n).setChan m.dst m.booth k { s.chan m.dst m.booth k with
      queue := (s.chan m.dst m.booth k).queue ++ [ws] }).answer m (.reply Answer.none)) := by
  simp [State.chanArrive, harr, hbody, (s.admits_iff m k).mp h, hlen, hsend]

theorem State.chanArrive_waits (h : s.Admits m k)
    (hfull : 8 ≤ (s.chan m.dst m.booth k).queue.length ∨ (s.chan m.dst m.booth k).senders ≠ []) :
    s.chanArrive n = some ((s.dropMsg n).setChan m.dst m.booth k { s.chan m.dst m.booth k with
      senders := (s.chan m.dst m.booth k).senders ++ [m] }) := by
  have hroom : (decide ((s.chan m.dst m.booth k).queue.length < 8) && (s.chan m.dst m.booth k).senders.isEmpty) = false := by
    rw [Bool.and_eq_false_iff]
    exact hfull.imp (fun hlen => decide_eq_false (Nat.not_lt.mpr hlen)) (fun hsend => by rwa [← Bool.not_eq_true, List.isEmpty_iff])
  simp only [State.chanArrive, harr, hbody, (s.admits_iff m k).mp h, hroom, Bool.false_eq_true, if_false]

theorem State.chanArrive_refused (h : ¬ s.Admits m k) :
    s.chanArrive n = some (s.answered n m (.trapReply 0x15 (m.va % 2 ^ 48))) := by
  rw [s.admits_iff, Bool.not_eq_false] at h
  have hval : tvV 0 m.va = m.va % 2 ^ 48 := by simp [tvV]
  simp only [State.chanArrive, harr, hbody, h, if_true, hval]
  rfl

end

/-! ### A thread in a slot -/

/-- Thread u stands in a slot, with a record and slot-owned registers. -/
structure State.Holds (s : State) (key u : Nat) (t : Thread) (r : SlotRegs) : Prop where
  thread : s.thread u = some t
  run : (s.slot key).run = some u
  phase : (s.slot key).phase = .live
  regs : (s.slot key).regs = r

/-- A context without a kept trap enters a slot and goes on where it stood. -/
theorem State.enterSlot_untrapped {s : State} {u : Nat} {t : Thread} (ht : s.thread u = some t) (htrap : t.pendTrap = none)
    (key : Nat) (r : SlotRegs) : s.enterSlot key u r =
      (s.setThread u { t with key := key, place := .slot, preempted := false }).setSlot key
        { s.slot key with phase := .live, run := some u, regs := r } := by
  simp only [State.enterSlot, ht, htrap]

theorem State.enterSlot_holds {s : State} {u : Nat} {t : Thread} (ht : s.thread u = some t) (htrap : t.pendTrap = none)
    (key : Nat) (r : SlotRegs) :
    (s.enterSlot key u r).Holds key u { t with key := key, place := .slot, preempted := false } r := by
  rw [State.enterSlot_untrapped ht htrap]
  exact ⟨State.setThread_thread_same .., by simp, by simp, by simp⟩

/-! ### Migrated contexts (R36) -/

/-- A context has left the shadow bank or the queue of the core where it waited. -/
def State.unqueued (s : State) (key u : Nat) : State :=
  (s.setSlot key { s.slot key with shadow := match (s.slot key).shadow with
    | .arrival c => if c.uid = u then Shadow.empty else (s.slot key).shadow
    | y => y }).setCore (cidOf key) { s.core (cidOf key) with
      arrivals := (s.core (cidOf key)).arrivals.filter (fun a => a.uid != u) }

section
variable {s : State} {u : Nat} {t : Thread} (ht : s.thread u = some t) (htrap : t.pendTrap = none) (key : Nat)
include ht

/-- A migrated context enters its slot: its wait ends, and its v and k, and the engine's state of the slot, are drawn. -/
theorem State.enterMigrated_eq : s.enterMigrated key u = ((((s.unqueued key u).setThread u (t.woken s.cycle)).enterSlot key u
    ((s.slot key).regs.migrated (s.undef t.booth t.tenant))).drawn t.booth t.tenant) := by
  have ht' : (s.unqueued key u).thread u = some t := ht
  unfold State.enterMigrated
  simp only [ht, Option.map_some, Option.getD_some]
  change ((State.modThread (s.unqueued key u) u _).enterSlot key u _).drawn _ _ = _
  rw [State.modThread, ht']

include htrap

theorem State.enterMigrated_holds : (s.enterMigrated key u).Holds key u
    { t.woken s.cycle with key := key, place := .slot, preempted := false }
    ((s.slot key).regs.migrated (s.undef t.booth t.tenant)) := by
  rw [State.enterMigrated_eq ht]
  obtain ⟨hthread, hrun, hphase, hregs⟩ := State.enterSlot_holds (s := (s.unqueued key u).setThread u (t.woken s.cycle))
    (State.setThread_thread_same ..) htrap key ((s.slot key).regs.migrated (s.undef t.booth t.tenant))
  exact ⟨hthread, hrun, hphase, hregs⟩

theorem State.enterMigrated_frame : (s.enterMigrated key u).mem = s.mem ∧ (s.enterMigrated key u).net = s.net ∧
    (s.enterMigrated key u).fresh = (s.drawn t.booth t.tenant).fresh := by
  rw [State.enterMigrated_eq ht,
    State.enterSlot_untrapped (t := t.woken s.cycle) (State.setThread_thread_same (s.unqueued key u) u _) htrap]
  exact ⟨rfl, rfl, rfl⟩

end

/-- What a migration leaves undefined of v and k, and what it keeps (R36). -/
theorem SlotRegs.migrated_v (x : SlotRegs) (w : Nat → Word) (i : Fin 8) (j : Fin 16) :
    (x.migrated w).v[i][j] = (w (i.val * 16 + j.val)).setWidth 32 := by
  change (undefV w)[i][j] = _
  simp [undefV]

theorem SlotRegs.migrated_k (x : SlotRegs) (w : Nat → Word) (i : Fin 4) :
    (x.migrated w).k[i] = (w (128 + i.val)).setWidth 16 := by
  change (undefK w)[i] = _
  simp [undefK]

@[simp] theorem SlotRegs.migrated_scratch (x : SlotRegs) (w : Nat → Word) : (x.migrated w).scratch = x.scratch := rfl
@[simp] theorem SlotRegs.migrated_tval (x : SlotRegs) (w : Nat → Word) : (x.migrated w).tval = x.tval := rfl

section
variable {s : State} {n : Nat} {m : Msg} {t : Thread} (harr : s.arrived n = some m) (hbody : m.body = .context)
  (ht : s.thread m.uid = some t)
include harr hbody ht

/-- A context for a slot that no handover hands over arrives as R36 says. -/
theorem State.migrationArrives_unhanded (hhand : ∀ h ∈ s.handovers, ∀ e ∈ h.2.slots, e.1 ≠ t.key) :
    s.migrationArrives n = s.migrationArrive n := by
  have hnone : s.handovers.find? (fun e => e.2.slots.any (fun x => x.1 == t.key)) = none := by
    refine List.find?_eq_none.mpr (fun h hh hany => ?_)
    obtain ⟨e, he, hkey⟩ := List.any_eq_true.mp hany
    exact hhand h hh e he (beq_iff_eq.mp hkey)
  simp only [State.migrationArrives, harr, hbody, ht, hnone]

/-- Its slot is free, and nothing waits for that slot: it enters. -/
theorem State.migrationArrive_enters (hphase : (s.slot t.key).phase = .free) (hshadow : (s.slot t.key).shadow = .empty)
    (hfirst : s.queuedFor t.key = false) (htenant : t.tenant = s.slotTenant t.booth t.key)
    (hbooth : s.slotBooth t.key = some t.booth) :
    s.migrationArrive n = some ((s.dropMsg n).enterMigrated t.key m.uid) := by
  simp [State.migrationArrive, harr, hbody, ht, hphase, hshadow, hfirst, ← htenant, hbooth]

section
variable (hphase : (s.slot t.key).phase = .live)
include hphase

/-- Its slot is in use: it takes the empty shadow bank. -/
theorem State.migrationArrive_shadow (hshadow : (s.slot t.key).shadow = .empty) (hfirst : s.queuedFor t.key = false) :
    s.migrationArrive n = some (((s.dropMsg n).setSlot t.key { s.slot t.key with
      shadow := .arrival ⟨m.uid, (s.slot t.key).regs, false⟩ }).setThread m.uid { t with place := .shadow }) := by
  have ht' (x : Slot) : ((s.dropMsg n).setSlot t.key x).thread m.uid = some t := ht
  simp [State.migrationArrive, harr, hbody, ht, hphase, hshadow, hfirst, State.modThread, ht']

/-- The shadow bank is taken: it takes one of the core's two places. -/
theorem State.migrationArrive_queue (hshadow : (s.slot t.key).shadow ≠ .empty) (hroom : s.arrivalsOf (cidOf t.key) t.booth < 2) :
    s.migrationArrive n = some (((s.dropMsg n).setCore (cidOf t.key) { s.core (cidOf t.key) with
      arrivals := (s.core (cidOf t.key)).arrivals ++ [⟨m.uid, (s.slot t.key).regs, false⟩] }).setThread m.uid
        { t with place := .arrival }) := by
  have ht' (x : Core) : ((s.dropMsg n).setCore (cidOf t.key) x).thread m.uid = some t := ht
  simp [State.migrationArrive, harr, hbody, ht, hphase, hshadow, hroom, State.modThread, ht']

/-- No place is left: it waits in the fabric. -/
theorem State.migrationArrive_waits (hshadow : (s.slot t.key).shadow ≠ .empty)
    (hfull : 2 ≤ s.arrivalsOf (cidOf t.key) t.booth) : s.migrationArrive n = none := by
  simp [State.migrationArrive, harr, hbody, ht, hphase, hshadow, Nat.not_lt.mpr hfull]

end
end

@[simp] theorem State.setCore_core_same (s : State) (cid : Nat) (c : Core) : (s.setCore cid c).core cid = c := by
  simp [State.core]

/-! ### Filling a slot (R298) -/

/-- A FREE slot of a core in service, of a booth that is not frozen, may be filled, where no packet is committed to it. -/
theorem State.opens_free {s : State} {key b : Nat} (hphase : (s.slot key).phase = .free) (hlost : (s.core (cidOf key)).lost = false)
    (hpre : ∀ p ∈ s.preempts, p.key ≠ key) (hbooth : s.slotBooth key = some b)
    (hfrozen : (s.boothPkg (pkgOf (cidOf key)) b).frozen = false) : s.opens key = some b := by
  have hany : s.preempts.any (fun p => p.key == key) = false := by simpa using hpre
  simp [State.opens, hphase, hlost, hany, hbooth, hfrozen]

/-- A slot that may be filled takes its first source. -/
theorem State.execSlotFill_eq {s : State} {key b : Nat} {x : Source} (hopen : s.opens key = some b)
    (hsrc : s.sourceFor b key = some x) : exec (.slotFill key) s = .next (s.fill key b x) := by
  change event _ (s.slotFill key) = _
  rw [State.slotFill, hopen]
  simp only [hsrc, Option.map_some, event_some]

/-! ### Saved contexts (R317) -/

/-- A saved context has left its image list. -/
def State.unlisted (s : State) (l u : Nat) : State :=
  { s with images := putD s.images l ((getD s.images l []).filter (fun i => i.saved.uid != u)) [] }

theorem State.modThread_keeps {s : State} {u : Nat} {t : Thread} (ht : s.thread u = some t) {f : Thread → Thread} (hf : f t = t) :
    s.modThread u f = s.setThread u t := by
  rw [State.modThread, ht]
  simp only [hf]

@[simp] theorem State.afresh_v (s : State) (u : Nat) (t : Thread) (x : SlotRegs) : (s.afresh u t x).v = x.v := rfl

section
variable {s : State} {l u : Nat} {im : Image} {t : Thread}
  (him : (getD s.images l []).find? (fun i => i.saved.uid == u) = some im) (hbank : im.bank = none) (ht : s.thread u = some t)
  (hwait : ∀ m, t.wait ≠ .migrating m) (key : Nat)
include him hbank ht hwait

/-- A saved context that no bank came with enters the slot, its in-streams read afresh. -/
theorem State.restore_eq : s.restore key l u = ((s.unlisted l u).setThread u t).enterSlot key u
    (((s.unlisted l u).setThread u t).afresh u { t with key := key, place := .slot } im.saved.regs) := by
  have ht' : (s.unlisted l u).thread u = some t := ht
  simp only [State.restore, him, hbank]
  change State.enterAfresh (State.modThread (s.unlisted l u) u _) key u _ = _
  rw [State.modThread_keeps ht', State.enterAfresh, State.setThread_thread_same]
  -- What is left: the record stays as it is, for its wait is no migration.
  split
  · exact absurd ‹_› (hwait _)
  · rfl

theorem State.restore_holds (htrap : t.pendTrap = none) : ∃ r, r.v = im.saved.regs.v ∧
    (s.restore key l u).Holds key u { t with key := key, place := .slot, preempted := false } r := by
  rw [State.restore_eq him hbank ht hwait]
  exact ⟨_, State.afresh_v .., State.enterSlot_holds (State.setThread_thread_same ..) htrap key _⟩

theorem State.restore_frame (htrap : t.pendTrap = none) : (s.restore key l u).mem = s.mem ∧
    getD (s.restore key l u).images l [] = (getD s.images l []).filter (fun i => i.saved.uid != u) := by
  rw [State.restore_eq him hbank ht hwait, State.enterSlot_untrapped (State.setThread_thread_same (s.unlisted l u) u t) htrap]
  exact ⟨rfl, getD_putD_same ..⟩

end

/-! ### New threads (R29, R103) -/

/-- A started thread stands in its slot: in task mode at the entry, its arguments in g1 to g4 and its other registers 0. -/
theorem State.startThread_starts (s : State) (key b entry : Nat) (args fds : List Word) (j : Job) :
    ∃ t, (s.startThread key b (newCtx entry args fds) j).thread s.nextUid = some t ∧
      ((s.startThread key b (newCtx entry args fds) j).slot key).run = some s.nextUid ∧
      ((s.startThread key b (newCtx entry args fds) j).slot key).phase = .live ∧
      t.place = .slot ∧ t.key = key ∧ t.booth = b ∧ t.job = j ∧ t.wait = .idle ∧ t.tenant = s.slotTenant b key ∧
      t.ctx.pc = BitVec.ofNat 48 entry ∧ t.ctx.prv = false ∧ t.ctx.th = false ∧ t.ctx.it = 0 ∧ t.ctx.tbm = 0 ∧
      ∀ i : Fin 16, t.ctx.g[i] = if 1 ≤ i.val ∧ i.val ≤ 4 then args.getD (i.val - 1) 0 else 0 := by
  refine ⟨_, State.setThread_thread_same s s.nextUid _, congrArg Slot.run (State.slot_setSlot_same ..),
    congrArg Slot.phase (State.slot_setSlot_same ..), rfl, rfl, rfl, rfl, rfl, rfl, rfl, rfl, rfl, rfl, rfl, fun i => ?_⟩
  simp [newCtx]

theorem State.jstate_pkgs (s : State) (p seq st : Nat) : ∃ ps, s.jstate p seq st = { s with pkgs := ps } := by
  simp only [State.jstate]
  split
  · exact ⟨s.pkgs, rfl⟩
  · split
    · exact ⟨s.pkgs, rfl⟩
    · exact ⟨_, rfl⟩

/-- What the commitment of a packet changes: its launch, the spawned packets, the stitching, and the journal (R309). -/
theorem State.commit_found {s : State} {p : Packet} {l : Launch} (h : find s.launches p.launch = some l) :
    ∃ l' st ps, s.commit p = { s with
        launches := put s.launches p.launch l', spawnQ := s.spawnQ.filter (· != p), stitch := st, pkgs := ps } ∧
      l'.live = l.live + 1 ∧ l'.prio = l.prio ∧ l'.deadline = l.deadline := by
  simp only [State.commit, h]
  split
  -- With a rectangle to stitch or without one; then a spawned packet or one of the launch's own.
  all_goals
    obtain ⟨ps, hps⟩ := State.jstate_pkgs _ l.pkg l.seq 2
    rw [hps]
    refine ⟨_, _, ps, rfl, ?_, ?_, ?_⟩ <;> split <;> rfl

/-- The first message of a channel without blocked senders becomes a thread, and nothing refills its queue (R306, R308). -/
theorem State.startMessage_unblocked {s : State} {key b n : Nat} (h : (s.chan (cidOf key) b n).senders = []) :
    s.startMessage key b n = (s.setChan (cidOf key) b n { s.chan (cidOf key) b n with
      queue := (s.chan (cidOf key) b n).queue.tail }).startThread key b (newCtx (s.chan (cidOf key) b n).entry
        ((s.chan (cidOf key) b n).queue.headD []) []) { Job.none with home := cidOf key } := by
  have hrefill {s : State} (h : (s.chan (cidOf key) b n).senders = []) : s.chanRefill (cidOf key) b n = s := by
    simp only [State.chanRefill, h]
  exact hrefill ((congrArg Chan.senders (State.setChan_chan_same ..)).trans h)

/-! ### The statement O51 -/

/-- Settles O51: an arrival is one of the cases of `chanArrive` and `migrationArrive`, and a slot that may be filled takes its first source. -/
theorem arrivalsAndSlotFills : Obligations.ArrivalsAndSlotFills := by
  unfold Obligations.ArrivalsAndSlotFills
  refine ⟨fun n k ws s m harr hbody => ⟨fun henters hlen hsend => ?_, fun henters hfull => ?_, fun hnot => ?_⟩,
    fun n s m t harr hbody ht htrap hhand => ?_, fun key b s hphase hlost hpre hbooth hfrozen => ?_⟩
  · exact ⟨_, congrArg (event _) (State.chanArrive_enters harr hbody henters hlen hsend), rfl,
      State.setChan_chan_same .., rfl, rfl⟩
  · exact ⟨_, congrArg (event _) (State.chanArrive_waits harr hbody henters hfull), rfl, State.setChan_chan_same .., rfl, rfl⟩
  · exact congrArg (event _) (State.chanArrive_refused harr hbody hnot)
  · have hexec : exec (.migrationArrival n) s = event "MIGRATION_ARRIVAL" (s.migrationArrive n) :=
      congrArg (event _) (State.migrationArrives_unhanded harr hbody ht hhand)
    rw [hexec]
    refine ⟨fun hphase hshadow hfirst htenant hbooth => ?_, fun hphase hshadow hfirst => ?_, fun hphase hshadow hroom => ?_,
      fun hphase hshadow hfull => ?_⟩
    · rw [State.migrationArrive_enters harr hbody ht hphase hshadow hfirst htenant hbooth]
      have ht' : (s.dropMsg n).thread m.uid = some t := ht
      obtain ⟨hthread, hrun, hlive, hregs⟩ := State.enterMigrated_holds ht' htrap t.key
      obtain ⟨hmem, hnet, hfresh⟩ := State.enterMigrated_frame ht' htrap t.key
      refine ⟨_, rfl, hnet, hmem, hthread, hlive, hrun, ?_⟩
      rw [hregs]
      exact ⟨rfl, rfl, SlotRegs.migrated_v _ _, SlotRegs.migrated_k _ _, hfresh⟩
    · rw [State.migrationArrive_shadow harr hbody ht hphase hshadow hfirst]
      exact ⟨_, rfl, rfl, State.slot_setSlot_same .., State.setThread_thread_same .., rfl⟩
    · rw [State.migrationArrive_queue harr hbody ht hphase hshadow hroom]
      exact ⟨_, rfl, rfl, rfl, congrArg Core.arrivals (State.setCore_core_same ..), State.setThread_thread_same .., rfl⟩
    · rw [State.migrationArrive_waits harr hbody ht hphase hshadow hfull]
      rfl
  · have hopen := State.opens_free hphase hlost hpre hbooth hfrozen
    refine ⟨fun u t hsrc ht htrap => ?_, fun l u im t hsrc him hbank ht htrap hwait => ?_, fun p l hsrc hl => ?_,
      fun n hsrc hsend => ?_⟩
    all_goals rw [State.execSlotFill_eq hopen hsrc]
    · obtain ⟨hthread, hrun, hlive, -⟩ := State.enterMigrated_holds ht htrap key
      exact ⟨_, rfl, hthread, hrun, hlive, (State.enterMigrated_frame ht htrap key).1⟩
    · obtain ⟨r, hv, hthread, hrun, hlive, hregs⟩ := State.restore_holds him hbank ht hwait key htrap
      obtain ⟨hmem, himages⟩ := State.restore_frame him hbank ht hwait key htrap
      exact ⟨_, rfl, hthread, hrun, hlive, (congrArg SlotRegs.v hregs).trans hv, himages, hmem⟩
    · obtain ⟨l', st, ps, hcommit, hlive, hprio, hdeadline⟩ := State.commit_found (p := p) hl
      have hl' : find (s.commit p).launches p.launch = some l' := by rw [hcommit, find_put_same]
      simp only [State.fill, State.startPacket, hl', hprio, hdeadline]
      rw [hcommit]
      exact ⟨_, l', rfl, State.startThread_starts .., find_put_same .., hlive, rfl⟩
    · simp only [State.fill, State.startMessage_unblocked hsend]
      exact ⟨_, rfl, State.startThread_starts .., congrArg Chan.queue (State.setChan_chan_same ..), rfl⟩

end Sys2Proof.Machine
end

section
/-! PROOFS. Rounded scalar arithmetic: one rounding of the exact result, its random bits from the old gD (R89, R90, R173 to R176). -/

namespace Sys2Proof.Machine
open Bits Tables

/-- A rounding that is not stochastic does not depend on the random word (R89). -/
theorem toF32_random_irrel {r : Rnd} (h : r ≠ .rs) (o o' : Word) (n : Nat) (sat : Bool) (x : Exact.Val) :
    toF32 r o n sat x = toF32 r o' n sat x := by
  cases r with
  | rs => exact absurd rfl h
  | rne | rz | rd | ru => rfl

/-- The words of `floatTable` run as one rounding of their exact operation (R176). -/
theorem exec_of_mem_floatTable {p : (GReg → GReg → GReg → Rnd → Bool → Fin 32 → Instr) × (Bool → Exact.Val → Exact.Val → Exact.Val)}
    (h : p ∈ floatTable) (d a b : GReg) (r : Rnd) (sat : Bool) (n : Fin 32) (s : State) :
    exec (p.1 d a b r sat n) s = runWord s (s.round2 d a b r sat n p.2) := by
  simp only [floatTable, List.mem_cons, List.not_mem_nil, or_false] at h
  obtain rfl | rfl | rfl := h
  all_goals rfl

section
variable {s : State} {u : Nat} {t : Thread} (hr : s.Runs u t) (hp : s.Prompt) {d a b c : GReg} (hd : s.Unbound d)
  (ha : s.Unbound a) (hb : s.Unbound b) (hc : s.Unbound c) (r : Rnd) (sat : Bool) (n : Fin 32)
include hr hp hd ha hb

/-- A rounded operation of two sources rounds with the old gD as its random word, which only `.rs` reads (R175, R176). -/
theorem State.round2_unbound (f : Bool → Exact.Val → Exact.Val → Exact.Val) : s.round2 d a b r sat n f =
    .next (s.withG d (toF32 r (s.src d) (n.val + 1) sat (f (r == .rd) (fval (s.src a)) (fval (s.src b))))) := by
  unfold State.round2
  by_cases hrs : r = .rs
  · rw [if_pos (beq_iff_eq.mpr hrs), State.op2d_unbound hr hp hd ha hb]
  · rw [if_neg (mt beq_iff_eq.mp hrs), State.op2_unbound hr hp hd ha hb, toF32_random_irrel hrs 0 (s.src d)]

include hc

/-- `ffma` rounds the exact x·y + z once, with the same random word (R175, R176). -/
theorem execFfma_unbound : execFfma d a b c r sat n s = .next (s.withG d (toF32 r (s.src d) (n.val + 1) sat
    (Exact.add (r == .rd) (Exact.mul (fval (s.src a)) (fval (s.src b))) (fval (s.src c))))).completed := by
  unfold execFfma
  rw [← runWord_next hr]
  by_cases hrs : r = .rs
  · rw [if_pos (beq_iff_eq.mpr hrs), State.notBound_unbound hd, State.getG_unbound ha, State.getG_unbound hb,
      State.getG_unbound hc, State.getG_unbound hd, State.putG_unbound hr hp hd]
  · rw [if_neg (mt beq_iff_eq.mp hrs), State.op3_unbound hr hp hd ha hb hc]
    simp only [toF32_random_irrel hrs 0 (s.src d)]

end

/-! ### The statement O31 -/

/-- Settles O31: each word is one `toF32` of its exact result, whose random word is the old gD under `.rs` and irrelevant otherwise. -/
theorem floatArithmetic : Obligations.FloatArithmetic := by
  unfold Obligations.FloatArithmetic
  refine ⟨fun p hmem d a b r sat n s u t hr hp hd ha hb => ?_, fun d a b c r sat n s u t hr hp hd ha hb hc => ?_⟩
  -- The statement spells out `Exact.mode`, which `toF32` names; it unfolds to the same cases.
  · rw [exec_of_mem_floatTable hmem, State.round2_unbound hr hp hd ha hb, runWord_next hr]
    rfl
  · exact execFfma_unbound hr hp hd ha hb hc r sat n

end Sys2Proof.Machine
end

section
/-! PROOFS. `nop`, `tret` and `itinc`: supervisor words, the return from a trap, and the launch's deadline (R110, R112, R135, R136,
R159, R309). -/

namespace Sys2Proof.Machine
open Bits Tables

/-! ### Supervisor words and the deadline -/

section
variable {s : State} {u : Nat} {t : Thread} (hr : s.Runs u t)
include hr

/-- A supervisor word goes on in supervisor mode (R110). -/
theorem State.supervisor_prv (hprv : t.ctx.prv = true) (k : Step) : s.supervisor k = k := by
  rw [State.supervisor, hr.th, if_pos hprv]

/-- In task mode it traps PRIV. -/
theorem State.supervisor_task (hprv : t.ctx.prv = false) (k : Step) : s.supervisor k = s.trapW .priv := by
  rw [State.supervisor, hr.th, hprv, if_neg Bool.false_ne_true]

theorem State.deadlinePassed_iff : s.deadlinePassed = true ↔ ∃ c, t.job.deadline = some c ∧ c ≤ s.cycle := by
  rw [State.deadlinePassed, hr.th]
  cases t.job.deadline with
  | none => simp
  | some c => simp

/-- `itinc` after the deadline of the launch (R309). -/
theorem State.itIncrement_late (h : s.deadlinePassed = true) : s.itIncrement = trap .deadline t.ctx.it.toNat := by
  simp only [State.itIncrement, hr.th, h, if_true]

/-- `itinc` in time: the greatest iteration traps, any other goes up by one (R159). -/
theorem State.itIncrement_timely (h : s.deadlinePassed = false) : s.itIncrement =
    if t.ctx.it = -1 then s.trapW .itOverflow else .next (s.modCtx (fun c => { c with it := t.ctx.it + 1 })) := by
  have hgreatest : t.ctx.it.toNat = 2 ^ 24 - 1 ↔ t.ctx.it = -1 := by rw [← BitVec.toNat_inj]; rfl
  have hsucc : BitVec.ofNat 24 (t.ctx.it.toNat + 1) = t.ctx.it + 1 := by
    rw [BitVec.ofNat_add, BitVec.ofNat_toNat, BitVec.setWidth_eq]
    rfl
  simp only [State.itIncrement, hr.th, h, Bool.false_eq_true, if_false, hgreatest, hsucc]

end

/-! ### The statement O8 -/

/-- Settles O8: `tret` is a supervisor word, and `itinc` is decided by the deadline first, then by the greatest iteration. -/
theorem nopReturnAndIterations : Obligations.NopReturnAndIterations := by
  unfold Obligations.NopReturnAndIterations
  intro s u t hr
  have htret : exec .tret s = runWord s (s.supervisor (.next (s.modCtx (fun c => c.trapReturn s.regs.epc)))) := rfl
  have hitinc : exec .itinc s = runWord s s.itIncrement := rfl
  refine ⟨runWord_next hr, fun hprv => ?_, fun hprv => ?_, fun hearly => ?_, fun hlate => ?_⟩
  · rw [htret, State.supervisor_prv hr hprv, runWord_next hr]
    rfl
  · rw [htret, State.supervisor_task hr hprv, runWord_trapW hr]
  · have htimely : s.deadlinePassed = false := by
      rw [← Bool.not_eq_true, State.deadlinePassed_iff hr]
      rintro ⟨c, hc, hle⟩
      exact Nat.not_le.mpr (hearly c hc) hle
    rw [hitinc, State.itIncrement_timely hr htimely]
    refine ⟨fun hit => ?_, fun hit => ?_⟩
    · rw [if_neg hit, runWord_next hr]
    · rw [if_pos hit, runWord_trapW hr]
  · rw [hitinc, State.itIncrement_late hr ((State.deadlinePassed_iff hr).mpr hlate), runWord_trap_cause hr]

end Sys2Proof.Machine
end

section
/-! PROOFS. Control registers: their numbers, the checks of an access, and what `csrr`, `csrw`, `csrs` and `csrc` do (R104 to R109,
R138). -/

namespace Sys2Proof.Machine
open Bits Tables

/-! ### Numbers of registers (R104) -/

/-- The number of a control register. -/
def Csr.num : Csr → Nat
  | .stat => 0x000 | .tvec => 0x001 | .epc => 0x002 | .cause => 0x003 | .tval => 0x004 | .scratch => 0x005
  | .it => 0x010 | .age => 0x011 | .tbm => 0x012 | .tid => 0x013 | .fda => 0x018 | .fdb => 0x019 | .fdc => 0x01A
  | .xlist => 0x020 | .nbv => 0x021 | .feretry => 0x030 | .fewait => 0x031 | .agewait => 0x032 | .sndlim => 0x033
  | .mthr => 0x040 | .mxc n => 0x041 + n.val | .crcnt => 0x050 | .crterm => 0x051 | .cpin => 0x060 | .cpout => 0x061
  | .nwin => 0x062 | .nwout => 0x063

/-- The control registers, by rising number. -/
def Csr.all : List Csr :=
  [.stat, .tvec, .epc, .cause, .tval, .scratch, .it, .age, .tbm, .tid, .fda, .fdb, .fdc, .xlist, .nbv, .feretry, .fewait, .agewait,
    .sndlim, .mthr, .mxc 0, .mxc 1, .mxc 2, .mxc 3, .crcnt, .crterm, .cpin, .cpout, .nwin, .nwout]

theorem Csr.ofNum_num : ∀ r ∈ Csr.all, Csr.ofNum r.num = some r := by decide

/-- A number that names a register is the number of one of the list. -/
theorem Csr.mem_all_of_ofNum {n : Nat} {r : Csr} (h : Csr.ofNum n = some r) : r ∈ Csr.all ∧ r.num = n := by
  unfold Csr.ofNum at h
  split at h
  case h_31 => cases h
  all_goals
    cases h
    exact ⟨by decide, rfl⟩

/-! ### The table of reads -/

/-- The counters of a tile, which an edge core has not (R93). -/
theorem State.csr_mxc (s : State) (n : Fin 4) : s.csr (.mxc n) = if isEdge s.cid then 0 else
    let c := getD (s.core s.cid).tileCnt (groupOf s.cur * 4 + n.val) ⟨0, 0, 0⟩
    BitVec.ofNat 64 (c.satc + 2 ^ 16 * c.nanc + 2 ^ 32 * c.bsoc) := by
  have hrecord (c : TileCnt) : c.record = BitVec.ofNat 64 (c.satc + 2 ^ 16 * c.nanc + 2 ^ 32 * c.bsoc) :=
    congrArg (BitVec.ofNat 64) (by omega)
  simp only [State.csr, lists, Core.tile, hrecord]
  cases isEdge s.cid <;> rfl

theorem State.csr_xlist (s : State) : s.csr .xlist = if isEdge s.cid then 2 else 1 := by
  simp only [State.csr, lists, Bool.not_eq_true', ← Bool.not_eq_true, ite_not]

/-- NWIN of an edge core reads 32 while the engine serves the booth's other tenant (log entry 65). -/
theorem State.Runs.csr_nwin {s : State} {u : Nat} {t : Thread} (hr : s.Runs u t) : s.csr .nwin =
    if !isEdge s.cid then 0 else if s.netTenant (pkgOf s.cid) (dieOf s.cid) t.booth = t.tenant then
      BitVec.ofNat 64 (32 - (s.nq (nqKey s.cid t.booth)).queue.length) else 32 := by
  simp only [State.csr, lists, hr.netForeign_iff, hr.booth, ne_eq, ite_not]

/-- `csrTable` lists every register, with its number, whether task mode reads it, and its value. -/
theorem State.Runs.csrTable_eq {s : State} {u : Nat} {t : Thread} (hr : s.Runs u t) :
    s.csrTable t = Csr.all.map (fun r => (r.num, r.taskReads, s.csr r)) := by
  simp only [Csr.all, List.map, State.csr_mxc, State.csr_xlist, hr.csr_nwin]
  simp only [State.csr, hr.th, hr.booth]
  rfl

/-! ### The table of writes -/

/-- What a row of `csrRows` says of its register. -/
structure CsrRow.Describes (e : CsrRow) (r : Csr) : Prop where
  writable : r.supWrites = true
  task : r.taskWrites = e.task
  fields : r.fields = e.fields
  get : ∀ (s : State) (u : Nat) (t : Thread), s.Runs u t → s.csr r = e.get s t
  set : ∀ (s : State) (w : Word), s.setCsr r w = e.set s w

/-- Each row describes the register of its number. -/
theorem csrRows_describe : ∀ e ∈ csrRows, ∃ r, Csr.ofNum e.num = some r ∧ e.Describes r := by
  iterate 13
    refine List.forall_mem_cons.mpr
      ⟨⟨_, rfl, rfl, rfl, rfl, fun s u t hr => by obtain rfl := hr.th; rfl, fun s w => rfl⟩, ?_⟩
  exact List.forall_mem_nil _

/-- A register that supervisor mode may write has its row. -/
theorem Csr.exists_row : ∀ r ∈ Csr.all, r.supWrites = true → ∃ e ∈ csrRows, r.num = e.num := by decide

/-! ### Reads (R105, R138) -/

section
variable {s : State} {u : Nat} {t : Thread} (hr : s.Runs u t) {c : BitVec 12} (d : GReg)
include hr

/-- A number of no entry of `csrTable` names no register. -/
theorem State.Runs.ofNum_none (h : ∀ e ∈ s.csrTable t, c.toNat ≠ e.1) : Csr.ofNum c.toNat = none := by
  rw [Option.eq_none_iff_forall_ne_some]
  intro r hreg
  obtain ⟨hmem, hnum⟩ := Csr.mem_all_of_ofNum hreg
  exact h (r.num, r.taskReads, s.csr r) (hr.csrTable_eq ▸ List.mem_map_of_mem hmem) hnum.symm

/-- An entry of `csrTable` names a register. -/
theorem State.Runs.exists_reg {e : Nat × Bool × Word} (he : e ∈ s.csrTable t) :
    ∃ r, Csr.ofNum e.1 = some r ∧ r.taskReads = e.2.1 ∧ s.csr r = e.2.2 := by
  rw [hr.csrTable_eq] at he
  obtain ⟨r, hmem, rfl⟩ := List.mem_map.mp he
  exact ⟨r, Csr.ofNum_num r hmem, rfl, rfl⟩

theorem State.csrRead_unassigned (h : ∀ e ∈ s.csrTable t, c.toNat ≠ e.1) : s.csrRead d c = s.trapW .illegal := by
  simp only [State.csrRead, csrCheck, hr.ofNum_none h]
  rfl

variable {e : Nat × Bool × Word} (he : e ∈ s.csrTable t) (hc : c.toNat = e.1)
include he hc

theorem State.csrRead_task (hprv : t.ctx.prv = false) (htask : e.2.1 = false) : s.csrRead d c = s.trapW .priv := by
  obtain ⟨r, hreg, hreads, -⟩ := hr.exists_reg he
  simp only [State.csrRead, csrCheck, hc, hreg, hr.th, hprv, hreads, htask]
  rfl

theorem State.csrRead_value (hp : s.Prompt) {d : GReg} (hd : s.Unbound d) (h : t.ctx.prv = true ∨ e.2.1 = true) :
    s.csrRead d c = .next (s.withG d e.2.2) := by
  obtain ⟨r, hreg, hreads, hvalue⟩ := hr.exists_reg he
  have hmode : (t.ctx.prv || r.taskReads) = true := by simpa [hreads] using h
  simp only [State.csrRead, csrCheck, hc, hreg, hr.th, hmode, if_true, State.putG_unbound hr hp hd, hvalue]

end

/-! ### Writes (R105, R106, R138) -/

theorem State.peekG_unbound {s : State} {a : GReg} (h : s.Unbound a) : s.peekG a = s.src a := by
  obtain ⟨-, hsource, hgiven⟩ := h
  simp [State.peekG, State.readField, hsource, hgiven, takeGiven, State.src]

section
variable {k : CsrUse} (hk : k ≠ .read) {c : BitVec 12}
include hk

/-- A write of a number of no row: no register has it, or one that nothing may write. -/
theorem csrCheck_no_row (h : ∀ e ∈ csrRows, c.toNat ≠ e.num) (prv : Bool) (v : Word) : csrCheck k prv c v = some .illegal := by
  cases hreg : Csr.ofNum c.toNat with
  | none => simp only [csrCheck, hreg]
  | some r =>
    have hw : r.supWrites = false := by
      rw [← Bool.not_eq_true]
      intro hw
      obtain ⟨hmem, hnum⟩ := Csr.mem_all_of_ofNum hreg
      obtain ⟨e, he, hrow⟩ := Csr.exists_row r hmem hw
      exact h e he (hnum.symm.trans hrow)
    cases k with
    | read => exact absurd rfl hk
    | write | set | clear => simp only [csrCheck, hreg, hw, Bool.not_false, if_true]

theorem State.csrWrite_no_row {s : State} (a : GReg) (h : ∀ e ∈ csrRows, c.toNat ≠ e.num) :
    s.csrWrite k c a = s.trapW .illegal := by
  rw [State.csrWrite, csrCheck_no_row hk h]
  rfl

variable {e : CsrRow} (he : e ∈ csrRows) (hc : c.toNat = e.num)
include he hc

/-- A write of a register of a row is checked for the mode, then, unless it only clears, for the fields. -/
theorem csrCheck_row (prv : Bool) (v : Word) : csrCheck k prv c v =
    if prv || e.task then (if k != .clear && v &&& ~~~e.fields != 0 then some .illegal else none) else some .priv := by
  obtain ⟨r, hreg, hd⟩ := csrRows_describe e he
  have hflip {α : Type} (x y : α) : (if !prv && !e.task then x else y) = if prv || e.task then y else x := by
    simp only [← Bool.not_or, Bool.not_eq_true', ← Bool.not_eq_true, ite_not]
  cases k with
  | read => exact absurd rfl hk
  | write | set | clear =>
    simp only [csrCheck, hc, hreg, hd.writable, hd.task, hd.fields, Bool.not_true, Bool.false_eq_true, if_false, hflip]

variable {s : State} {u : Nat} {t : Thread} (hr : s.Runs u t)
include hr

theorem State.csrWrite_task (a : GReg) (hprv : t.ctx.prv = false) (htask : e.task = false) : s.csrWrite k c a = s.trapW .priv := by
  rw [State.csrWrite, csrCheck_row hk he hc, hr.th, hprv, htask]
  rfl

variable {a : GReg} (ha : s.Unbound a) (hmode : t.ctx.prv = true ∨ e.task = true)
include ha hmode

/-- A set bit in a zero or reserved field. -/
theorem State.csrWrite_reserved (hclear : k ≠ .clear) (hbits : s.src a &&& ~~~e.fields ≠ 0) : s.csrWrite k c a = s.trapW .illegal := by
  have hbad : (k != .clear && s.src a &&& ~~~e.fields != 0) = true := by
    rw [bne_iff_ne.mpr hclear, bne_iff_ne.mpr hbits, Bool.and_self]
  rw [State.csrWrite, csrCheck_row hk he hc, hr.th, State.peekG_unbound ha, if_pos (Bool.or_eq_true_iff.mpr hmode), if_pos hbad]
  rfl

/-- A write that no check refuses leaves the row's register with the merged value. -/
theorem State.csrWrite_value (hbits : k = .clear ∨ s.src a &&& ~~~e.fields = 0) :
    s.csrWrite k c a = .next (e.set s (k.merge (e.get s t) (s.src a))) := by
  obtain ⟨r, hreg, hd⟩ := csrRows_describe e he
  have hgood : ¬(k != .clear && s.src a &&& ~~~e.fields != 0) = true := by
    rcases hbits with hk | hbits
    · simp [hk]
    · simp [hbits]
  rw [State.csrWrite, csrCheck_row hk he hc, hr.th, State.peekG_unbound ha, if_pos (Bool.or_eq_true_iff.mpr hmode), if_neg hgood,
    hc, hreg]
  simp only [State.getG_unbound ha, hd.set, hd.get s u t hr]

end

/-- The words that write a control register, each with its use. -/
theorem exec_csrWord {c : BitVec 12} {a : GReg} {i : Instr} (hi : i ∈ [Instr.csrw c a, .csrs c a, .csrc c a]) (s : State) :
    ∃ k ≠ CsrUse.read, (i ∈ [Instr.csrw c a, .csrs c a] → k ≠ .clear) ∧ exec i s = runWord s (s.csrWrite k c a) := by
  simp only [List.mem_cons, List.not_mem_nil, or_false] at hi
  obtain rfl | rfl | rfl := hi
  · exact ⟨.write, nofun, nofun, rfl⟩
  · exact ⟨.set, nofun, nofun, rfl⟩
  · exact ⟨.clear, nofun, by simp, rfl⟩

/-! ### The statement O10 -/

/-- Settles O10: the rows of the statement's tables are the registers, and an access meets the checks of its row in their order. -/
theorem controlRegisters : Obligations.ControlRegisters := by
  unfold Obligations.ControlRegisters
  refine ⟨fun c d s u t hr hp hd => ⟨fun e he hc => ⟨fun hmode => ?_, fun hprv htask => ?_⟩, fun hnone => ?_⟩,
    fun e he c a s u t hr ha hc hmode => ⟨fun hbits => ⟨?_, ?_⟩, ?_⟩,
    fun c a s u t hr ha => ⟨fun hnone i hi => ?_, fun e he hc => ⟨fun hprv htask i hi => ?_, fun hmode hbits i hi => ?_⟩⟩⟩
  · exact (congrArg (runWord s) (State.csrRead_value hr he hc hp hd hmode)).trans (runWord_next hr)
  · exact (congrArg (runWord s) (State.csrRead_task hr d he hc hprv htask)).trans (runWord_trapW hr _)
  · exact (congrArg (runWord s) (State.csrRead_unassigned hr d hnone)).trans (runWord_trapW hr _)
  · exact (congrArg (runWord s) (State.csrWrite_value (k := .write) nofun he hc hr ha hmode (.inr hbits))).trans (runWord_next hr)
  · exact (congrArg (runWord s) (State.csrWrite_value (k := .set) nofun he hc hr ha hmode (.inr hbits))).trans (runWord_next hr)
  · exact (congrArg (runWord s) (State.csrWrite_value (k := .clear) nofun he hc hr ha hmode (.inl rfl))).trans (runWord_next hr)
  · obtain ⟨k, hk, -, hexec⟩ := exec_csrWord hi s
    rw [hexec, State.csrWrite_no_row hk a hnone, runWord_trapW hr]
  · obtain ⟨k, hk, -, hexec⟩ := exec_csrWord hi s
    rw [hexec, State.csrWrite_task hk he hc hr a hprv htask, runWord_trapW hr]
  · obtain ⟨k, hk, hclear, hexec⟩ := exec_csrWord (List.mem_append_left [.csrc c a] hi) s
    rw [hexec, State.csrWrite_reserved hk he hc hr ha hmode (hclear hi) hbits, runWord_trapW hr]

end Sys2Proof.Machine
end

section
/-! PROOFS. Loads that do not reach memory: misaligned, outside the booth's banks, not mapped, not buffered, not granted (R116, R118,
R119, R140, R143). -/

namespace Sys2Proof.Machine
open Bits Tables

/-! ### Alignment (R143) -/

theorem effAddr_lt {n : Nat} (x : Word) (o : BitVec n) : effAddr x o < 2 ^ 48 := by
  simp only [effAddr]
  omega

/-- TVAL of an access at an address of the 48-bit space (R116). -/
theorem tvV_of_lt {va : Nat} (h : va < 2 ^ 48) (reason : Nat) : tvV reason va = reason * 2 ^ 60 + va := by
  rw [tvV, Nat.mod_eq_of_lt h]

theorem tvV_zero {va : Nat} (h : va < 2 ^ 48) : tvV 0 va = va := by
  rw [tvV_of_lt h, Nat.zero_mul, Nat.zero_add]

theorem State.alignedTo_misaligned {s : State} {va n : Nat} (h : va % n ≠ 0) (k : State → Step) :
    s.alignedTo va n k = trap .align (tvV 2 va) := if_neg h

/-! ### Accesses that do not translate (R118, R119, R140) -/

theorem State.translate_error {s : State} {a : Acc} {va : Nat} {r : Step} (h : s.look a va = .error r) (k : Target → Step) :
    s.translate a va k = r := by
  rw [State.translate, h]

section
variable {s : State} (a : Acc) {va : Nat}

/-- An address of the own window in no bank of the booth. -/
theorem State.look_unowned (hwin : winBase ≤ va) (h : s.ownsOff s.cid s.booth (va - winBase) = false) :
    s.look a va = .error (trap a.cause (tvV 1 va)) := by
  have hisWin : isWin va = true := decide_eq_true hwin
  simp only [State.look, hisWin, h, Bool.false_eq_true, if_true, if_false, ite_self]

variable (haway : va < winBase)
include haway

/-- An address that no page maps: the walk that finds this out has yet to run (log entry 50). -/
theorem State.look_unmapped (h : s.pageFor (pkgOf s.cid) s.booth va = none) :
    s.look a va = .error (.retry (.walk (engOf s.cid) s.booth (va - va % 65536) a.cause.code (tvV 0 va))) := by
  have hisWin : isWin va = false := decide_eq_false (Nat.not_le.mpr haway)
  simp only [State.look, hisWin, h, Bool.false_eq_true, if_false]

variable {p : Page} (hpage : s.pageFor (pkgOf s.cid) s.booth va = some p)
include hpage

/-- An address whose page stands in no buffer of the core or its cluster. -/
theorem State.look_unbuffered
    (h : ((s.core s.cid).tlb.contains (s.booth, p) || (getD s.l2 (engOf s.cid) []).contains (s.booth, p)) = false) :
    s.look a va = .error (.retry (.walk (engOf s.cid) s.booth p.va a.cause.code (tvV 0 va))) := by
  have hisWin : isWin va = false := decide_eq_false (Nat.not_le.mpr haway)
  simp only [State.look, hisWin, hpage, h, Bool.false_eq_true, if_false]

/-- An address whose page does not serve the access. -/
theorem State.look_fault {f : Nat × Nat}
    (h : ((s.core s.cid).tlb.contains (s.booth, p) || (getD s.l2 (engOf s.cid) []).contains (s.booth, p)) = true)
    (hf : pageFault a p s.th.ctx.prv va = some f) : s.look a va = .error (.trap f.1 f.2) := by
  have hisWin : isWin va = false := decide_eq_false (Nat.not_le.mpr haway)
  simp only [State.look, hisWin, hpage, h, hf, Bool.false_eq_true, if_true, if_false]

end

/-- A page that grants no reads, or none to task mode, does not serve a load (R119). -/
theorem pageFault_load {p : Page} {prv : Bool} (hkind : p.kind ≠ 2) (h : p.rd = false ∨ p.sup = true ∧ prv = false) (va : Nat) :
    pageFault accLoad p prv va = some (Cause.loadXlate.code, tvV 1 va) := by
  have hdenied : (!p.rd || p.sup && !prv) = true := by
    rcases h with hrd | ⟨hsup, hprv⟩
    · rw [hrd]; rfl
    · rw [hsup, hprv, Bool.or_eq_true]; exact .inr rfl
  simp [pageFault, accLoad, hkind, hdenied]

/-! ### Loads -/

/-- A load at an aligned address that does not translate ends as the lookup says. -/
theorem exec_ld_error {s : State} {a : GReg} (ha : s.Unbound a) {z : Size} {o : BitVec 12}
    (hal : effAddr (s.src a) o % Size.bytes z = 0) {r : Step} (h : s.look accLoad (effAddr (s.src a) o) = .error r)
    (d : GReg) (c : Cls) (e : Ext) : exec (.ld d a z c e o) s = runWord s r := by
  change runWord s (s.load d a (Size.bytes z) c (e == .sx) o) = _
  simp only [State.load, State.getG_unbound ha, State.alignedTo, hal, if_true, State.translate_error h]

/-! ### The statement O17 -/

/-- Settles O17: the checks of a load in their order, each the one case of `look` that answers no target. -/
theorem loadTraps : Obligations.LoadTraps := by
  unfold Obligations.LoadTraps
  rintro d a z c e o s u t va hr ha rfl
  have hlt := effAddr_lt (s.src a) o
  refine ⟨fun hmis => ?_, fun hal hwin howns => ?_, fun hal haway => ⟨fun hnone => ?_, fun p hpage => ?_⟩⟩
  · change runWord s (s.load d a (Size.bytes z) c (e == .sx) o) = _
    simp only [State.load, State.getG_unbound ha, State.alignedTo_misaligned hmis, tvV_of_lt hlt, runWord_trap_cause hr]
  · rw [exec_ld_error ha hal (State.look_unowned _ hwin (by rwa [hr.booth])), tvV_of_lt hlt, Nat.one_mul]
    exact runWord_trap_cause hr _ _
  · rw [exec_ld_error ha hal (State.look_unmapped _ haway (by rwa [hr.booth])), runWord_retry hr, hr.booth, tvV_zero hlt]
    rfl
  · rw [← hr.booth] at hpage
    refine ⟨fun hmiss => ?_, fun hhit hkind hdenied => ?_⟩
    · rw [← hr.booth] at hmiss
      rw [exec_ld_error ha hal (State.look_unbuffered _ haway hpage hmiss), runWord_retry hr, hr.booth, tvV_zero hlt]
      rfl
    · rw [← hr.booth] at hhit
      have hfault := pageFault_load hkind hdenied (effAddr (s.src a) o)
      rw [← hr.th] at hfault
      rw [exec_ld_error ha hal (State.look_fault _ haway hpage hhit hfault), tvV_of_lt hlt, Nat.one_mul]
      exact runWord_trap hr _ _

end Sys2Proof.Machine
end

section
/-! PROOFS. A page walk that stops its thread: R111 and R302 write the elements that the thread's out-streams still hold, so memory
does not stay as it was (R118, R119, R189). -/

namespace Sys2Proof.Machine
open Bits Tables

/-! ### The thread and the walk -/

/-- An out-stream of eight words in the own window: its first element has been pushed and is not yet written (R188, R189). -/
def heldStream : Stream where
  desc := BitVec.ofNat 64 (8 * 2 ^ 40 + 8 * 2 ^ 24 + 1)
  base := BitVec.ofNat 64 winBase
  next := 1
  ahead := []
  unwritten := [1]

/-- A thread in a trap handler, whose bundle waits for the walk of page 0; the bindings at its issue hold that stream. -/
def stoppedThread : Thread :=
  { Thread.init 1 0 with
    ctx := { Ctx.zero with prv := true, th := true }
    wait := .retry (.walk 0 1 0 0x09 0)
    issued := { Issued.zero with streams := #v[some heldStream, none, none, none] } }

/-- Its slot, and the walk as the only one of its cluster; the booth maps no page. -/
def walkOfStopped : State :=
  { State.reset with
    threads := [(0, stoppedThread)]
    slots := [(0, { Slot.init with
      phase := .live, run := some 0, regs := { SlotRegs.zero with streams := #v[some heldStream, none, none, none] } })]
    walks := [⟨0, 1, 0⟩] }

/-- The walk finds no page, the trap stops the thread, and the held element is written to the first word of its window. -/
theorem walkOfStopped_writes : ∃ s', exec (.walkComplete 0) walkOfStopped = .next s' ∧ s'.mem.byte (spad 0 0) = 1 :=
  ⟨_, rfl, by decide⟩

/-! ### The statement O47 -/

/-- Refutes O47: its last clause has memory unchanged by every end of a walk, also by one whose trap stops the thread (TH set, R111). -/
theorem not_limitsNoticesAndWalks : ¬ Obligations.LimitsNoticesAndWalks := by
  unfold Obligations.LimitsNoticesAndWalks
  rintro ⟨-, -, -, -, hwalk⟩
  obtain ⟨s', hexec, -, hmem, -⟩ := hwalk 0 0 0x09 0 ⟨0, 1, 0⟩ stoppedThread walkOfStopped rfl rfl (by decide) rfl
  obtain ⟨s'', hexec', hbyte⟩ := walkOfStopped_writes
  obtain rfl : s' = s'' := Host.Outcome.next.inj (hexec.symm.trans hexec')
  rw [hmem] at hbyte
  exact absurd hbyte (by decide)

end Sys2Proof.Machine
end

section
/-! PROOFS. What reset leaves: no table lists anything (R104, R325, R345, R383). -/

namespace Sys2Proof.Machine
open Bits Tables

theorem State.reset_slot (k : Nat) : State.reset.slot k = Slot.init := rfl
theorem State.reset_bc (c b : Nat) : State.reset.bc c b = BoothCore.init := rfl
theorem State.reset_pkg (p : Nat) : State.reset.pkg p = Pkg.init := rfl
theorem State.reset_mem : State.reset.mem = Memory.empty := rfl

theorem Memory.empty_byte (a : Nat) : Memory.empty.byte a = 0 := rfl
theorem Memory.empty_isFull (a : Nat) : Memory.empty.isFull a = false := rfl

/-- Settles O40: an unlisted slot, booth and package read their values at reset, and memory is empty. -/
theorem resetState : Obligations.ResetState := by
  unfold Obligations.ResetState
  refine ⟨fun p => ?_, fun u => find_nil u, fun k => ?_, fun c b => ?_, rfl, ?_, fun a => ?_⟩
  · rw [State.reset_pkg]; rfl
  · rw [State.reset_slot]; exact ⟨rfl, rfl, rfl, rfl, rfl⟩
  · rw [State.reset_bc]; exact ⟨rfl, rfl, rfl, rfl, rfl, rfl⟩
  · rw [State.reset_mem, Memory.empty_wf]
  · rw [State.reset_mem]; exact ⟨Memory.empty_byte a, Memory.empty_isFull a⟩

end Sys2Proof.Machine
end

section
/-! PROOFS. Two's complement numbers, and the operations of major 32 on them (R7, R123 to R126). -/

namespace Sys2Proof.Machine
open Bits Tables

/-! ### Signed values (R7) -/

theorem toSigned_toNat {w : Nat} (x : BitVec w) : toSigned x.toNat w = x.toInt := by
  simp only [toSigned, Nat.mod_eq_of_lt x.isLt, BitVec.toInt]

theorem wrapS_eq (w : Nat) (i : Int) : wrapS w i = (BitVec.ofInt w i).toNat := by
  simp [wrapS, BitVec.toNat_ofInt]

theorem sext_toNat {w : Nat} (x : BitVec w) : sext x.toNat w = x.signExtend 64 := by
  rw [sext, toSigned_toNat]
  rfl

theorem natCast_two_pow (k : Nat) : ((2 ^ k : Nat) : Int) = 2 ^ k := Int.natCast_pow 2 k

theorem toNat_eq_zero_iff {w : Nat} (x : BitVec w) : x.toNat = 0 ↔ x = 0 := by
  rw [← BitVec.toNat_inj]
  rfl

theorem toNat_neg_one (w : Nat) : (-1 : BitVec w).toNat = 2 ^ w - 1 := by
  change (-1#w).toNat = _
  rw [BitVec.neg_one_eq_allOnes, BitVec.toNat_allOnes]

/-! ### Operations at a type (R123) -/

/-- An operation of the model on unsigned operands of w bits is one on bit vectors. -/
def IsBinOp (f : Nat → Nat → Nat → Nat) (g : BinOp) : Prop :=
  ∀ w, 0 < w → ∀ x y : BitVec w, f w x.toNat y.toNat = (g w x y).toNat

/-- At each type the model applies that operation to the low bits and extends its result (R123). -/
theorem IsBinOp.intOp_eq {f : Nat → Nat → Nat → Nat} {g : BinOp} (h : IsBinOp f g) (ty : ITy) (x y : Word) :
    intOp ty f x y = atType ty g x y := by
  have hwide : f 64 (x.toNat % 2 ^ 64) (y.toNat % 2 ^ 64) = (g 64 x y).toNat := by
    rw [Nat.mod_eq_of_lt x.isLt, Nat.mod_eq_of_lt y.isLt, h 64 (by decide)]
  have hlow : f 32 (x.toNat % 2 ^ 32) (y.toNat % 2 ^ 32) = (g 32 (x.setWidth 32) (y.setWidth 32)).toNat := by
    rw [← BitVec.toNat_setWidth, ← BitVec.toNat_setWidth, h 32 (by decide)]
  cases ty with
  | s64 | z64 =>
    refine (congrArg (BitVec.ofNat 64) hwide).trans ?_
    rw [BitVec.ofNat_toNat, BitVec.setWidth_eq]
    rfl
  | s32 => exact (congrArg (sext · 32) hlow).trans (sext_toNat _)
  | z32 =>
    refine (congrArg (zext · 32) hlow).trans ?_
    rw [zext, Nat.mod_eq_of_lt (BitVec.isLt _), BitVec.ofNat_toNat]
    rfl

/-! ### Sums, products and bitwise operations (R124) -/

theorem iAdd_isBinOp : IsBinOp iAdd (fun _ x y => x + y) := fun _ _ x y => (BitVec.toNat_add x y).symm

theorem iSub_isBinOp : IsBinOp iSub (fun _ x y => x - y) := by
  intro w _ x y
  rw [iSub, BitVec.toNat_sub]
  have := y.isLt
  congr 1
  omega

theorem iMul_isBinOp : IsBinOp iMul (fun _ x y => x * y) := fun _ _ x y => (BitVec.toNat_mul x y).symm

theorem iMulh_isBinOp : IsBinOp iMulh (fun w x y => BitVec.ofInt w (x.toInt * y.toInt / 2 ^ w)) := by
  intro w _ x y
  rw [iMulh, toSigned_toNat, toSigned_toNat, wrapS_eq]

theorem iMulhz_isBinOp : IsBinOp iMulhz (fun w x y => BitVec.ofNat w (x.toNat * y.toNat / 2 ^ w)) := by
  intro w _ x y
  have hlt : x.toNat * y.toNat / 2 ^ w < 2 ^ w := Nat.div_lt_of_lt_mul (Nat.mul_lt_mul'' x.isLt y.isLt)
  rw [iMulhz, BitVec.toNat_ofNat, Nat.mod_eq_of_lt hlt]

theorem iAnd_isBinOp : IsBinOp iAnd (fun _ x y => x &&& y) := fun _ _ x y => (BitVec.toNat_and x y).symm
theorem iOr_isBinOp : IsBinOp iOr (fun _ x y => x ||| y) := fun _ _ x y => (BitVec.toNat_or x y).symm
theorem iXor_isBinOp : IsBinOp iXor (fun _ x y => x ^^^ y) := fun _ _ x y => (BitVec.toNat_xor x y).symm

theorem iAndn_isBinOp : IsBinOp iAndn (fun _ x y => x &&& ~~~y) := by
  intro w _ x y
  rw [iAndn, BitVec.toNat_and, BitVec.toNat_not]

/-! ### Quotients and remainders (R125) -/

/-- The signed quotient wraps once: only the least value by -1 leaves the range. -/
theorem sdiv_eq_ofInt {w : Nat} (x y : BitVec w) : x.sdiv y = BitVec.ofInt w (x.toInt.tdiv y.toInt) := by
  rw [← BitVec.toInt_inj, BitVec.toInt_sdiv, BitVec.toInt_ofInt]

theorem srem_eq_ofInt {w : Nat} (x y : BitVec w) : x.srem y = BitVec.ofInt w (x.toInt.tmod y.toInt) := by
  rw [← BitVec.toInt_srem, BitVec.ofInt_toInt]

/-- The model's test for the overflowing quotient. -/
theorem overflows_iff {w : Nat} (hw : 0 < w) (x y : BitVec w) : (x.toNat = 2 ^ (w - 1) && y.toNat = 2 ^ w - 1) = true ↔
    x = BitVec.intMin w ∧ y = -1 := by
  have hlt : 2 ^ (w - 1) < 2 ^ w := Nat.pow_lt_pow_right (by decide) (by omega)
  rw [← BitVec.toNat_inj, ← BitVec.toNat_inj, BitVec.toNat_intMin, toNat_neg_one, Nat.mod_eq_of_lt hlt]
  simp

theorem iDiv_isBinOp : IsBinOp iDiv (fun _ x y => if y = 0 then -1 else x.sdiv y) := by
  intro w hw x y
  simp only [iDiv, toNat_eq_zero_iff, overflows_iff hw, toSigned_toNat, wrapS_eq, ← sdiv_eq_ofInt]
  split
  · exact (toNat_neg_one w).symm
  · split
    case isTrue h =>
      obtain ⟨rfl, rfl⟩ := h
      exact congrArg BitVec.toNat BitVec.intMin_sdiv_neg_one.symm
    case isFalse => rfl

theorem iDivz_isBinOp : IsBinOp iDivz (fun _ x y => if y = 0 then -1 else x.udiv y) := by
  intro w _ x y
  simp only [iDivz, toNat_eq_zero_iff]
  split
  · exact (toNat_neg_one w).symm
  · exact BitVec.toNat_udiv.symm

theorem iRem_isBinOp : IsBinOp iRem (fun _ x y => if y = 0 then x else x.srem y) := by
  intro w hw x y
  simp only [iRem, toNat_eq_zero_iff, overflows_iff hw, toSigned_toNat, wrapS_eq, ← srem_eq_ofInt]
  split
  · rfl
  · split
    case isTrue h =>
      obtain ⟨-, rfl⟩ := h
      have hneg : (-1 : BitVec w).toInt = -1 := by
        change (-1#w).toInt = -1
        rw [BitVec.neg_one_eq_allOnes, BitVec.toInt_allOnes, if_pos hw]
      rw [srem_eq_ofInt, hneg, Int.tmod_neg, Int.tmod_one]
      simp
    case isFalse => rfl

theorem iRemz_isBinOp : IsBinOp iRemz (fun _ x y => if y = 0 then x else x.umod y) := by
  intro w _ x y
  simp only [iRemz, toNat_eq_zero_iff]
  split
  · rfl
  · exact BitVec.toNat_umod.symm

/-! ### Shifts, comparisons and choices (R124) -/

theorem iShl_isBinOp : IsBinOp iShl (fun w x y => x <<< (y.toNat % w)) := by
  intro w _ x y
  rw [iShl, BitVec.toNat_shiftLeft, Nat.shiftLeft_eq]

theorem iShr_isBinOp : IsBinOp iShr (fun w x y => x >>> (y.toNat % w)) := by
  intro w _ x y
  rw [iShr, BitVec.toNat_ushiftRight, Nat.shiftRight_eq_div_pow]

theorem iSar_isBinOp : IsBinOp iSar (fun w x y => x.sshiftRight (y.toNat % w)) := by
  intro w _ x y
  simp only [iSar, toSigned_toNat, wrapS_eq, BitVec.sshiftRight_eq, Int.shiftRight_eq_div_pow, natCast_two_pow]

/-- A flag as a number of w bits. -/
theorem b2n_eq_toNat {w : Nat} (h : 0 < w) (p : Bool) : b2n p = (if p then 1 else 0 : BitVec w).toNat := by
  cases p with
  | false => rfl
  | true => exact (BitVec.toNat_one h).symm

theorem iSlt_isBinOp : IsBinOp iSlt (fun _ x y => if x.slt y then 1 else 0) := by
  intro w hw x y
  rw [iSlt, toSigned_toNat, toSigned_toNat]
  exact b2n_eq_toNat hw (x.slt y)

theorem iSltz_isBinOp : IsBinOp iSltz (fun _ x y => if x.ult y then 1 else 0) := fun _ hw x y => b2n_eq_toNat hw (x.ult y)

theorem iMin_isBinOp : IsBinOp iMin (fun _ x y => if y.slt x then y else x) := by
  intro w _ x y
  simp only [iMin, toSigned_toNat, BitVec.slt_iff_toInt_lt, ← Int.not_lt, ite_not, apply_ite BitVec.toNat]

theorem iMax_isBinOp : IsBinOp iMax (fun _ x y => if x.slt y then y else x) := by
  intro w _ x y
  simp only [iMax, toSigned_toNat, BitVec.slt_iff_toInt_lt, ← Int.not_lt, ite_not, apply_ite BitVec.toNat]

theorem iMinz_isBinOp : IsBinOp iMinz (fun _ x y => if y.ult x then y else x) := by
  intro w _ x y
  simp only [iMinz, BitVec.ult_iff_lt, BitVec.lt_def, ← Nat.not_lt, ite_not, apply_ite BitVec.toNat]

theorem iMaxz_isBinOp : IsBinOp iMaxz (fun _ x y => if x.ult y then y else x) := by
  intro w _ x y
  simp only [iMaxz, BitVec.ult_iff_lt, BitVec.lt_def, ← Nat.not_lt, ite_not, apply_ite BitVec.toNat]

/-- Each row of `intTable` runs one such operation on its two sources (R124, R125). -/
theorem exec_of_mem_intTable (ty : ITy) (d a b : GReg) (s : State) :
    ∀ p ∈ intTable, exec (p.1 ty d a b) s = runWord s (s.op2 d a b (atType ty p.2)) := by
  have hrow {i : Instr} {f : Nat → Nat → Nat → Nat} {g : BinOp} (hfg : IsBinOp f g)
      (hexec : exec i s = runWord s (s.op2 d a b (intOp ty f))) : exec i s = runWord s (s.op2 d a b (atType ty g)) := by
    rw [hexec, funext fun x => funext (hfg.intOp_eq ty x)]
  simp only [intTable, List.forall_mem_cons]
  exact ⟨hrow iAdd_isBinOp rfl, hrow iSub_isBinOp rfl, hrow iMul_isBinOp rfl, hrow iMulh_isBinOp rfl, hrow iMulhz_isBinOp rfl,
    hrow iDiv_isBinOp rfl, hrow iDivz_isBinOp rfl, hrow iRem_isBinOp rfl, hrow iRemz_isBinOp rfl, hrow iAnd_isBinOp rfl,
    hrow iOr_isBinOp rfl, hrow iXor_isBinOp rfl, hrow iAndn_isBinOp rfl, hrow iShl_isBinOp rfl, hrow iShr_isBinOp rfl,
    hrow iSar_isBinOp rfl, hrow iSlt_isBinOp rfl, hrow iSltz_isBinOp rfl, hrow iMin_isBinOp rfl, hrow iMax_isBinOp rfl,
    hrow iMinz_isBinOp rfl, hrow iMaxz_isBinOp rfl, List.forall_mem_nil _⟩

/-! ### Counts of bits (R124) -/

/-- A count of at most w bits fits into w bits. -/
theorem isBinOp_count {f : Nat → Nat → Nat → Nat} {g : ∀ w, BitVec w → Nat}
    (h : ∀ w, 0 < w → ∀ (x : BitVec w) (y : Nat), f w x.toNat y = g w x ∧ g w x ≤ w) :
    IsBinOp f (fun w x _ => BitVec.ofNat w (g w x)) := by
  intro w hw x y
  obtain ⟨heq, hle⟩ := h w hw x y.toNat
  rw [heq, BitVec.toNat_ofNat, Nat.mod_eq_of_lt (Nat.lt_of_le_of_lt hle Nat.lt_two_pow_self)]

theorem find_range_getD_le (p : Nat → Bool) (n : Nat) : ((List.range n).find? p).getD n ≤ n := by
  cases h : (List.range n).find? p with
  | none => exact Nat.le_refl n
  | some k => exact Nat.le_of_lt (List.mem_range.mp (List.mem_of_find?_eq_some h))

/-- The highest set bit of x is the first one from the top of w bits. -/
theorem iClz_eq {w : Nat} (x : BitVec w) (y : Nat) :
    iClz w x.toNat y = ((List.range w).find? (fun k => x.getLsbD (w - 1 - k))).getD w := by
  unfold iClz
  split
  case isTrue h =>
    have hnone : (List.range w).find? (fun k => x.getLsbD (w - 1 - k)) = none := by
      simp [(toNat_eq_zero_iff x).mp h]
    rw [hnone]
    rfl
  case isFalse h =>
    have hlog : x.toNat.log2 < w := (Nat.log2_lt h).mpr x.isLt
    have hfound : (List.range w).find? (fun k => x.getLsbD (w - 1 - k)) = some (w - 1 - x.toNat.log2) := by
      rw [List.find?_range_eq_some]
      refine ⟨?_, by simp; omega, fun j hj => ?_⟩
      · have hplace : w - 1 - (w - 1 - x.toNat.log2) = x.toNat.log2 := by omega
        rw [hplace]
        exact Nat.testBit_log2 h
      · rw [Bool.not_eq_true']
        exact Nat.testBit_lt_two_pow
          (Nat.lt_of_lt_of_le Nat.lt_log2_self (Nat.pow_le_pow_right (by decide) (by omega)))
    rw [hfound]
    rfl

theorem testBit_comp_succ (x : Nat) : x.testBit ∘ Nat.succ = (x / 2).testBit := funext (Nat.testBit_succ x)

theorem ctzGo_eq (n x : Nat) : ctzGo n x = ((List.range n).find? x.testBit).getD n := by
  induction n generalizing x with
  | zero => rfl
  | succ n ih =>
    rw [ctzGo, ih, List.range_succ_eq_map, List.find?_cons, List.find?_map, testBit_comp_succ, Nat.testBit_zero]
    by_cases h : x % 2 = 1
    · simp [h]
    · simp only [h, if_false, decide_false]
      cases (List.range n).find? (x / 2).testBit <;> simp [Nat.add_comm]

theorem count_range_le (p : Nat → Bool) (n : Nat) : ((List.range n).filter p).length ≤ n :=
  Nat.le_trans (List.length_filter_le ..) (Nat.le_of_eq List.length_range)

theorem popcount_eq (n x : Nat) : popcount n x = ((List.range n).filter x.testBit).length := by
  induction n generalizing x with
  | zero => rfl
  | succ n ih =>
    rw [popcount, ih, List.range_succ_eq_map, List.filter_cons, List.filter_map, testBit_comp_succ, Nat.testBit_zero]
    rcases Nat.mod_two_eq_zero_or_one x with h | h <;> simp [h, Nat.add_comm]

/-- Each row of `countTable` runs such a count on its source. -/
theorem exec_of_mem_countTable (ty : ITy) (d a : GReg) (s : State) : ∀ p ∈ countTable,
    exec (p.1 ty d a) s = runWord s (s.op1 d a (fun x => atType ty (fun w x _ => BitVec.ofNat w (p.2 w x)) x 0)) := by
  have hrow {i : Instr} {f : Nat → Nat → Nat → Nat} {g : BinOp} (hfg : IsBinOp f g)
      (hexec : exec i s = runWord s (s.op1 d a (fun x => intOp ty f x 0))) :
      exec i s = runWord s (s.op1 d a (fun x => atType ty g x 0)) := by
    rw [hexec]
    simp only [hfg.intOp_eq]
  simp only [countTable, List.forall_mem_cons]
  exact ⟨hrow (isBinOp_count (fun w _ x y => ⟨iClz_eq x y, find_range_getD_le _ w⟩)) rfl,
    hrow (isBinOp_count (fun w _ x _ => ⟨ctzGo_eq w x.toNat, find_range_getD_le _ w⟩)) rfl,
    hrow (isBinOp_count (fun w _ x _ => ⟨popcount_eq w x.toNat, count_range_le _ w⟩)) rfl,
    List.forall_mem_nil _⟩

/-! ### Immediate forms and `sel` (R126, R128) -/

theorem imm17_eq (i : BitVec 17) : imm17 i = i.signExtend 64 := sext_toNat i

/-- Each row of `immTable` runs on the sign-extended immediate. -/
theorem exec_of_mem_immTable (d a : GReg) (i : BitVec 17) (s : State) :
    ∀ p ∈ immTable, exec (p.1 d a i) s = runWord s (s.op1 d a (fun x => p.2 x (i.signExtend 64))) := by
  rw [← imm17_eq]
  simp only [immTable, List.forall_mem_cons]
  refine ⟨rfl, rfl, rfl, rfl, ?_, List.forall_mem_nil _⟩
  simp only [BitVec.slt_iff_toInt_lt]
  rfl

theorem exec_of_mem_shiftTable (d a : GReg) (n : Fin 64) (s : State) :
    ∀ p ∈ shiftTable, exec (p.1 d a n) s = runWord s (s.op1 d a (fun x => p.2 x n.val)) := by
  simp only [shiftTable, List.forall_mem_cons]
  exact ⟨rfl, rfl, rfl, List.forall_mem_nil _⟩

/-- `sel` takes one of its sources at the type, by all 64 bits of the third. -/
theorem intOp_sel (ty : ITy) (x y z : Word) :
    intOp ty (fun _ x y => if z = 0 then y else x) x y = atType ty (fun _ x _ => x) (if z = 0 then y else x) 0 := by
  by_cases h : z = 0
  · simp only [h, if_true]
    exact IsBinOp.intOp_eq (g := fun _ _ y => y) (fun _ _ _ _ => rfl) ty x y
  · simp only [h, if_false]
    exact IsBinOp.intOp_eq (g := fun _ x _ => x) (fun _ _ _ _ => rfl) ty x y

/-! ### Bit fields (R127) -/

theorem sext_eq (x n : Nat) : sext x n = (BitVec.ofNat n x).signExtend 64 := by
  rw [← sext_toNat, BitVec.toNat_ofNat, sext, sext, toSigned, toSigned, Nat.mod_mod]

theorem zext_eq (x n : Nat) : zext x n = (BitVec.ofNat n x).setWidth 64 := by
  rw [zext, ← BitVec.toNat_ofNat, BitVec.ofNat_toNat]

theorem ofNat_wfld (x : Word) (p n : Nat) : BitVec.ofNat (n + 1) (wfld x (p + n) p) = x.extractLsb' p (n + 1) := by
  have hlen : p + n + 1 - p = n + 1 := by omega
  rw [wfld, fld, hlen, BitVec.extractLsb', Nat.shiftRight_eq_div_pow, ← BitVec.toNat_ofNat, BitVec.ofNat_toNat, BitVec.setWidth_eq]

/-- The value of `bfx`: a field of n + 1 bits from p on, extended. -/
def bfxValue (e : Ext) (p n : Nat) (x : Word) : Word :=
  if e = .sx then (x.extractLsb' p (n + 1)).signExtend 64 else (x.extractLsb' p (n + 1)).setWidth 64

/-- `bfx` runs as that value of its source. -/
theorem exec_bfx (d a : GReg) (e : Ext) (p n : Fin 64) (s : State) :
    exec (.bfx d a e p n) s = runWord s (s.op1 d a (bfxValue e p.val n.val)) := by
  change runWord s (s.op1 d a _) = _
  cases e with
  | sx => simp only [sext_eq, ofNat_wfld]; rfl
  | zx => simp only [zext_eq, ofNat_wfld]; rfl

theorem bfxValue_getLsbD (e : Ext) (p n : Nat) (x : Word) (j : Nat) (hj : j < 64) : (bfxValue e p n x).getLsbD j =
    if j ≤ n then x.getLsbD (p + j) else (e == .sx && x.getLsbD (p + n)) := by
  have hfield (k : Nat) : (x.extractLsb' p (n + 1)).getLsbD k = (decide (k ≤ n) && x.getLsbD (p + k)) := by
    rw [BitVec.getLsbD_extractLsb', decide_eq_decide.mpr Nat.lt_succ_iff]
  have hmsb : (x.extractLsb' p (n + 1)).msb = x.getLsbD (p + n) := by
    rw [BitVec.msb_eq_getLsbD_last, hfield]
    simp
  cases e with
  | sx =>
    rw [bfxValue, if_pos rfl, BitVec.getLsbD_signExtend, hfield, hmsb, decide_eq_true hj]
    by_cases h : j ≤ n
    · rw [if_pos h, if_pos (Nat.lt_succ_of_le h), decide_eq_true h]; rfl
    · rw [if_neg h, if_neg (mt Nat.le_of_lt_succ h)]; rfl
  | zx =>
    rw [bfxValue, if_neg nofun, BitVec.getLsbD_setWidth, hfield, decide_eq_true hj]
    by_cases h : j ≤ n
    · rw [if_pos h, decide_eq_true h]; rfl
    · rw [if_neg h, decide_eq_false h]; rfl

/-- The bits of a field from p on replaced by those of x: bits below p stay, then come the field and the bits above it. -/
theorem insertBits_eq (old x p len : Nat) :
    insertBits old x p len = 2 ^ p * (2 ^ len * (old / 2 ^ (p + len)) + x % 2 ^ len) + old % 2 ^ p := by
  have hlow : 2 ^ p * (old / 2 ^ p) + old % 2 ^ p = old := Nat.div_add_mod ..
  have hhigh : 2 ^ len * (old / 2 ^ p / 2 ^ len) + old / 2 ^ p % 2 ^ len = old / 2 ^ p := Nat.div_add_mod ..
  rw [insertBits, Nat.pow_add, ← Nat.div_div_eq_div_mul]
  generalize old / 2 ^ p / 2 ^ len = hi at *
  generalize old / 2 ^ p % 2 ^ len = mid at *
  rw [← hhigh] at hlow
  have hsplit : 2 ^ p * (2 ^ len * hi + mid) = 2 ^ p * (2 ^ len * hi) + mid * 2 ^ p := by
    rw [Nat.mul_add, Nat.mul_comm mid]
  have hnew : 2 ^ p * (2 ^ len * hi + x % 2 ^ len) = 2 ^ p * (2 ^ len * hi) + x % 2 ^ len * 2 ^ p := by
    rw [Nat.mul_add, Nat.mul_comm (x % 2 ^ len)]
  omega

theorem insertBits_testBit (old x p n j : Nat) : (insertBits old x p (n + 1)).testBit j =
    if p ≤ j ∧ j ≤ p + n then x.testBit (j - p) else old.testBit j := by
  rw [insertBits_eq, Nat.testBit_two_pow_mul_add _ (Nat.mod_lt _ (Nat.two_pow_pos p)),
    Nat.testBit_two_pow_mul_add _ (Nat.mod_lt _ (Nat.two_pow_pos _)), Nat.testBit_mod_two_pow, Nat.testBit_mod_two_pow,
    Nat.testBit_div_two_pow]
  by_cases hlow : j < p
  · simp [hlow, Nat.not_le.mpr hlow]
  · by_cases hmid : j - p < n + 1
    · have hin : p ≤ j ∧ j ≤ p + n := by omega
      simp [hlow, hmid, hin]
    · have hout : ¬(p ≤ j ∧ j ≤ p + n) := by omega
      have hplace : j - p - (n + 1) + (p + (n + 1)) = j := by omega
      simp [hlow, hmid, hout, hplace]

theorem bfiValue_getLsbD (old x : Word) (p n j : Nat) (hj : j < 64) :
    (BitVec.ofNat 64 (insertBits old.toNat x.toNat p (n + 1))).getLsbD j =
      if p ≤ j ∧ j ≤ p + n then x.getLsbD (j - p) else old.getLsbD j := by
  rw [BitVec.getLsbD_ofNat, insertBits_testBit, BitVec.testBit_toNat, BitVec.testBit_toNat, decide_eq_true hj, Bool.true_and]

/-! ### Held results (R65, R114) -/

/-- A result that the bundle holds back stands with the thread. -/
theorem State.putG_held {s : State} (hh : s.bun.hold = true) {d : GReg} (hd : s.Unbound d) (w : Word) :
    s.putG d w = .next (s.modMe (fun t => { t with held := t.held ++ [.g d w] })) := by
  rw [State.putG, State.checkDest_unbound hd]
  simp only [State.result, hh, if_true]

/-! ### The statement O4 -/

/-- Settles O4: each row runs one operation on its sources, and the result is written or, while the bundle holds it back, held. -/
theorem integerWords : Obligations.IntegerWords := by
  unfold Obligations.IntegerWords
  refine ⟨fun p hmem ty d a b s u t hr hp hd ha hb => ?_, fun p hmem ty d a s u t hr hp hd ha => ?_,
    fun ty d a b c s u t hr hp hd ha hb hc => ?_, fun p hmem d a i s u t hr hp hd ha => ?_,
    fun p hmem d a n s u t hr hp hd ha => ?_, fun d a e p n s u t hr hp hd ha _ => ?_,
    fun d a p n s u t hr hp hd ha _ => ?_, fun p hmem ty d a b s u t hr hh hd ha hb => ?_⟩
  · rw [exec_of_mem_intTable ty d a b s p hmem, State.op2_unbound hr hp hd ha hb, runWord_next hr]
  · rw [exec_of_mem_countTable ty d a s p hmem, State.op1_unbound hr hp hd ha, runWord_next hr]
  · change runWord s (s.op3 d a b c _) = _
    rw [State.op3_unbound hr hp hd ha hb hc, runWord_next hr, intOp_sel]
  · rw [exec_of_mem_immTable d a i s p hmem, State.op1_unbound hr hp hd ha, runWord_next hr]
  · rw [exec_of_mem_shiftTable d a n s p hmem, State.op1_unbound hr hp hd ha, runWord_next hr]
  · rw [exec_bfx, State.op1_unbound hr hp hd ha, runWord_next hr]
    exact ⟨_, rfl, bfxValue_getLsbD e p.val n.val (s.src a)⟩
  · have hexec : exec (.bfi d a p n) s = _ := congrArg (runWord s) (State.op1d_unbound hr hp hd ha _)
    exact ⟨_, hexec.trans (runWord_next hr), bfiValue_getLsbD (s.src d) (s.src a) p.val n.val⟩
  · rw [exec_of_mem_intTable ty d a b s p hmem, State.op2, State.getG_unbound ha, State.getG_unbound hb, State.putG_held hh hd,
      runWord_next hr]

end Sys2Proof.Machine
end

section
/-! PROOFS. Words of formats U and J, `lui`, branches, jumps and calls (R67, R68, R129 to R132). -/

namespace Sys2Proof.Machine
open Bits Tables

/-! ### The fields of formats U and J (R67) -/

/-- The major, the field d and the 21 low bits of such a word. -/
theorem encU_fields {m d i : Nat} (hm : m < 64) (hd : d < 16) (hi : i < 2 ^ 21) :
    majorOf (encU m d i) = m ∧ fld (encU m d i) 24 21 = d ∧ fld (encU m d i) 20 0 = i := by
  simp only [majorOf, fld, encU]
  omega

/-- Bit 30 is the top bit of the major: majors from 32 on are A-class (R62). -/
theorem isAClass_iff (w : Nat) : isAClass w = true ↔ 32 ≤ majorOf w := by
  rw [isAClass, beq_iff_eq]
  simp only [majorOf, fld]
  omega

theorem decodeRaw_lui {w : Nat} (h : majorOf w = 42) : decodeRaw w = .ok (.lui (fD w) (BitVec.ofNat 21 (fld w 20 0))) := by
  rw [decodeRaw, if_pos ((isAClass_iff w).mpr (by omega)), decA, h]
  rfl

theorem decodeRaw_jmp {w : Nat} (h : majorOf w = 5) :
    decodeRaw w = if fld w 24 21 = 0 then .ok (.jmp (BitVec.ofNat 21 (fld w 20 0))) else .error .reservedField := by
  rw [decodeRaw, if_neg (mt (isAClass_iff w).mp (by omega)), decC, h]
  simp [zeros]

theorem decodeRaw_call {w : Nat} (h : majorOf w = 6) :
    decodeRaw w = if fld w 24 21 = 15 then .ok (.call (BitVec.ofNat 21 (fld w 20 0))) else .error .reservedValue := by
  rw [decodeRaw, if_neg (mt (isAClass_iff w).mp (by omega)), decC, h]
  simp

theorem decodeWord_lui (d : GReg) (i : BitVec 21) : decodeWord (encU 42 d.val i.toNat) = .ok (.lui d i) := by
  obtain ⟨hmajor, hd, hi⟩ := encU_fields (m := 42) (by decide) d.isLt i.isLt
  have hreg : fD (encU 42 d.val i.toNat) = d := (congrArg (Fin.ofNat 16) hd).trans (Fin.ofNat_val_eq_self d)
  rw [decodeWord, decodeRaw_lui hmajor, hreg, hi, BitVec.ofNat_toNat, BitVec.setWidth_eq]
  rfl

/-- A word of major 5 needs a zero field d (R131). -/
theorem decodeWord_jmp {d : Nat} (hd : d < 16) (x : BitVec 21) :
    decodeWord (encU 5 d x.toNat) = if d = 0 then .ok (.jmp x) else .error .reservedField := by
  obtain ⟨hmajor, hfield, hi⟩ := encU_fields (m := 5) (by decide) hd x.isLt
  rw [decodeWord, decodeRaw_jmp hmajor, hfield, hi, BitVec.ofNat_toNat, BitVec.setWidth_eq]
  by_cases h : d = 0
  · rw [if_pos h]; rfl
  · rw [if_neg h]

/-- A word of major 6 names g15 in field d (R131). -/
theorem decodeWord_call {d : Nat} (hd : d < 16) (x : BitVec 21) :
    decodeWord (encU 6 d x.toNat) = if d = 15 then .ok (.call x) else .error .reservedValue := by
  obtain ⟨hmajor, hfield, hi⟩ := encU_fields (m := 6) (by decide) hd x.isLt
  rw [decodeWord, decodeRaw_call hmajor, hfield, hi, BitVec.ofNat_toNat, BitVec.setWidth_eq]
  by_cases h : d = 15
  · rw [if_pos h]; rfl
  · rw [if_neg h]

/-! ### `lui` (R129) -/

theorem ofInt_shiftLeft (w : Nat) (i : Int) (k : Nat) : BitVec.ofInt w i <<< k = BitVec.ofInt w (i * 2 ^ k) := by
  have hpow : BitVec.twoPow w k = BitVec.ofInt w (2 ^ k) := by
    rw [← BitVec.toNat_inj, BitVec.toNat_twoPow, ← BitVec.toNat_ofNat, ← BitVec.ofInt_natCast, natCast_two_pow]
  rw [BitVec.shiftLeft_eq_mul_twoPow, BitVec.ofInt_mul, hpow]

/-- Settles O5: `lui` has format U, and its immediate is one sign extension, then a shift. -/
theorem upperImmediates : Obligations.UpperImmediates := by
  unfold Obligations.UpperImmediates
  refine fun d i => ⟨rfl, decodeWord_lui d i, fun s u t hr hp hd => ?_⟩
  have hvalue : sext i.toNat 21 <<< 17 = BitVec.ofInt 64 (i.toInt * 2 ^ 17) := by
    rw [sext_toNat]
    exact ofInt_shiftLeft 64 i.toInt 17
  change runWord s (s.putG d (sext i.toNat 21 <<< 17)) = _
  rw [hvalue, State.putG_unbound hr hp hd, runWord_next hr]

/-! ### Targets (R68) -/

theorem State.target_eq_wordsAway (s : State) {n : Nat} (x : BitVec n) : s.target x = s.wordsAway x := by
  have hwords : x.signExtend 48 <<< 2 = BitVec.ofInt 48 (4 * x.toInt) := by
    rw [Int.mul_comm]
    exact ofInt_shiftLeft 48 x.toInt 2
  rw [State.target, State.wordsAway, hwords, BitVec.ofInt_add, BitVec.ofInt_natCast]

/-! ### Branches (R130) -/

theorem State.branch_unbound {s : State} {a b : GReg} (ha : s.Unbound a) (hb : s.Unbound b) (x : BitVec 17)
    (f : Word → Word → Bool) : s.branch a b x f = .next (if f (s.src a) (s.src b) then s.jumps (s.wordsAway x) else s) := by
  simp only [State.branch, State.getG_unbound ha, State.getG_unbound hb, State.target_eq_wordsAway]
  rfl

/-- Each row of `branchTable` runs as the branch of its condition. -/
theorem exec_of_mem_branchTable (a b : GReg) (x : BitVec 17) (s : State) :
    ∀ p ∈ branchTable, exec (p.1 a b x) s = runWord s (s.branch a b x p.2) := by
  have hge (v w : Word) : (!v.slt w) = decide (w.toInt ≤ v.toInt) := by
    rw [BitVec.slt_eq_decide, ← decide_not, decide_eq_decide, Int.not_lt]
  have hhs (v w : Word) : (!v.ult w) = decide (w.toNat ≤ v.toNat) := by
    rw [BitVec.ult, ← decide_not, decide_eq_decide, Nat.not_lt]
  simp only [branchTable, List.forall_mem_cons, hge, hhs]
  exact ⟨rfl, rfl, rfl, rfl, rfl, rfl, List.forall_mem_nil _⟩

/-! ### Register jumps (R132) -/

theorem State.goReg_aligned {s : State} {v : Word} (h : v.toNat % 4 = 0) (k : State → Step) :
    s.goReg v k = k (s.jumps (v.setWidth 48)) := if_pos h

theorem State.goReg_misaligned {s : State} {v : Word} (h : v.toNat % 4 ≠ 0) (k : State → Step) :
    s.goReg v k = trap .align (2 * 2 ^ 60 + v.toNat % 2 ^ 48) := if_neg h

theorem exec_jr_unbound {s : State} {a : GReg} (ha : s.Unbound a) :
    exec (.jr a) s = runWord s (s.goReg (s.src a) fun t => .next t) :=
  congrArg (runWord s) (State.getG_unbound ha _)

theorem exec_callr_unbound {s : State} {a : GReg} (ha : s.Unbound a) :
    exec (.callr a) s = runWord s (s.goReg (s.src a) fun t => t.putG 15 s.link) :=
  congrArg (runWord s) (State.getG_unbound ha _)

theorem State.jumps_prompt {s : State} (hp : s.Prompt) (pc : BitVec 48) : (s.jumps pc).Prompt := by
  rw [State.Prompt, State.jumps, State.modCtx_bun]
  exact hp

/-- No stream is ever bound to g15 (R186), so a link is written whatever the bindings are. -/
theorem State.putG_link {s : State} (hp : s.Prompt) (w : Word) : s.putG 15 w = .next (s.withG 15 w) := by
  have hstream (x : SlotRegs) : x.stream 15 = none := rfl
  simp only [State.Prompt] at hp
  simp only [State.putG, State.checkDest, hstream, State.result, hp, State.applyHeld, State.writeGOf, State.withG, State.modCtx,
    State.modMe, Bool.false_eq_true, if_false]

/-! ### The statements O6 and O7 -/

/-- Settles O6: a branch or register jump reads its sources, and then it jumps, goes on or traps. -/
theorem controlTransfers : Obligations.ControlTransfers := by
  unfold Obligations.ControlTransfers
  refine ⟨fun p hmem a b x s u t hr ha hb => ?_, fun k x s u t hr => ?_, fun a s u t hr ha hal => ?_, fun a s u t hr ha hmis => ?_⟩
  · rw [exec_of_mem_branchTable a b x s p hmem, State.branch_unbound ha hb, runWord_next hr]
  · rw [← State.target_eq_wordsAway]
    exact ⟨runWord_next hr, runWord_next hr⟩
  · rw [exec_jr_unbound ha, exec_callr_unbound ha, State.goReg_aligned hal, State.goReg_aligned hal]
    refine ⟨runWord_next hr, fun hp => ?_⟩
    rw [State.putG_link (State.jumps_prompt hp _), runWord_next hr]
    rfl
  · rw [exec_jr_unbound ha, exec_callr_unbound ha, State.goReg_misaligned hmis, State.goReg_misaligned hmis]
    exact ⟨runWord_trap_cause hr _ _, rfl⟩

/-- Settles O7: `jmp` and `call` have format J, and their target is the same number of words from the bundle. -/
theorem jumpsAndCalls : Obligations.JumpsAndCalls := by
  unfold Obligations.JumpsAndCalls
  refine fun x => ⟨decodeWord_jmp (d := 0) (by decide) x, decodeWord_call (d := 15) (by decide) x,
    fun d hd hne => ⟨.reservedField, ?_⟩, fun d hd => ⟨.reservedValue, ?_⟩, fun s u t hr => ⟨runWord_next hr, fun hp => ?_⟩⟩
  · exact (decodeWord_jmp hd x).trans (if_neg hne)
  · exact (decodeWord_call (by omega) x).trans (if_neg (by omega))
  · have hcall : exec (.call x) s = runWord s ((s.jumps (s.target x)).putG 15 s.link) := rfl
    rw [hcall, State.putG_link (State.jumps_prompt hp _), runWord_next hr]
    rfl

end Sys2Proof.Machine
end

section
/-! PROOFS. Fences: what one waits for at its issue, when a probe is echoed, and what an echo does (R137, R149, R166, R215). -/

namespace Sys2Proof.Machine
open Bits Tables

/-! ### A fence at its issue (R137, R166) -/

/-- A fence with nothing outstanding passes; from scope package on it clears TBM. -/
theorem State.Runs.fenceStep_passes {s : State} {u : Nat} {t : Thread} (hr : s.Runs u t) (hq : t.Quiet) (scope : Nat) (cont : FenceCont)
    (k : State → Step) : s.fenceStep scope cont k = k (if 3 ≤ scope then s.fenced else s) := by
  have hprobes : probes s.cid t.ctx.tbm scope = [] := by rw [hq.tbm, probes_zero]
  simp only [State.fenceStep, hr.th, hq.settled, hq.covered, hprobes, List.isEmpty_nil, Bool.and_self, if_true]
  rfl

/-- A fence waits while a spray access is not acknowledged (R166 step 1). -/
theorem State.Runs.fenceStep_waits {s : State} {u : Nat} {t : Thread} (hr : s.Runs u t) (hspray : t.spray ≠ []) (scope : Nat)
    (k : State → Step) : s.fenceStep scope .complete k =
      .park (s.setThread u { t with wait := .fence scope false [] .complete }) := by
  have hunsettled : t.settled scope = false := by simp [Thread.settled, hspray]
  have hstays : (s.setThread u { t with wait := .fence scope false [] .complete }).fenceAdvance u =
      s.setThread u { t with wait := .fence scope false [] .complete } := by
    simp only [State.fenceAdvance, State.setThread_thread_same]
    exact if_neg (Bool.eq_false_iff.mp hunsettled)
  simp only [State.fenceStep, hr.th, hr.uid, hunsettled, Bool.false_and, Bool.false_eq_true, if_false, if_true, hr.modMe, hstays]

theorem three_le_scope (sc : Scope) : 3 ≤ Scope.num sc ↔ sc = .package ∨ sc = .fabric := by
  cases sc <;> decide

/-! ### Messages that have arrived -/

/-- An event that takes an arrived message goes on with it, the message taken from the net. -/
theorem State.onMsg_arrived {s : State} {n : Nat} {m : Msg} (h : s.arrived n = some m) (f : Msg → State → Option State) :
    s.onMsg n f = f m (s.dropMsg n) := by
  simp only [State.onMsg, State.take, h, Option.map_some]

theorem mem_of_mem_dropAt {α : Type} {x : α} {l : List α} {n : Nat} (h : x ∈ dropAt l n) : x ∈ l := by
  induction l generalizing n with
  | nil => exact h
  | cons a l ih =>
    cases n with
    | zero => exact List.mem_cons_of_mem a h
    | succ n =>
      rcases List.mem_cons.mp h with rfl | h
      · exact List.mem_cons_self
      · exact List.mem_cons_of_mem a (ih h)

/-! ### Probes (R166) -/

/-- An earlier ordered access of a message's source to the same home. -/
theorem State.accessBefore_iff (s : State) (n : Nat) (m : Msg) :
    s.accessBefore n m = true ↔ ∃ x ∈ s.net.take n, x.chan = 0 ∧ x.dst = m.dst ∧ m.src ∈ x.sources := by
  simp [State.accessBefore, and_assoc]

theorem exec_fenceProbe {s : State} {n : Nat} {m : Msg} (h : s.arrived n = some m) (hbody : m.body = .probe) :
    exec (.fenceProbe n) s = event "FENCE_PROBE" (if s.accessBefore n m then none else some (s.answered n m .echo)) := by
  change event "FENCE_PROBE" (s.onMsg n _) = _
  rw [State.onMsg_arrived h, hbody]
  rfl

/-! ### Echoes (R149, R166, R215) -/

theorem State.refusalFlies_iff (s : State) (u : Nat) :
    s.refusalFlies u = true ↔ ∃ x ∈ s.net, x.uid = u ∧ x.party = .core ∧ ∃ va, x.body = .refusal va := by
  rw [State.refusalFlies, List.any_eq_true]
  refine exists_congr fun x => and_congr_right fun _ => ?_
  rw [Bool.and_eq_true, Bool.and_eq_true, beq_iff_eq, beq_iff_eq, and_assoc]
  refine and_congr_right fun _ => and_congr_right fun _ => ?_
  split
  case h_1 va hva => exact ⟨fun _ => ⟨va, hva⟩, fun _ => rfl⟩
  case h_2 hne => exact ⟨nofun, fun ⟨va, hva⟩ => absurd hva (hne va)⟩

theorem exec_fenceEcho {s : State} {n : Nat} {m : Msg} (h : s.arrived n = some m) (hbody : m.body = .echo) :
    exec (.fenceEcho n) s =
      event "FENCE_ECHO" (if (s.dropMsg n).refusalFlies m.uid then none else some ((s.dropMsg n).echoed m)) := by
  change event "FENCE_ECHO" (s.onMsg n _) = _
  rw [State.onMsg_arrived h, hbody]

/-- A C word that ends with no result held and no beat to come leaves its thread free to issue (R65). -/
theorem State.finish_plain {s : State} {u : Nat} {t : Thread} (ht : s.thread u = some t) (hp : t.Plain) :
    s.finish u = s.setThread u { t.woken s.cycle with aRan := false } := by
  obtain ⟨hheld, hbeats⟩ := hp
  have hwoken : { t.woken s.cycle with held := [], aRan := false } = { t.woken s.cycle with aRan := false } := by
    rw [← hheld]
    rfl
  simp only [State.finish, ht, hbeats, hheld, if_true, List.foldl_nil, hwoken]

section
variable {s : State} {m : Msg} {t : Thread} {scope : Nat} {left : List Nat} (ht : s.thread m.uid = some t)
  (hwait : t.wait = .fence scope true left .complete) (hmem : m.src ∈ left)
include ht hwait hmem

/-- An echo with others still out is counted. -/
theorem State.echoed_counts (hlen : 1 < left.length) :
    s.echoed m = s.setThread m.uid { t with wait := .fence scope true (left.erase m.src) .complete } := by
  have hmore : (left.erase m.src).isEmpty = false := by
    rw [List.isEmpty_eq_false_iff_exists_mem, ← List.length_pos_iff_exists_mem, List.length_erase_of_mem hmem]
    omega
  simp only [State.echoed, ht, hwait, hmore, Bool.false_eq_true, if_false]

/-- The last echo ends the fence of a thread without a recorded refusal: TBM is clear from scope package on, and the word completes. -/
theorem State.echoed_ends (hlen : left.length = 1) (hplain : t.Plain) (href : t.refusal = none) :
    s.echoed m = (s.setThread m.uid { t with ctx := if 3 ≤ scope then { t.ctx with tbm := 0 } else t.ctx }).setThread m.uid
      { t.woken s.cycle with aRan := false, ctx := if 3 ≤ scope then { t.ctx with tbm := 0 } else t.ctx } := by
  have hlast : (left.erase m.src).isEmpty = true := by
    rw [List.isEmpty_iff_length_eq_zero, List.length_erase_of_mem hmem, hlen]
  have hclear : t.covered scope = none := by simp only [Thread.covered, href]
  simp only [State.echoed, ht, hwait, hlast, if_true, State.fenceEnd, hclear]
  exact State.finish_plain (State.setThread_thread_same ..) hplain

end

/-! ### The statement O12 -/

/-- Settles O12: a fence is decided by what its thread has outstanding, a probe by the accesses before it, and an echo by the refusals
under way and the echoes still out. -/
theorem fences : Obligations.Fences := by
  unfold Obligations.Fences
  refine ⟨fun s u t hr => ⟨fun hq => ⟨?_, fun sc => ?_⟩, fun hspray => ⟨rfl, fun sc => ?_⟩⟩, fun n s m harr =>
    ⟨fun hbody => ⟨fun hnone => ?_, fun hbefore => ?_⟩, fun hbody hflies => ?_,
      fun t scope left hbody ht hplain hquiet hwait href hmem => ?_⟩⟩
  · change runWord s (s.fenceStep 4 .complete _) = _
    rw [hr.fenceStep_passes hq, runWord_next hr]
    rfl
  · change runWord s (s.fenceStep (Scope.num sc) .complete _) = _
    simp only [hr.fenceStep_passes hq, runWord_next hr, three_le_scope]
  · change ∃ s' n, runWord s (s.fenceStep (Scope.num sc) .complete _) = _ ∧ _
    rw [hr.fenceStep_waits hspray, runWord_park hr]
    exact ⟨_, Scope.num sc, rfl, rfl, State.setThread_thread_same .., rfl, rfl⟩
  · rw [exec_fenceProbe harr hbody, if_neg]
    · rfl
    · rw [State.accessBefore_iff]
      rintro ⟨x, hx, hbefore⟩
      exact hnone x hx hbefore
  · rw [exec_fenceProbe harr hbody, if_pos ((s.accessBefore_iff n m).mpr hbefore)]
    rfl
  · rw [exec_fenceEcho harr hbody, if_pos ((State.refusalFlies_iff ..).mpr hflies)]
    rfl
  · have hnone : ¬ (s.dropMsg n).refusalFlies m.uid = true := by
      rw [State.refusalFlies_iff]
      rintro ⟨x, hx, huid, -, va, hva⟩
      exact hquiet x (mem_of_mem_dropAt hx) huid va hva
    have ht' : (s.dropMsg n).thread m.uid = some t := ht
    rw [exec_fenceEcho harr hbody, if_neg hnone]
    rcases Nat.eq_or_lt_of_le (List.length_pos_of_mem hmem) with hone | hmany
    · rw [State.echoed_ends ht' hwait hmem hone.symm hplain href]
      exact ⟨_, rfl, rfl, fun _ => State.setThread_thread_same .., fun hmany => absurd hone (Nat.ne_of_lt hmany)⟩
    · rw [State.echoed_counts ht' hwait hmem hmany]
      exact ⟨_, rfl, rfl, fun hone => absurd hone (Nat.ne_of_gt hmany), fun _ => State.setThread_thread_same ..⟩

end Sys2Proof.Machine
end

section
/-! PROOFS. Aged accesses: `lda`, `fetcha` and `pub` ask the home of an aged page (R139, R155, R156, R158). -/

namespace Sys2Proof.Machine
open Bits Tables

/-! ### Waited-for accesses (R145, R204) -/

theorem State.setThread_thread_ne (s : State) {u v : Nat} (t : Thread) (h : v ≠ u) : (s.setThread u t).thread v = s.thread v :=
  find_put_ne _ _ _ _ (Ne.symm h)

/-- A waited-for access that no spray access holds back asks its home. -/
theorem State.Runs.waitFor_asks {s : State} {u : Nat} {t : Thread} (hr : s.Runs u t) {p : Page} {va n : Nat}
    (hfree : t.sprayHolds (p.ga va) n = false) (c : Cls) (d : GReg) (r : Req) :
    ∃ s', runWord s (s.waitFor p (p.ga va) va n c d r) = .next s' ∧ s.Asks s' u t p va c d r := by
  have hinj (m : Msg) : (s.inject m).Runs u t := hr.of_fields rfl rfl rfl
  simp only [State.waitFor, hr.th, hfree, Bool.false_eq_true, if_false, runWord_park hr, (hinj _).modMe, hr.booth, hr.uid]
  exact ⟨_, rfl,
    { fin := rfl
      waits := State.setThread_thread_same ..
      sent := ⟨_, rfl, rfl, rfl, rfl, rfl, rfl, rfl, rfl, rfl, rfl, rfl, rfl, fun hc => by rw [hc]; rfl⟩
      memory := rfl
      slots := rfl
      booths := rfl
      others := fun v hv => State.setThread_thread_ne _ _ hv }⟩

theorem Thread.sprayHolds_nil {t : Thread} (h : t.spray = []) (ga n : Nat) : t.sprayHolds ga n = false := by
  rw [Thread.sprayHolds, h, List.any_nil]

/-! ### Addresses, lags and frames (R44, R143, R155) -/

theorem State.alignedTo_aligned {s : State} {va n : Nat} (h : va % n = 0) (k : State → Step) : s.alignedTo va n k = k s := if_pos h

/-- A lag is the count of its field or the low 24 bits of a register (R44). -/
theorem State.lag_eq {s : State} {g : Lag} {n : Nat} (hcount : ∀ k, g = .count k → n = k.val)
    (hreg : ∀ r, g = .reg r → s.Unbound r ∧ n = (s.src r).toNat % 2 ^ 24) (k : Nat → State → Step) : s.lag g k = k n s := by
  cases g with
  | count i => rw [hcount i rfl, State.lag]
  | reg r =>
    obtain ⟨hr, rfl⟩ := hreg r rfl
    rw [State.lag, State.getG_unbound hr]
    simp [wfld, fld]

/-- The frame that a register names: its low eight bits. -/
theorem wfld_frame (w : Word) : wfld w 7 0 = w.toNat % 256 := by simp [wfld, fld]

/-- A frame in a bank of the booth that no handover holds. -/
theorem State.ownFrame_owned {s : State} {f : Nat} (hown : s.ownsOff s.cid s.booth (512 * f) = true)
    (hfree : s.bankHeld (s.cid * 16 + f / 16) = false) (c : Cause) (k : State → Step) : s.ownFrame c f k = k s := by
  rw [State.ownFrame, Nat.mul_comm f, hown, if_pos rfl, hfree]
  rfl

/-! ### The statement O20 -/

/-- Settles O20: each word translates its address to the page's home and asks it, as no spray access is outstanding. -/
theorem agedAccesses : Obligations.AgedAccesses := by
  unfold Obligations.AgedAccesses
  refine fun d a s u t p va hr hd ha hspray => ⟨fun m g o n hva hal hfar hcount hreg => ⟨?_, fun f hf hown hheld => ?_⟩,
    fun b f hva hal hfar hb hf hown hheld => ?_⟩
  · change ∃ s', runWord s (s.agedLoad d a m g o) = _ ∧ _
    simp only [State.agedLoad, State.getG_unbound ha, State.lag_eq hcount hreg, ← hva, State.alignedTo_aligned hal, hfar.translate,
      State.checkDest_unbound hd, hr.th, Thread.sprayHolds_nil hspray, Bool.false_eq_true, if_false, State.agewait, hr.booth]
    exact hr.waitFor_asks (Thread.sprayHolds_nil hspray ..) ..
  · change ∃ s', runWord s (s.fetchBlock d a m g o) = _ ∧ _
    rw [← hr.booth] at hown
    simp only [State.fetchBlock, State.getG_unbound ha, State.getG_unbound hd, State.lag_eq hcount hreg, ← hva,
      State.alignedTo_aligned hal, hfar.translate, wfld_frame, ← hf, State.ownFrame_owned hown hheld, hr.th,
      Thread.sprayHolds_nil hspray, Bool.false_eq_true, if_false, State.agewait, hr.booth]
    exact hr.waitFor_asks (Thread.sprayHolds_nil hspray ..) ..
  · change ∃ s', runWord s (s.pub d a b) = _ ∧ _
    rw [← hr.booth] at hown
    simp only [State.pub, State.getG_unbound ha, State.getG_unbound hb, ← hva, State.alignedTo_aligned hal, hfar.translate,
      wfld_frame, ← hf, State.ownFrame_owned hown hheld, State.checkDest_unbound hd, hr.th, Nat.mul_comm f]
    exact hr.waitFor_asks (Thread.sprayHolds_nil hspray ..) ..

end Sys2Proof.Machine
end
